-- ==== Sys2Proof/Word.lean ====
section
/-! DEFINITION. The word types and the sparse containers every other file speaks of (spec/00_scope.md R9). -/

namespace Sys2Proof

/-- One byte. -/
abbrev Byte := BitVec 8

/-- A 32-bit word, a vector lane and a `PARAM` or `RESULT` word. -/
abbrev W32 := BitVec 32

/-- A 64-bit word, a C-tile register and an AX64 accumulator word. -/
abbrev W64 := BitVec 64

/-- A sparse map from numbers to plain data: pairs with strictly rising keys. An absent key stands for the
default that the map's own accessor names. -/
abbrev SMap (α : Type) := List (Nat × α)

/-- Byte memory as the host's cells, addresses strictly rising. -/
abbrev Mem := List Host.Cell

/-- Bytes per 64 B unit, the address unit of instruction fields (R57, R116). -/
def unitBytes : Nat := 64

/-- Bytes of one flit payload (R146). -/
def flitBytes : Nat := 1024

end Sys2Proof
end

