-- ==== Sys2Proof/Syntax.lean ====
section
/-! DEFINITION. The commands of the block: one constructor per row of spec/opcode_table.json, with operands that
name the unit, the command entry, the instruction word or the observed value (the table gives no row any fields). -/

namespace Sys2Proof

/-- A partition number (spec/12_partitions_and_contexts.md R350). -/
abbrev PartId := Fin 16

/-- A rim die in the order S0–S3, E0–E3, N0–N3, W0–W3 (R352). -/
abbrev RimId := Fin 16

/-- An absolute node number: hub 0, rim dies 1–16, skein p(c, r) as 32 + 18 r + c (R191). -/
abbrev Node := Nat

/-- A belay wire: 0–15 the partition hold domains, 16 the transit wire (R194). -/
abbrev Wire := Fin 17

/-- The four link ports of a router (R155). -/
inductive Side where
  | N | E | S | W
  deriving DecidableEq, Repr

/-- A die of a partition, by its die index (R349). -/
structure DRef where
  part : PartId
  die : Fin 256
  deriving DecidableEq, Repr

/-- An M-tile of a die (R16). -/
structure MRef where
  part : PartId
  die : Fin 256
  tile : Fin 8
  deriving DecidableEq, Repr

/-- A V-tile of a die (R16). -/
structure VRef where
  part : PartId
  die : Fin 256
  tile : Fin 12
  deriving DecidableEq, Repr

/-- A C-tile core of a die: 4 × C-tile + core (R168). -/
structure CRef where
  part : PartId
  die : Fin 256
  core : Fin 16
  deriving DecidableEq, Repr

/-- The router input at which the check of a partition's flit fails (R153): of a die of the partition (by die index), of another
partition's die that the flit crosses (by logical position), or of a rim edge router (by edge port). -/
inductive CheckPlace where
  | die (d : Fin 256) (port : Side)
  | crossed (col row : Fin 16) (port : Side)
  | edge (rim : RimId) (port : Fin 16)
  deriving DecidableEq, Repr

/-- An engine of a rim die: 0–3 stream engines, 4–7 gather engines (R288). -/
structure EngRef where
  rim : RimId
  eng : Fin 8
  deriving DecidableEq, Repr

/-- A command ring: the admin ring or a partition's (R381). -/
inductive RingId where
  | admin
  | part (p : PartId)
  deriving DecidableEq, Repr

/-- A host write to its own memory that has become globally visible (R383, R384). -/
structure HostWrite where
  addr : Nat
  data : List Byte
  deriving DecidableEq, Repr

/-- The fields of a 64 B command entry other than `OPCODE` (R389); `reserved` gathers its reserved bits
[39:36], [63:48] and [127:96]. -/
structure CmdEntry where
  tag : BitVec 16
  part : BitVec 4
  ctx : BitVec 6
  irq : Bool
  fence : Bool
  len : W32
  addr : W64
  param : List W32
  reserved : Bool
  deriving DecidableEq, Repr

/-- A command of a ring as the module performs it: its ring, its entry, and whether the link reported the
host accesses it makes as done (R473). -/
structure Request where
  ring : RingId
  entry : CmdEntry
  hostOk : Bool
  deriving DecidableEq, Repr

/-- How a die is lost (R446). -/
inductive LossCause where
  | heartbeats | regulator | sensor
  deriving DecidableEq, Repr

/-- One constructor per row of the table of operations and events. -/
inductive Instr where
  /-- NOP (R401): Command that does nothing and completes with ST_OK. -/
  | nop (q : Request)
  /-- NEGOTIATE (R398): Command that ANDs the offered feature vector with the supported features and returns the accepted vector. -/
  | negotiate (q : Request)
  /-- PARTITION_CREATE (R351): Admin command that checks and creates a partition with its shape, stacks and attributes, or refuses it. -/
  | partitionCreate (q : Request)
  /-- PARTITION_DESTROY (R375): Admin command that kills every job of a partition, writes its counter records and begins teardown. -/
  | partitionDestroy (q : Request)
  /-- RING_CREATE (R381): Admin command that describes and starts a partition ring. -/
  | ringCreate (q : Request)
  /-- SET_ENVELOPE (R422): Admin command that sets the module power envelope within its limits. -/
  | setEnvelope (q : Request)
  /-- READ_STATUS (R410): Command that writes the module, temperature, correction or spare-state record its selector names. -/
  | readStatus (q : Request)
  /-- SESSION_OPEN (R488): Command that runs an ECDH exchange signed by the identity key and derives a new session key. -/
  | sessionOpen (q : Request)
  /-- ATTEST (R489): Command that writes a signed attestation report and the certificate chain. -/
  | attest (q : Request)
  /-- IDE_KEY (R491): Command that unseals an IDE key block under the session key and installs the receive key set. -/
  | ideKey (q : Request)
  /-- FW_UPDATE (R485): Command that verifies a firmware image, writes it to the inactive slot and marks it active. -/
  | fwUpdate (q : Request)
  /-- DEBUG_UNLOCK (R495): Command that checks a signed token, destroys every partition and volatile key, and opens the debug port. -/
  | debugUnlock (q : Request)
  /-- CONTEXT_CREATE (R357): Command that creates a context on a partition, resident if a slot is free and otherwise out. -/
  | contextCreate (q : Request)
  /-- CONTEXT_DESTROY (R378): Command that kills a context's job, writes its counter record and frees its slot and span. -/
  | contextDestroy (q : Request)
  /-- CONTEXT_WINDOW (R370): Command that grants the host memory window in which out contexts are held. -/
  | contextWindow (q : Request)
  /-- LOAD_PATTERN (R403): Command that reads a pattern image, applies the load checks in order and places the pattern or refuses it. -/
  | loadPattern (q : Request)
  /-- UNLOAD_PATTERN (R404): Command that ends the loaded pattern's job, completing or killing it. -/
  | unloadPattern (q : Request)
  /-- RUN_STEPS (R405): Command that makes a context runnable for a number of steps and posts one completion per step. -/
  | runSteps (q : Request)
  /-- STACK_WRITE (R409): Command that moves host data into the context's span through the remote path. -/
  | stackWrite (q : Request)
  /-- STACK_READ (R409): Command that moves data from the context's span to host memory through the remote path. -/
  | stackRead (q : Request)
  /-- CHECKPOINT (R457): Command that mirrors a range of every stack and then drains the mirror with a header to host memory. -/
  | checkpoint (q : Request)
  /-- RESTORE (R460): Command that reads a checkpoint from host memory, checks it and writes it into every stack of the partition. -/
  | restore (q : Request)
  /-- SEQ_ADMIT (R406): Command that admits a sequence at the table phase of its effective step. -/
  | seqAdmit (q : Request)
  /-- SEQ_SWAP_WINDOW (R345): Command that grants or resizes the host swap window from its effective step. -/
  | seqSwapWindow (q : Request)
  /-- SEQ_READ (R407): Command that writes sequence-table entries to host memory. -/
  | seqRead (q : Request)
  /-- READ_COUNTERS (R380): Command that writes accounting counter records of the partition or its contexts. -/
  | readCounters (q : Request)
  /-- READ_PERF (R411): Command that writes the bank conflict counters of a die or the stream counters of a stack. -/
  | readPerf (q : Request)
  /-- BAD_OPCODE_COMMAND (R401): A command with an opcode not in the table completes with ST_BAD_OPCODE and has no effect. -/
  | badOpcodeCommand (q : Request) (opcode : BitVec 16)
  /-- WATCHED_LINE_INVALIDATE (R383): A snoop invalidates a ring's watched line, and the module rereads it and picks up every command up to the new CMD_PROD. -/
  | watchedLineInvalidate (ring : RingId) (writes : List HostWrite)
  /-- RING_ENABLE (R514): A write of 1 to RING.ENABLE checks the ring fields and starts the admin ring or sets the state to refused. -/
  | ringEnable
  /-- BAR0_WRITE (R511): A write to a BAR0 field with no behaviour of its own sets an RW field or is ignored. -/
  | bar0Write (offset : BitVec 16) (wide : Bool) (value : W64)
  /-- MSI_X_COALESCE_EXPIRY (R416): The 10 µs interrupt hold-off of a vector ends and one message covering its completions is sent. -/
  | msiXCoalesceExpiry (vector : Fin 17)
  /-- MMA (R61): M-tile matrix multiply-accumulate of the selected shape and stationarity into an accumulator tile. -/
  | mma (t : MRef) (w : BitVec 128)
  /-- MMV (R66): M-tile batched mat-vec of a held weight tile against n streamed vectors. -/
  | mmv (t : MRef) (w : BitVec 128)
  /-- DRN (R76): M-tile instruction that queues a drain of one accumulator tile to SRAM, a V-tile, the die buffer or the router. -/
  | drn (t : MRef) (w : BitVec 128)
  /-- ACZ (R78): M-tile instruction that queues the zeroing of one accumulator tile. -/
  | acz (t : MRef) (w : BitVec 128)
  /-- ACL (R78): M-tile instruction that queues the load of one accumulator tile from operand SRAM. -/
  | acl (t : MRef) (w : BitVec 128)
  /-- GAP (R81): M-tile planned idle as purl fill or as a ramp down and up of the activity level. -/
  | gap (t : MRef) (w : BitVec 128)
  /-- MT_WAIT (R524): M-tile instruction that waits for a sequencer event count to be at least 1. -/
  | mtWait (t : MRef) (w : BitVec 128)
  /-- MT_SIG (R119): M-tile instruction that signals a sequencer event once its earlier remote writes are accepted. -/
  | mtSig (t : MRef) (w : BitVec 128)
  /-- MT_LOOP (R59): M-tile instruction that repeats its body with advancing addresses and accumulator tiles. -/
  | mtLoop (t : MRef) (w : BitVec 128)
  /-- MT_END (R54): M-tile end of program. -/
  | mtEnd (t : MRef) (w : BitVec 128)
  /-- ACCUMULATOR_ENTRY_START (R72): A queued DRN, ACZ or ACL starts once its tile's instructions and its bank's earlier entries and spills are done. -/
  | accumulatorEntryStart (t : MRef) (bank : Fin 2)
  /-- SPILL (R75): An output-stationary held tile is written back from the cells to accumulator memory. -/
  | spill (t : MRef)
  /-- ARRAY_RESULT_READY (R70): An array instruction's results are all in its accumulator tile after fill and drain latency. -/
  | arrayResultReady (t : MRef)
  /-- FADD (R29): V-tile addition rounded once. -/
  | fadd (t : VRef) (w : W64)
  /-- FSUB (R29): V-tile subtraction rounded once. -/
  | fsub (t : VRef) (w : W64)
  /-- FMUL (R29): V-tile multiplication rounded once. -/
  | fmul (t : VRef) (w : W64)
  /-- FMA (R29): V-tile fused multiply-add with one rounding. -/
  | fma (t : VRef) (w : W64)
  /-- FNMA (R29): V-tile fused c minus a times b with one rounding. -/
  | fnma (t : VRef) (w : W64)
  /-- FMIN (R95): V-tile IEEE minimum. -/
  | fmin (t : VRef) (w : W64)
  /-- FMAX (R95): V-tile IEEE maximum. -/
  | fmax (t : VRef) (w : W64)
  /-- FSGN (R95): V-tile sign-bit operation: absolute value, negation or copy-sign. -/
  | fsgn (t : VRef) (w : W64)
  /-- FCMP (R95): V-tile comparison giving all ones or zero per lane or element. -/
  | fcmp (t : VRef) (w : W64)
  /-- SEL (R523): V-tile select per lane or element by a condition register. -/
  | sel (t : VRef) (w : W64)
  /-- IALU (R95): V-tile int32 arithmetic, logic, shift, min, max or multiply. -/
  | ialu (t : VRef) (w : W64)
  /-- SFU (R96): V-tile special function exp2, log2, reciprocal, reciprocal square root, tanh or erf. -/
  | sfu (t : VRef) (w : W64)
  /-- CVT (R102): V-tile format conversion into or out of a slot, or AX64 to FP32. -/
  | cvt (t : VRef) (w : W64)
  /-- CVMX (R103): V-tile conversion of FP32 or bf16 to MX blocks and scales. -/
  | cvmx (t : VRef) (w : W64)
  /-- DVMX (R103): V-tile conversion of MX blocks to FP32. -/
  | dvmx (t : VRef) (w : W64)
  /-- CVB (R104): V-tile conversion of BSI32 blocks to FP32 with a divisor. -/
  | cvb (t : VRef) (w : W64)
  /-- RSUM (R98): V-tile fixed-tree row sum over a register run. -/
  | rsum (t : VRef) (w : W64)
  /-- RMAX (R98): V-tile fixed-tree row maximum. -/
  | rmax (t : VRef) (w : W64)
  /-- RMIN (R98): V-tile fixed-tree row minimum. -/
  | rmin (t : VRef) (w : W64)
  /-- RDOT (R100): V-tile row sum of lane products. -/
  | rdot (t : VRef) (w : W64)
  /-- LD (R124): V-tile load of registers from its SRAM, contiguous, strided or transposing. -/
  | ld (t : VRef) (w : W64)
  /-- ST (R124): V-tile store of registers to its SRAM, contiguous or strided. -/
  | st (t : VRef) (w : W64)
  /-- LDB (R90): V-tile broadcast of one 32-bit SRAM word to every lane. -/
  | ldb (t : VRef) (w : W64)
  /-- PUT (R90): V-tile remote write of registers to another tile, the die buffer or the router local port. -/
  | put (t : VRef) (w : W64)
  /-- VT_WAIT (R524): V-tile instruction that waits for a sequencer event. -/
  | vtWait (t : VRef) (w : W64)
  /-- VT_SIG (R119): V-tile instruction that signals a sequencer event once its earlier remote writes are accepted. -/
  | vtSig (t : VRef) (w : W64)
  /-- VT_LOOP (R91): V-tile instruction that repeats its body with advancing registers and addresses. -/
  | vtLoop (t : VRef) (w : W64)
  /-- VT_END (R88): V-tile end of program. -/
  | vtEnd (t : VRef) (w : W64)
  /-- CT_INTEGER (R108): C-tile register-form integer operation. -/
  | ctInteger (c : CRef) (w : W32)
  /-- CT_INTEGER_IMMEDIATE (R108): C-tile immediate-form integer operation. -/
  | ctIntegerImmediate (c : CRef) (w : W32)
  /-- SHIFT_IN (R108): C-tile shift of a register left by 16 with an immediate shifted in. -/
  | shiftIn (c : CRef) (w : W32)
  /-- MULTIPLY (R108): C-tile multiply, low or high part. -/
  | multiply (c : CRef) (w : W32)
  /-- DIVIDE (R108): C-tile division or remainder, signed or unsigned. -/
  | divide (c : CRef) (w : W32)
  /-- CT_LOAD (R108): C-tile load from its own SRAM, zero- or sign-extended. -/
  | ctLoad (c : CRef) (w : W32)
  /-- CT_STORE (R109): C-tile store to its own SRAM. -/
  | ctStore (c : CRef) (w : W32)
  /-- DIE_READ (R108): C-tile 64-bit read from the die buffer. -/
  | dieRead (c : CRef) (w : W32)
  /-- DIE_WRITE (R108): C-tile 64-bit remote write to a V-tile, M-tile or die-buffer address under credit. -/
  | dieWrite (c : CRef) (w : W32)
  /-- FENCE (R108): C-tile wait until every earlier die write of the core has been accepted. -/
  | fence (c : CRef) (w : W32)
  /-- BRANCH (R108): C-tile conditional branch. -/
  | branch (c : CRef) (w : W32)
  /-- JAL (R108): C-tile jump and link by offset. -/
  | jal (c : CRef) (w : W32)
  /-- JALR (R108): C-tile jump and link through a register. -/
  | jalr (c : CRef) (w : W32)
  /-- TSEND (R190): C-tile send of a tether packet to a node of its own partition. -/
  | tsend (c : CRef) (w : W32)
  /-- TRECV (R110): C-tile wait for and take a tether packet from its receive queue. -/
  | trecv (c : CRef) (w : W32)
  /-- TPOLL (R108): C-tile read of the number of waiting tether packets. -/
  | tpoll (c : CRef) (w : W32)
  /-- SEQ_PORT_READ (R108): C-tile sequencer-port read of beat, round count, step index or die index. -/
  | seqPortRead (c : CRef) (w : W32)
  /-- SEQ_PORT_SIGNAL (R524): C-tile sequencer-port signal of an event. -/
  | seqPortSignal (c : CRef) (w : W32)
  /-- SEQ_PORT_WAIT (R524): C-tile sequencer-port wait for an event. -/
  | seqPortWait (c : CRef) (w : W32)
  /-- SEQ_PORT_SET_READY (R111): C-tile sequencer-port setting of a ready flag, releasing a sync-point belay that waits on it. -/
  | seqPortSetReady (c : CRef) (w : W32)
  /-- FAULT (R108): C-tile instruction that raises a software fault with a code. -/
  | ctFault (c : CRef) (w : W32)
  /-- CT_END (R108): C-tile core stops until the sequencer starts it again. -/
  | ctEnd (c : CRef) (w : W32)
  /-- EVENT_WAIT_COMPLETE (R524): A waiting WAIT or port wait completes once its event count is at least 1 and consumes one signal. -/
  | eventWaitComplete (d : DRef) (event : BitVec 8)
  /-- CREDIT_HOLD_TIMEOUT (R134): A counted write held beyond the sync timeout ends the partition's job. -/
  | creditHoldTimeout (d : DRef)
  /-- ERROR_RESPONSE_DECISION (R139): The module controller decides sit-out or re-run for the frozen partition and releases or keeps the wire. -/
  | errorResponseDecision (p : PartId)
  /-- RESTORE_HOLD_RELEASE (R212): After restoring persistent regions the controller resets the partition to its restart point and releases the restore hold. -/
  | restoreHoldRelease (p : PartId)
  /-- SEQUENCER_START (R169): A sequencer-list entry starts an M-tile, V-tile or C-tile core at its beat. -/
  | sequencerStart (d : DRef)
  /-- SEQUENCER_SIGNAL (R524): A sequencer-list entry signals an event at its beat. -/
  | sequencerSignal (d : DRef)
  /-- SYNC_POINT (R111): A sync point clears its set ready flag or raises belay until the flag is set. -/
  | syncPoint (d : DRef)
  /-- SYNC_TIMEOUT (R112): A sync-point belay outlasting the sync timeout ends the job with a software fault. -/
  | syncTimeout (d : DRef) (flag : Fin 16)
  /-- ROUND_START (R167): First beat of a round: counters reset, landing pointers return, RSTART credits refill, and layer-boundary work begins. -/
  | roundStart (p : PartId)
  /-- STEP_END (R166): After the last round-sequence entry the step ends, the step index advances and the step completion is posted. -/
  | stepEnd (p : PartId)
  /-- ROUND_ADMISSION (R427): The ledger decides 24 beats before a round boundary whether the round is admitted or begin a round-start hold. -/
  | roundAdmission (p : PartId)
  /-- HELD_ROUND_ADMIT (R427): In a beat of a round-start hold the admission test passes and the hub drops the wire. -/
  | heldRoundAdmit (p : PartId)
  /-- LEDGER_WINDOW_END (R429): A 100 µs power window ends; its mean updates overhead and sets or clears the input guard. -/
  | ledgerWindowEnd (meanW : Nat) (vin : Nat) (overheadW : Nat)
  /-- RECONCILIATION (R430): After a round the ledger adds its estimate minus its measured energy to the partition's credit. -/
  | reconciliation (p : PartId) (measuredUj : Nat)
  /-- DOMAIN_FREEZE (R194): A hold domain freezes 24 beats after its wire or the transit wire is raised. -/
  | domainFreeze (p : PartId)
  /-- DOMAIN_RESUME (R195): A hold domain resumes 24 beats after its wires are dropped. -/
  | domainResume (p : PartId)
  /-- RE_ENTRY (R196): The hub keeps a long-raised wire up 32 beats after the last source drops it, so M-tile levels climb back. -/
  | reEntry (wire : Wire)
  /-- BELAY_TIMEOUT (R201): A wire raised continuously for more than 50 ms is a hardware fault. -/
  | belayTimeout (wire : Wire)
  /-- SLOT_ENTRY (R155): In each beat a router drives each output from the source its slot entry names, with injections and splice addition. -/
  | slotEntry (d : DRef)
  /-- FABRIC_DELIVERY (R160): A delivered flit is written through its landing pointer into SRAM and the pointer advances. -/
  | fabricDelivery (d : DRef)
  /-- PUSH_ARRIVAL (R161): A pushed row or register reaches the tile's push queue, converted to BSI32 when it is a splice queue. -/
  | pushArrival (d : DRef) (queue : Fin 20)
  /-- FLIT_CHECK_FAILURE (R153): A received flit fails its CRC and is passed on as a zero flit with belay raised and a detected error recorded. -/
  | flitCheckFailure (p : PartId) (at_ : CheckPlace)
  /-- LINK_LOSS (R154): A link failing its check more than three times in 1 s or losing lane lock is a hardware fault. -/
  | linkLoss (a b : Node)
  /-- TERMINUS_FIRST_PASS (R233): Four beats after a slice's last first-pass flit lands, the terminus completes the record and summary and signals EVT1. -/
  | terminusFirstPass (d : DRef) (term : Fin 32)
  /-- TERMINUS_SECOND_PASS (R241): The terminus writes resolved second-pass blocks, completes the record and signals EVT2. -/
  | terminusSecondPass (d : DRef) (term : Fin 32)
  /-- RESYNC (R246): After a step's last round the controller restores and copies persistent state into each sat-out strand. -/
  | resync (p : PartId)
  /-- TETHER_DELIVERY (R193): A tether packet reaches its destination endpoint or receive queue. -/
  | tetherDelivery (p : PartId) (position : Nat)
  /-- TETHER_WORD_CHECK_FAILURE (R443): A tether word failing parity is dropped and its tether link counts as lost. -/
  | tetherWordCheckFailure (a b : Node)
  /-- HEARTBEAT (R446): Every 1 ms the module controller sends a VC1 heartbeat to every skein and rim die. -/
  | heartbeat (silent : List Node)
  /-- DIE_LOSS (R446): A die misses three heartbeats, reports a regulator fault or loses its sensor, and is a fault or retired. -/
  | dieLoss (n : Node) (cause : LossCause)
  /-- BIND_OFF_CHECK (R217): 24 beats before a layer boundary each rim checks commits and completions and raises belay if any is missing. -/
  | bindOffCheck (rim : RimId)
  /-- BIND_OFF_RELEASE (R217): A rim drops its bind-off belay in the beat after all three conditions hold. -/
  | bindOffRelease (rim : RimId)
  /-- STAGING_PULL_CHECK (R291): 24 beats before a pull the rim checks the flit is complete and otherwise raises belay. -/
  | stagingPullCheck (e : EngRef)
  /-- STAGING_FLIT_COMPLETE (R291): A staged flit's 16 units are decrypted and a belay waiting on it is dropped. -/
  | stagingFlitComplete (e : EngRef)
  /-- RECEIVE_PLACE_CHECK (R292): 24 beats before a receive the rim reserves a write-staging or hank place or raises belay. -/
  | receivePlaceCheck (e : EngRef) (hank : Bool)
  /-- STAGING_PLACE_FREE (R292): A write-staging or hank place frees and is reserved for a receive waiting in belay. -/
  | stagingPlaceFree (e : EngRef) (hank : Bool)
  /-- RIM_EDGE_PULL (R306): A rim edge entry sends the engine's next staged flit to the mesh. -/
  | rimEdgePull (rim : RimId) (port : Fin 16)
  /-- RIM_EDGE_RECEIVE (R306): A rim edge entry takes a flit from the mesh into write staging, a hank buffer or the remote path. -/
  | rimEdgeReceive (rim : RimId) (port : Fin 16)
  /-- STAGING_HANK_TIMEOUT (R293): A staging belay waiting on an undelivered hank or index beyond the sync timeout ends the job. -/
  | stagingHankTimeout (e : EngRef)
  /-- HANK_READ (R297): An engine reads the next hank of its descriptor list from the descriptor store. -/
  | hankRead (e : EngRef)
  /-- NULL_DESCRIPTOR (R295): A null descriptor is skipped. -/
  | nullDescriptor (e : EngRef)
  /-- READ_STREAM (R296): A kind 1 descriptor fetches its pieces from the stack into read staging. -/
  | readStream (e : EngRef)
  /-- WRITE_STREAM (R296): A kind 2 descriptor writes received flits to its pieces in the stack. -/
  | writeStream (e : EngRef)
  /-- OPERATION_STREAM (R295): A kind 3 descriptor applies its rim-cache operation with received operands to its pieces. -/
  | operationStream (e : EngRef)
  /-- GATHER (R300): A kind 4 descriptor fetches indexed rows into gather staging. -/
  | gather (e : EngRef)
  /-- SCATTER (R300): A kind 5 descriptor writes received flits to indexed rows. -/
  | scatter (e : EngRef)
  /-- INDEXED_OPERATION (R300): A kind 6 descriptor applies its rim-cache operation to indexed rows. -/
  | indexedOperation (e : EngRef)
  /-- HANK_WAIT (R299): A kind 7 descriptor stops both sequences until a hank arrives and then runs its descriptors. -/
  | hankWait (e : EngRef)
  /-- TRANSACTION_COMPLETE (R268): A stack transaction completes, corrected by ECC where needed. -/
  | transactionComplete (rim : RimId) (unit : BitVec 31) (symbols : Fin 73)
  /-- IADD32 (R278): Rim-cache wrapping add of 16 int32 elements. -/
  | iadd32 (rim : RimId) (unit : BitVec 31) (operand : BitVec 512) (mask : BitVec 16)
  /-- IADD64 (R278): Rim-cache wrapping add of 8 int64 elements. -/
  | iadd64 (rim : RimId) (unit : BitVec 31) (operand : BitVec 512) (mask : BitVec 16)
  /-- IMIN32 (R278): Rim-cache signed minimum of int32 elements. -/
  | imin32 (rim : RimId) (unit : BitVec 31) (operand : BitVec 512) (mask : BitVec 16)
  /-- IMAX32 (R278): Rim-cache signed maximum of int32 elements. -/
  | imax32 (rim : RimId) (unit : BitVec 31) (operand : BitVec 512) (mask : BitVec 16)
  /-- UMIN32 (R278): Rim-cache unsigned minimum of uint32 elements. -/
  | umin32 (rim : RimId) (unit : BitVec 31) (operand : BitVec 512) (mask : BitVec 16)
  /-- UMAX32 (R278): Rim-cache unsigned maximum of uint32 elements. -/
  | umax32 (rim : RimId) (unit : BitVec 31) (operand : BitVec 512) (mask : BitVec 16)
  /-- IMIN64 (R278): Rim-cache signed minimum of int64 elements. -/
  | imin64 (rim : RimId) (unit : BitVec 31) (operand : BitVec 512) (mask : BitVec 16)
  /-- IMAX64 (R278): Rim-cache signed maximum of int64 elements. -/
  | imax64 (rim : RimId) (unit : BitVec 31) (operand : BitVec 512) (mask : BitVec 16)
  /-- BSIADD (R278): Rim-cache BSI32 integer addition with marker absorption. -/
  | bsiadd (rim : RimId) (unit : BitVec 31) (operand : BitVec 512) (mask : BitVec 16)
  /-- XFADD (R284): Exact-float add into the target's reduction line, opening it if closed. -/
  | xfadd (rim : RimId) (unit : BitVec 31) (operand : BitVec 512) (mask : BitVec 16) (window : BitVec 9)
  /-- FINALIZE (R285): Converts a reduction line to FP32, writes the target and closes the frame. -/
  | finalize (rim : RimId) (unit : BitVec 31)
  /-- FLUSH (R278): Writes a dirty cache line back and keeps it. -/
  | flush (rim : RimId) (unit : BitVec 31)
  /-- REFRESH (R271): A refresh command falls due on a pseudo-channel every 3.9 µs. -/
  | refresh (rim : RimId) (channel : Fin 64)
  /-- SCRUB_OWED (R271): Scrub behind schedule with no slot for 1 s becomes owed and takes 1 % of slots. -/
  | scrubOwed (rim : RimId)
  /-- SCRUB (R271): Scrub reads a unit and writes back corrected data. -/
  | scrub (rim : RimId) (unit : BitVec 31) (symbols : Fin 73)
  /-- CALIBRATION (R273): A stack calibrates in a slack window or while no pattern runs. -/
  | calibration (rim : RimId)
  /-- FORCED_CALIBRATION (R273): After 100 ms without calibration the rim raises belay and calibrates. -/
  | forcedCalibration (rim : RimId)
  /-- CALIBRATION_COMPLETE (R273): Calibration ends and a forced-calibration belay is dropped. -/
  | calibrationComplete (rim : RimId)
  /-- STACK_TEMPERATURE_SAMPLE (R265): A 1 ms stack temperature sample sets or lifts a thermal cap or stops the stack. -/
  | stackTemperatureSample (rim : RimId) (sensor : Int)
  /-- DIE_TEMPERATURE_SAMPLE (R506): A 1 ms die junction sample is taken and compared with hold and trip thresholds. -/
  | dieTemperatureSample (n : Node) (junction : Int)
  /-- COOLANT_SAMPLE (R436): A 10 ms coolant inlet sample sets the coolant term of the power limit. -/
  | coolantSample (inlet outlet : Int)
  /-- TABLE_PHASE (R323): At a step boundary of a generation partition the runtime updates the sequence table and builds the work list. -/
  | tablePhase (p : PartId)
  /-- TABLE_PHASE_COMPLETE (R322): The table phase and its awaited transfers complete and the hub releases the round-start hold. -/
  | tablePhaseComplete (p : PartId)
  /-- SWAP_COPY_COMPLETE (R342): A frame copy to or from the host swap window completes. -/
  | swapCopyComplete (p : PartId) (hostOk : Bool)
  /-- SWAP_TIMEOUT (R345): A swap copy waiting more than 1 s for the host link ends the job. -/
  | swapTimeout (p : PartId)
  /-- CONTEXT_SWITCH (R363): At a round boundary the running context is saved into its slot and another is restored. -/
  | contextSwitch (p : PartId)
  /-- EVICTION (R368): The longest-blocked resident context is copied encrypted into the context window. -/
  | eviction (p : PartId)
  /-- BRING_IN (R368): A runnable out context is restored into the freed slot and span once the eviction copy completes. -/
  | bringIn (p : PartId) (hostOk : Bool)
  /-- TEARDOWN_COMPLETE (R376): A partition's teardown finishes and its dies, stacks, domain and leases are released. -/
  | teardownComplete (p : PartId)
  /-- DIAGNOSIS (R450): After a hardware fault the controller tests, retires, remaps and re-establishes the mesh. -/
  | diagnosis (failed : List Node)
  /-- CHECKPOINT_MIRROR_COMPLETE (R457): Every rim has finished mirroring and the header and mirrors are drained to host memory. -/
  | checkpointMirrorComplete (p : PartId) (hostOk : Bool)
  /-- CHECKPOINT_DRAIN_TIMEOUT (R459): A drain waiting more than 1 s for the host completes CHECKPOINT with ST_HOST_ACCESS. -/
  | checkpointDrainTimeout (p : PartId)
  /-- CLOCK_POINT_DECISION (R433): The power limit has stayed below or above its threshold long enough to change clock point. -/
  | clockPointDecision
  /-- CLOCK_CHANGE (R434): Once every partition is held the hub changes every die and rim to the new clock point. -/
  | clockChange
  /-- THROT_N_ASSERT (R439): An accepted THROT_N assertion sets the limit to the floor and zeroes positive credits. -/
  | throtNAssert
  /-- THROT_N_RELEASE (R439): THROT_N high for 1 ms ends the assertion and applies a stored envelope. -/
  | throtNRelease
  /-- EMERG_OFF_N (R440): EMERG_OFF_N low for 1 µs removes die power, destroys keys and drops PWRGD. -/
  | emergOffN
  /-- EMERG_OFF_RELEASE (R440): EMERG_OFF_N high for 100 ms restarts cast-on. -/
  | emergOffRelease
  /-- POWER_GOOD (R419): The input has stayed above 49 V for 10 ms with converters regulating, and PWRGD rises. -/
  | powerGood
  /-- INPUT_OUT_OF_RANGE (R419): An input below 46 V or above 63 V for 50 µs powers the module down. -/
  | inputOutOfRange
  /-- POWER_LOSS (R418): Removal of 56 V loses all state and keys. -/
  | powerLoss
  /-- CONVERTER_FAULT (R420): A converter that stops regulating is switched out and the power limit lowered. -/
  | converterFault (converter : Fin 16)
  /-- CAST_ON (R477): From power-good and PERST_N deassertion the boot ROM verifies firmware and cast-on begins. -/
  | castOn
  /-- LINK_TRAINED (R469): The link trains to a supported rate and width and cast-on reaches stage 2. -/
  | linkTrained (rate : Fin 3) (narrow : Bool)
  /-- CAST_ON_READY (R477): Background tests and training complete, stage 4 is reached and held commands run. -/
  | castOnReady (failed : List Node)
  /-- PERST_N_ASSERT (R479): Accepted PERST_N stops every schedule, destroys volatile keys, zeroes SRAM and returns to stage 0. -/
  | perstNAssert
  /-- HOT_RESET (R479): A hot reset or link disable acts as PERST_N does. -/
  | hotReset
  /-- LINK_RETRAIN (R480): A link leaving L0 without hot reset retrains and rereads every watched line. -/
  | linkRetrain
  /-- IDE_INTEGRITY_FAILURE (R492): An IDE integrity failure discards the flit and makes the stream insecure. -/
  | ideIntegrityFailure
  /-- IDE_TX_KEY_SWITCH (R491): The first flit received under a new key set moves the transmit side to that set. -/
  | ideTxKeySwitch
  /-- IDE_OLD_KEY_EXPIRY (R491): One second after installation the old receive key set is no longer accepted. -/
  | ideOldKeyExpiry
  /-- SNAP_REFRESH (R515): Every 1 ms the SNAP area is refreshed from one sample with SNAP.SEQ bracketing the update. -/
  | snapRefresh
  /-- ENTDAA (R502): I3C common command that assigns a dynamic address. -/
  | entdaa (address : BitVec 7)
  /-- SETDASA (R502): I3C common command that sets the dynamic address from the static address. -/
  | setdasa (address : BitVec 7)
  /-- RSTDAA (R502): I3C common command that resets the dynamic address. -/
  | rstdaa
  /-- SETNEWDA (R502): I3C common command that changes the dynamic address. -/
  | setnewda (address : BitVec 7)
  /-- GETPID (R502): I3C common command that returns the provisional ID. -/
  | getpid
  /-- GETBCR (R502): I3C common command that returns the BCR. -/
  | getbcr
  /-- GETDCR (R502): I3C common command that returns the DCR. -/
  | getdcr
  /-- GETSTATUS (R502): I3C common command that returns target status. -/
  | getstatus
  /-- GETMRL (R502): I3C common command that returns the 128 B maximum read length. -/
  | getmrl
  /-- GETMWL (R502): I3C common command that returns the 1 B maximum write length. -/
  | getmwl
  /-- RSTACT (R502): I3C common command accepted only with the no-reset action. -/
  | rstact (action : Byte)
  /-- I3C_PRIVATE_WRITE (R504): A one-byte private write sets the management register offset. -/
  | i3cPrivateWrite (bytes : List Byte)
  /-- I3C_PRIVATE_READ (R504): A private read returns management registers from the offset, sampled at the address phase. -/
  | i3cPrivateRead (count : Fin 129)
  /-- HOST_TRANSFER_COMPLETE (R393): A host transfer of a command (STACK_WRITE, STACK_READ, RESTORE, or the image read of LOAD_PATTERN) finishes, the command's completion is posted, and class C commands waiting behind it may start. -/
  | hostTransferComplete (ring : RingId) (tag : BitVec 16)
  /-- CONVERTER_TEMPERATURE_SAMPLE (R437): A converter temperature sample is compared with the 125 °C trip, which powers the module down at or above it. -/
  | converterTemperatureSample (converter : Fin 16) (degrees : Int)
  /-- I3C_TARGET_READY (R503): 50 ms after power-good the I3C target begins answering on the management bus. -/
  | i3cTargetReady
  deriving DecidableEq, Repr

end Sys2Proof
end

