-- ==== Sys2Proof/WellFormed.lean ====
section
/-! DEFINITION. What a command must look like to be one the module can meet: ring entries with their ten parameter words,
node numbers that R191 gives, host writes inside the address space (spec/13_flauri_commands.md R389,
spec/06_fabric_and_patterns.md R191, spec/17_contacts_and_windows.md R504, R505). -/

namespace Sys2Proof

/-- An absolute node number of R191. -/
def Node.wf (n : Node) : Bool := decide (n ≤ 16) || (decide (32 ≤ n) && decide (n < 320))

/-- A command entry has ten `PARAM` words (R389). -/
def CmdEntry.wf (e : CmdEntry) : Bool := e.param.length == 10

def Request.wf (q : Request) : Bool := q.entry.wf

/-- A host write lies in the 64-bit host address space. -/
def HostWrite.wf (w : HostWrite) : Bool := decide (w.addr + w.data.length ≤ 2 ^ 64)

/-- Two ends of a link. -/
def linkWf (a b : Node) : Bool := Node.wf a && Node.wf b && a != b

/-- Well-formed commands. -/
def Instr.wf : Instr → Bool
  | .nop q | .negotiate q | .partitionCreate q | .partitionDestroy q | .ringCreate q | .setEnvelope q | .readStatus q
  | .sessionOpen q | .attest q | .ideKey q | .fwUpdate q | .debugUnlock q | .contextCreate q | .contextDestroy q
  | .contextWindow q | .loadPattern q | .unloadPattern q | .runSteps q | .stackWrite q | .stackRead q | .checkpoint q
  | .restore q | .seqAdmit q | .seqSwapWindow q | .seqRead q | .readCounters q | .readPerf q
  | .badOpcodeCommand q _ => q.wf
  | .watchedLineInvalidate _ ws => ws.all HostWrite.wf
  | .linkLoss a b | .tetherWordCheckFailure a b => linkWf a b
  | .heartbeat ns | .diagnosis ns | .castOnReady ns => ns.all Node.wf
  | .dieLoss n _ | .dieTemperatureSample n _ => Node.wf n
  | .i3cPrivateRead n => decide (n.val ≤ 128)
  | _ => true

end Sys2Proof
end

