-- ==== Sys2Proof/Machine/Sparse.lean ====
section
/-! DEFINITION. Reading and writing the sparse maps and byte memories, each in its canonical form
(log entry 3): keys strictly rising, and no entry that an absent key would read as. -/

namespace Sys2Proof.Machine

/-- The value listed at key `k`. -/
def Sparse.get? {α : Type} (m : SMap α) (k : Nat) : Option α :=
  (m.find? (fun e => e.1 == k)).map (·.2)

/-- The value at key `k`, with the map's default. -/
def Sparse.getD {α : Type} (d : α) (m : SMap α) (k : Nat) : α :=
  (Sparse.get? m k).getD d

/-- Replace the entries at keys `lo, lo + 1, …`: the i-th takes the i-th value, or is unlisted where it is none. -/
def Sparse.putList {α : Type} (m : SMap α) (lo : Nat) (vs : List (Option α)) : SMap α :=
  m.filter (fun e => decide (e.1 < lo)) ++
    (vs.zipIdx lo).filterMap (fun e => e.1.map (fun v => (e.2, v))) ++
    m.filter (fun e => decide (lo + vs.length ≤ e.1))

/-- List value `v` at key `k`. -/
def Sparse.set {α : Type} (m : SMap α) (k : Nat) (v : α) : SMap α :=
  Sparse.putList m k [some v]

/-- Remove key `k`. -/
def Sparse.erase {α : Type} (m : SMap α) (k : Nat) : SMap α :=
  Sparse.putList m k [none]

/-- Set key `k` in a map whose absent keys read `d`. -/
def Sparse.setD {α : Type} [DecidableEq α] (d : α) (m : SMap α) (k : Nat) (v : α) : SMap α :=
  Sparse.putList m k [if v = d then none else some v]

/-- Change every listed value. -/
def Sparse.mapVals {α : Type} (f : Nat → α → α) (m : SMap α) : SMap α := m.map (fun e => (e.1, f e.1 e.2))

/-- The keys of a map rise strictly. -/
abbrev Sparse.Sorted {α : Type} (m : SMap α) : Prop :=
  m.Pairwise (fun a b => a.1 < b.1)

/-- Canonical form of a map whose absent keys read `d`. -/
abbrev Sparse.Canonical {α : Type} [DecidableEq α] (d : α) (m : SMap α) : Prop :=
  Sparse.Sorted m ∧ ∀ e ∈ m, e.2 ≠ d

/-- A byte of a memory whose unlisted addresses read 0 (tile SRAM, die buffer). -/
def Mem.read (m : Mem) (a : Nat) : Byte := Sparse.getD 0 m a

/-- `n` bytes from address `a`. -/
def Mem.readBytes (m : Mem) (a n : Nat) : List Byte :=
  (List.range n).map (fun i => Mem.read m (a + i))

/-- Write bytes from address `a`, keeping the canonical form of a zero-default memory. -/
def Mem.writeBytes (m : Mem) (a : Nat) (bs : List Byte) : Mem :=
  Sparse.putList m a (bs.map (fun b => if b = 0 then none else some b))

/-- Canonical form of a zero-default byte memory. -/
abbrev Mem.wf (m : Mem) : Prop := Sparse.Canonical 0 m

/-- Write bytes into a memory that lists exactly the bytes written (stack, host memory). -/
def Mem.record (m : Mem) (a : Nat) (bs : List Byte) : Mem :=
  Sparse.putList m a (bs.map some)

/-- Forget the `n` bytes from address `a`. -/
def Mem.forget (m : Mem) (a n : Nat) : Mem :=
  Sparse.putList m a (List.replicate n none)

/-- Little-endian value of a byte list (R9). -/
def leNat : List Byte → Nat
  | [] => 0
  | b :: bs => b.toNat + 256 * leNat bs

/-- The `n` little-endian bytes of a number (R9). -/
def leBytes : Nat → Nat → List Byte
  | 0, _ => []
  | n + 1, v => BitVec.ofNat 8 v :: leBytes n (v / 256)

/-- Bits [hi:lo] of a number (R9: both ends included). -/
def bits (v hi lo : Nat) : Nat := (v >>> lo) % 2 ^ (hi + 1 - lo)

/-- Bit `i` of a number. -/
def bit (v i : Nat) : Bool := v.testBit i

/-- A two's-complement field of `n` bits. -/
def signed (n v : Nat) : Int := if v < 2 ^ (n - 1) then (v : Int) else (v : Int) - 2 ^ n

/-- Rounded-up division. -/
def ceilDiv (a b : Nat) : Nat := (a + b - 1) / b

/-- Smallest `k` with `n ≤ 2^k`. -/
def ceilLog2 (n : Nat) : Nat := if n ≤ 1 then 0 else (n - 1).log2 + 1

/-- Apply `f` to the first `n` naturals in order, threading an accumulator. -/
def foldRange {α : Type} (n : Nat) (a : α) (f : α → Nat → α) : α := (List.range n).foldl f a

end Sys2Proof.Machine
end

