-- ==== Sys2Proof/Machine/Flags.lean ====
section
/-! DEFINITION. The status codes of completions and events (spec/13_flauri_commands.md R412). -/

namespace Sys2Proof.Machine

/-- The status codes of R412. -/
inductive Status where
  | ok | badOpcode | reservedNonzero | wrongRing | notNegotiated | feature | noPartition | noContext
  | badParam | hostAccess | killed | busy | noPattern | ringOverrun | auth
  | partitionShape | partitionBusy | stackSelect | partitionAttr | ringConfig | ctxLimit | ctxWindow
  | seqWindow | seqLate | seqTableFull | envelope | noSeqTable
  | imageFormat | errorMode | patternSize | illegalEncoding | phaseOrder | sramBudget | stackRegion
  | seqTable | slotConflict | creditWindow | syncLead | splicePath | badDescriptor | streamCount
  | bindOff | calWindow | rimSplit | edgeOccupancy | energy | transitLease
  | faultEncoding | faultSyncTimeout | faultDieAccess | faultCredit | faultUnderrun | faultBusyStart
  | faultTether | faultPhase | faultSplice | faultReductionLine | faultHank | faultFence | faultBindOff
  | faultStepReport | faultProgram | strandsExhausted | swapTimeout | swapIntegrity | ctxIntegrity
  | hwSramRepeat | hwLinkLoss | hwBelayTimeout | hwStackUe | hwStackTemp | hwDieLoss
  | seqFinished | seqLimit | seqParked | seqWindowFull | seqReadmitted | ctxWindowFull | eventsLost
  deriving DecidableEq, Repr

/-- The 16-bit code of a status (R412). -/
def Status.code : Status → Nat
  | .ok => 0x0000 | .badOpcode => 0x0001 | .reservedNonzero => 0x0002 | .wrongRing => 0x0003
  | .notNegotiated => 0x0004 | .feature => 0x0005 | .noPartition => 0x0006 | .noContext => 0x0007
  | .badParam => 0x0008 | .hostAccess => 0x0009 | .killed => 0x000A | .busy => 0x000B
  | .noPattern => 0x000C | .ringOverrun => 0x000D | .auth => 0x000E
  | .partitionShape => 0x0100 | .partitionBusy => 0x0101 | .stackSelect => 0x0102
  | .partitionAttr => 0x0103 | .ringConfig => 0x0104 | .ctxLimit => 0x0105 | .ctxWindow => 0x0106
  | .seqWindow => 0x0107 | .seqLate => 0x0108 | .seqTableFull => 0x0109 | .envelope => 0x010A
  | .noSeqTable => 0x010B
  | .imageFormat => 0x0200 | .errorMode => 0x0201 | .patternSize => 0x0202 | .illegalEncoding => 0x0203
  | .phaseOrder => 0x0204 | .sramBudget => 0x0205 | .stackRegion => 0x0206 | .seqTable => 0x0207
  | .slotConflict => 0x0208 | .creditWindow => 0x0209 | .syncLead => 0x020A | .splicePath => 0x020B
  | .badDescriptor => 0x020C | .streamCount => 0x020D | .bindOff => 0x020E | .calWindow => 0x020F
  | .rimSplit => 0x0210 | .edgeOccupancy => 0x0211 | .energy => 0x0212 | .transitLease => 0x0213
  | .faultEncoding => 0x0300 | .faultSyncTimeout => 0x0301 | .faultDieAccess => 0x0302
  | .faultCredit => 0x0303 | .faultUnderrun => 0x0304 | .faultBusyStart => 0x0305
  | .faultTether => 0x0306 | .faultPhase => 0x0307 | .faultSplice => 0x0308
  | .faultReductionLine => 0x0309 | .faultHank => 0x030A | .faultFence => 0x030B
  | .faultBindOff => 0x030C | .faultStepReport => 0x030D | .faultProgram => 0x030E
  | .strandsExhausted => 0x030F | .swapTimeout => 0x0310 | .swapIntegrity => 0x0311
  | .ctxIntegrity => 0x0312
  | .hwSramRepeat => 0x0400 | .hwLinkLoss => 0x0401 | .hwBelayTimeout => 0x0402
  | .hwStackUe => 0x0403 | .hwStackTemp => 0x0404 | .hwDieLoss => 0x0405
  | .seqFinished => 0x0500 | .seqLimit => 0x0501 | .seqParked => 0x0502 | .seqWindowFull => 0x0503
  | .seqReadmitted => 0x0504 | .ctxWindowFull => 0x0505 | .eventsLost => 0x0506

/-- How a word or field fails (R60, R94, R11): a reserved bit set, or an encoding that is illegal. -/
inductive Bad where
  | reserved
  | illegal
  deriving DecidableEq, Repr

/-- The load refusal of a failing word (R60). -/
def Bad.status : Bad → Status
  | .reserved => .reservedNonzero
  | .illegal => .illegalEncoding

end Sys2Proof.Machine
end

