-- ==== Sys2Proof/Config.lean ====
section
/-! DEFINITION. What an implementation fixes: the three parts of the family, and the free values and outside
functions that the spec leaves open (opaque: nothing can evaluate them). -/

namespace Sys2Proof

/-- The part numbers of the family (spec/00_scope.md R2). -/
inductive Part where
  | gq4_064 | gq4_128 | gq4_256
  deriving DecidableEq, Repr

/-- `IDENT.PART` (spec/17_contacts_and_windows.md, R510): 0x0040, 0x0080 or 0x0100. -/
def Part.code : Part → Nat
  | .gq4_064 => 0x40
  | .gq4_128 => 0x80
  | .gq4_256 => 0x100

/-- Logical mesh rows, which are also the spare groups (R2, R447). -/
def Part.rows : Part → Nat
  | .gq4_064 => 4
  | .gq4_128 => 8
  | .gq4_256 => 16

/-- Active skeins (R2). -/
def Part.skeins (p : Part) : Nat := 16 * p.rows

/-- Skeins fitted in spare group `g` (R2, R447). -/
def Part.groupSkeins : Part → Nat → Nat
  | .gq4_064, _ => 17
  | .gq4_128, g => if g < 6 then 17 else 18
  | .gq4_256, _ => 18

/-- Spare budget of group `g` (R447). -/
def Part.budget (p : Part) (g : Nat) : Nat := p.groupSkeins g - 16

/-- The rim dies a part carries, in the order S0–S3, E0–E3, N0–N3, W0–W3 (R19). -/
def Part.hasRim : Part → Nat → Bool
  | .gq4_064, k => k % 4 == 0
  | .gq4_128, k => k % 4 < 2
  | .gq4_256, k => k < 16

/-- Stacks fitted (R2). -/
def Part.stacks : Part → Nat
  | .gq4_064 => 4
  | .gq4_128 => 8
  | .gq4_256 => 16

/-- Maximum module power in watts (R417). -/
def Part.maxW : Part → Nat
  | .gq4_064 => 8500
  | .gq4_128 => 16500
  | .gq4_256 => 32000

/-- Floor envelope in watts (R422). -/
def Part.floorW : Part → Nat
  | .gq4_064 => 2000
  | .gq4_128 => 4000
  | .gq4_256 => 8000

/-- Converters fitted (R420). -/
def Part.converters : Part → Nat
  | .gq4_064 => 4
  | .gq4_128 => 8
  | .gq4_256 => 16

/-- Maximum input current in amperes (R417). -/
def Part.maxAmps : Part → Nat
  | .gq4_064 => 170
  | .gq4_128 => 330
  | .gq4_256 => 640

/-- Special-function results that R96 bounds and does not fix: a fixed function of the input, taken where it lies within the
bound (log entry 13; UNVERIFIED, safe). -/
opaque Config.sfu (fn : Nat) (x : W32) : W32

/-- A byte of host memory that neither the host writes shown to the model nor the module has set (log entry 3). -/
opaque Config.hostByte (addr : Nat) : Byte

/-- The 512-bit key pair number `n` that a rim generates from its entropy source (R262). -/
opaque Config.rimKeys (n : Nat) : BitVec 512

/-- AES-256-XTS of a 64-byte unit under a key pair, with a 128-bit tweak (R262): a public function outside the spec's text (log
entry 5). -/
opaque Config.xtsEncrypt (keys : BitVec 512) (tweak : BitVec 128) (plain : List Byte) : List Byte

/-- A byte of a stack unit that has not been written since key pair `key` was taken: the old cipher text under
the new key (R263, R360; log entry 3). -/
opaque Config.stackByte (key : BitVec 512) (addr : Nat) : Byte

/-- Byte number `n` of the hub's entropy source (R262, R488). -/
opaque Config.entropy (n : Nat) : Byte

/-- A value that the spec leaves open, drawn with the model's own counter (log entry 4). -/
opaque Config.freeByte (n : Nat) : Byte

/-- SHA-384 (R401, R458, R482): a public function outside the spec's text (log entry 5). -/
opaque Config.sha384 (data : List Byte) : BitVec 384

/-- ECDSA verification over brainpoolP384r1 with SHA-384 of `data` (R482, R494). -/
opaque Config.ecdsaVerify (key : List Byte) (data : List Byte) (signature : List Byte) : Bool

/-- The firmware image that slot 0 holds at manufacture (R482; log entry 9). -/
opaque Config.factoryImage : List Byte

/-- The signing-key hash fused in a key slot (R483, R493). -/
opaque Config.keyHash (slot : Nat) : BitVec 384

/-- The identity key's signature over `data` (R486, R488, R489). -/
opaque Config.identitySign (data : List Byte) : List Byte

/-- The identity public key (R486). -/
opaque Config.identityPublic : List Byte

/-- The certificate chain to Plovziol's root, concatenated DER (R486, R489). -/
opaque Config.certificateChain : List Byte

/-- The public point of ephemeral key number `n` (R488). -/
opaque Config.ephemeralPublic (n : Nat) : List Byte

/-- The x-coordinate of the ECDH shared point of ephemeral key `n` and a peer's point; none when the
peer's key is not a valid point (R488). -/
opaque Config.ecdh (n : Nat) (peer : List Byte) : Option (List Byte)

/-- HKDF-SHA-384 giving 32 bytes (R488). -/
opaque Config.hkdf (ikm salt info : List Byte) : List Byte

/-- AES-256-GCM opening: the plain text, or none when the tag fails (R491, R344, R368). -/
opaque Config.gcmOpen (key nonce aad cipher tag : List Byte) : Option (List Byte)

/-- AES-256-GCM sealing: cipher text followed by its 16-byte tag (R344, R368). -/
opaque Config.gcmSeal (key nonce aad plain : List Byte) : List Byte

/-- The bytes of volatile key number `n` that the hub generated (R262, R344, R368). -/
opaque Config.hubKey (n : Nat) : List Byte

/-- What the RS(72,64) decoder does with more than 5 wrong symbols (R258): detection is not guaranteed, so the
outcome is free: true when it detects the error. -/
opaque Config.eccDetects (n : Nat) : Bool

/-- Byte `i` of the half of a link beat that an FP32 row of a drain leaves over: a function of the row (R22, R77; log entry
16). -/
opaque Config.drainFill (row : List Byte) (i : Nat) : Byte

/-- The sequence-table runtime of the firmware's major version, as it stands in the SRAM of C-tile 3 (R315; log entry 73). -/
opaque Config.sequenceRuntime : List Byte

/-- What a cell holds that the load of the reused operand did not fill (R62; log entry 89). -/
opaque Config.unloadedCell (sub row col : Nat) : W64

/-- The quotient (`rem` false) or remainder of the most negative number by −1, which R108 does not state (log entry 17). -/
opaque Config.divOverflow (rem : Bool) (a b : W64) : W64

/-- A register-form shift by 64 or more, which R108 does not state (log entry 18). -/
opaque Config.wideShift (fn : Nat) (a b : W64) : W64

/-- The event or flag that the sequencer port takes for a register value that names none (log entry 19). -/
opaque Config.portIndex (x : W64) : BitVec 8

/-- The sum that `BSIADD` leaves where it falls outside every bound of R42 (R281; log entry 25). -/
opaque Config.bsiWide (a b : W32) : W32

/-- `DETAIL` of a fault that arises at no die of the partition, by the absolute node it arises at (R413 names only dies; log
entry 26). -/
opaque Config.faultDetail (node : Nat) : BitVec 16

/-- The bytes over which `CONFIG_HASH` is taken, of the fields that R489 names (log entry 55). -/
opaque Config.configBytes (fields : List Nat) : List Byte

/-- Running firmware's highest image format minor version: 0 for firmware 1.0 (R181). -/
def Config.imageMinor : Nat := 0

end Sys2Proof
end

