-- ==== Sys2Proof/Machine/Numbers.lean ====
section
/-! DEFINITION. Number formats and rounding (spec/02_number_formats.md R25–R51, R519), computed exactly on
integers and rounded once. -/

namespace Sys2Proof.Machine

/-- An exact number: a NaN, an infinity, or ± mag × 2^exp (a zero keeps its sign). -/
inductive Num where
  | nan
  | inf (neg : Bool)
  | fin (neg : Bool) (mag : Nat) (exp : Int)
  deriving DecidableEq, Repr

/-- Rounding modes (R48); the stochastic mode carries its 16-bit draw (R49). -/
inductive Rounding where
  | nearestEven
  | towardZero
  | stochastic (draw : Nat)
  deriving DecidableEq, Repr

/-- Which encodings of a format are special (R25). -/
inductive Specials where
  | ieee | onlyNan | none
  deriving DecidableEq, Repr

/-- A scalar floating-point format (R25). -/
structure Fmt where
  ebits : Nat
  mbits : Nat
  bias : Nat
  specials : Specials
  deriving DecidableEq, Repr

def fp32 : Fmt := ⟨8, 23, 127, .ieee⟩
def bf16 : Fmt := ⟨8, 7, 127, .ieee⟩
def e5m2 : Fmt := ⟨5, 2, 15, .ieee⟩
def e4m3 : Fmt := ⟨4, 3, 7, .onlyNan⟩
def e3m2 : Fmt := ⟨3, 2, 3, .none⟩
def e2m3 : Fmt := ⟨2, 3, 1, .none⟩
def e2m1 : Fmt := ⟨2, 1, 1, .none⟩

/-- Bits of an encoding without its sign. -/
def Fmt.magBits (f : Fmt) : Nat := f.ebits + f.mbits

/-- Magnitude code of the largest finite value (R25). -/
def Fmt.maxCode (f : Fmt) : Nat :=
  match f.specials with
  | .ieee => (2 ^ f.ebits - 1) * 2 ^ f.mbits - 1
  | .onlyNan => 2 ^ f.magBits - 2
  | .none => 2 ^ f.magBits - 1

/-- Magnitude code of infinity, for formats that have one. -/
def Fmt.infCode (f : Fmt) : Nat := (2 ^ f.ebits - 1) * 2 ^ f.mbits

/-- The canonical NaN (R26): 0x7FC0_0000, 0x7FC0, 0x7E and 0x7F. -/
def Fmt.nanCode (f : Fmt) : Nat :=
  match f.specials with
  | .onlyNan => 2 ^ f.magBits - 1
  | _ => f.infCode + 2 ^ (f.mbits - 1)

/-- Decode an encoding (R25, R26: any NaN encoding is a NaN; R27: subnormals at full value). -/
def Fmt.decode (f : Fmt) (code : Nat) : Num :=
  let neg := code.testBit f.magBits
  let mag := code % 2 ^ f.magBits
  let e := mag / 2 ^ f.mbits
  let m := mag % 2 ^ f.mbits
  let special :=
    match f.specials with
    | .ieee => e == 2 ^ f.ebits - 1
    | .onlyNan => mag == 2 ^ f.magBits - 1
    | .none => false
  if special then
    (if f.specials = .ieee ∧ m = 0 then .inf neg else .nan)
  else if e = 0 then .fin neg m (1 - (f.bias : Int) - f.mbits)
  else .fin neg (2 ^ f.mbits + m) ((e : Int) - f.bias - f.mbits)

/-- `mag ÷ 2^sh` rounded to an integer (R49 for the stochastic mode: d is the first 16 discarded bits). -/
def roundShift (r : Rounding) (mag sh : Nat) : Nat :=
  let q := mag >>> sh
  let rest := mag % 2 ^ sh
  match r with
  | .towardZero => q
  | .nearestEven =>
    if 2 * rest > 2 ^ sh ∨ (2 * rest = 2 ^ sh ∧ q % 2 = 1) then q + 1 else q
  | .stochastic u => if (rest * 2 ^ 16) >>> sh + u ≥ 2 ^ 16 then q + 1 else q

/-- `mag × 2^exp` rounded to a multiple of `2^q`, as that multiple. -/
def roundAt (r : Rounding) (mag : Nat) (exp q : Int) : Nat :=
  if q ≤ exp then mag <<< (exp - q).toNat else roundShift r mag (q - exp).toNat

/-- floor(log2 |x|) of a non-zero finite number. -/
def floorLog2 (mag : Nat) (exp : Int) : Int := (mag.log2 : Int) + exp

/-- The magnitude code that a non-zero finite number rounds to, with an unbounded exponent range above. -/
def Fmt.roundCode (f : Fmt) (r : Rounding) (mag : Nat) (exp : Int) : Nat :=
  if mag = 0 then 0
  else
    let qmin : Int := 1 - (f.bias : Int) - f.mbits
    let q := max (floorLog2 mag exp - f.mbits) qmin
    (q - qmin).toNat * 2 ^ f.mbits + roundAt r mag exp q

/-- The sign bit of a format. -/
def Fmt.signBit (f : Fmt) (neg : Bool) : Nat := if neg then 2 ^ f.magBits else 0

/-- Round a number into a format. `toInf` says that finite overflow gives an infinity (unless rounding is toward
zero); otherwise it saturates (R51). E4M3 turns an infinity into its NaN (R51). -/
def Fmt.encode (f : Fmt) (r : Rounding) (toInf : Bool) (x : Num) : Nat :=
  match x with
  | .nan => f.nanCode
  | .inf neg => if f.specials = .ieee then f.infCode + f.signBit neg else f.nanCode
  | .fin neg mag exp =>
    let c := f.roundCode r mag exp
    let c :=
      if c ≤ f.maxCode then c
      else if toInf ∧ r ≠ .towardZero then f.infCode else f.maxCode
    c + f.signBit neg

/-- The FP32 number in a word. -/
def Num.ofFp32 (w : W32) : Num := fp32.decode w.toNat

/-- A number rounded once to FP32 by round to nearest even, ±∞ on overflow (R29, R38). -/
def Num.toFp32 (x : Num) : W32 := BitVec.ofNat 32 (fp32.encode .nearestEven true x)

/-- A number rounded once to bf16 by round to nearest even (R29). -/
def Num.toBf16 (x : Num) : Nat := bf16.encode .nearestEven true x

def Num.isNan : Num → Bool
  | .nan => true
  | _ => false

def Num.isZero : Num → Bool
  | .fin _ 0 _ => true
  | _ => false

def Num.isNeg : Num → Bool
  | .nan => false
  | .inf n => n
  | .fin n _ _ => n

def Num.neg : Num → Num
  | .nan => .nan
  | .inf n => .inf (!n)
  | .fin n m e => .fin (!n) m e

/-- The signed integer `± mag × 2^(exp − q)` for `q ≤ exp`. -/
def signedAt (neg : Bool) (mag : Nat) (exp q : Int) : Int :=
  let m : Int := (mag <<< (exp - q).toNat : Nat)
  if neg then -m else m

/-- Exact sum. An exact zero is −0 only when both operands are negative (IEEE 754-2019 under round to nearest, R29). -/
def Num.add : Num → Num → Num
  | .nan, _ => .nan
  | _, .nan => .nan
  | .inf a, .inf b => if a = b then .inf a else .nan
  | .inf a, .fin _ _ _ => .inf a
  | .fin _ _ _, .inf b => .inf b
  | .fin n1 m1 e1, .fin n2 m2 e2 =>
    let q := min e1 e2
    let s := signedAt n1 m1 e1 q + signedAt n2 m2 e2 q
    if s = 0 then .fin (n1 && n2) 0 0 else .fin (decide (s < 0)) s.natAbs q

/-- Exact product; 0 × ∞ is NaN (R37). -/
def Num.mul : Num → Num → Num
  | .nan, _ => .nan
  | _, .nan => .nan
  | .inf a, .inf b => .inf (a != b)
  | .inf a, .fin n m _ => if m = 0 then .nan else .inf (a != n)
  | .fin n m _, .inf b => if m = 0 then .nan else .inf (n != b)
  | .fin n1 m1 e1, .fin n2 m2 e2 => .fin (n1 != n2) (m1 * m2) (e1 + e2)

/-- x × 2^k, exact. -/
def Num.scale (k : Int) : Num → Num
  | .nan => .nan
  | .inf n => .inf n
  | .fin n m e => .fin n m (e + k)

/-- Order of two numbers, zeros equal; none when either is a NaN. -/
def Num.compare : Num → Num → Option Ordering
  | .nan, _ => none
  | _, .nan => none
  | .inf a, .inf b => some (if a = b then .eq else if a then .lt else .gt)
  | .inf a, .fin _ _ _ => some (if a then .lt else .gt)
  | .fin _ _ _, .inf b => some (if b then .gt else .lt)
  | .fin n1 m1 e1, .fin n2 m2 e2 =>
    let q := min e1 e2
    let a := signedAt n1 m1 e1 q
    let b := signedAt n2 m2 e2 q
    some (if a < b then .lt else if a = b then .eq else .gt)

/-- IEEE 754-2019 minimum (R95): a NaN input gives NaN, −0 counts as less than +0. -/
def Num.minimum (a b : Num) : Num :=
  match Num.compare a b with
  | none => .nan
  | some .lt => a
  | some .gt => b
  | some .eq => if a.isNeg then a else b

/-- IEEE 754-2019 maximum (R95). -/
def Num.maximum (a b : Num) : Num :=
  match Num.compare a b with
  | none => .nan
  | some .lt => b
  | some .gt => a
  | some .eq => if a.isNeg then b else a

/-- `mag × 2^exp ÷ c`, as a number that rounds as the exact quotient does: 64 further bits and a sticky bit. -/
def quotient (neg : Bool) (mag c : Nat) (exp : Int) : Num :=
  let q := (mag <<< 64) / c
  let sticky := if (mag <<< 64) % c = 0 then 0 else 1
  .fin neg (2 * q + sticky) (exp - 65)

/-! ### The AX64 accumulator word -/

/-- An AX64 word read by value (R35, R519): bits [63:56] ignored, any `SIG` taken. -/
def Num.ofAx64 (w : W64) : Num :=
  let e := bits w.toNat 55 48
  let s := signed 48 (bits w.toNat 47 0)
  if e = 255 then (if s = 0 then .nan else .inf (decide (s < 0)))
  else .fin (decide (s < 0)) s.natAbs ((e : Int) - 173)

/-- The AX64 word with a significand and an exponent field. -/
def ax64Word (sig : Int) (e : Nat) : W64 :=
  BitVec.ofNat 64 ((BitVec.ofInt 48 sig).toNat + e * 2 ^ 48)

/-- A number as a canonical AX64 word, rounded once by round to nearest even (R36, R37). -/
def Num.toAx64 : Num → W64
  | .nan => ax64Word 0 255
  | .inf n => ax64Word (if n then -1 else 1) 255
  | .fin n m e =>
    if m = 0 then 0
    else
      let q := max (floorLog2 m e - 46) (-173)
      let s := roundAt .nearestEven m e q
      let (s, q) := if s = 2 ^ 47 then (2 ^ 46, q + 1) else (s, q)
      if s = 0 then 0
      else if q + 173 > 254 then ax64Word (if n then -1 else 1) 255
      else ax64Word (if n then -(s : Int) else s) (q + 173).toNat

/-- One accumulation (R37): the exact product rounded to AX64, then the exact sum rounded to AX64. -/
def ax64Mac (acc : W64) (a b : Num) : W64 :=
  Num.toAx64 (Num.add (Num.ofAx64 acc) (Num.ofAx64 (Num.toAx64 (Num.mul a b))))

/-- AX64 to FP32 (R38): rounded once; a zero word and a value that underflows to zero give +0, so no M-tile returns −0. -/
def ax64ToFp32 (w : W64) : W32 :=
  let r := Num.toFp32 (Num.ofAx64 w)
  if r = 0x80000000#32 then 0 else r

/-- FP32 to AX64 (R38): exact, −0 becoming the zero word. -/
def fp32ToAx64 (w : W32) : W64 := Num.toAx64 (Num.ofFp32 w)

/-! ### Microscaling blocks -/

/-- An operand or element format: bf16, a scalar FP8, or an MX element (R30, R58). -/
inductive Elem where
  | float (f : Fmt)
  | int8
  deriving DecidableEq, Repr

/-- What an operand format code names (R58): the element, whether it is MX, its bits, and the operand class as elements
per k-step (R52). -/
structure OperandFmt where
  elem : Elem
  mx : Bool
  width : Nat
  perStep : Nat
  emax : Int
  deriving DecidableEq, Repr

/-- Format codes 0–8 (R58); 9–15 are reserved. -/
def operandFmt : Nat → Option OperandFmt
  | 0 => some ⟨.float bf16, false, 16, 1, 127⟩
  | 1 => some ⟨.float e4m3, false, 8, 2, 8⟩
  | 2 => some ⟨.float e5m2, false, 8, 2, 15⟩
  | 3 => some ⟨.float e4m3, true, 8, 2, 8⟩
  | 4 => some ⟨.float e5m2, true, 8, 2, 15⟩
  | 5 => some ⟨.float e3m2, true, 6, 2, 4⟩
  | 6 => some ⟨.float e2m3, true, 6, 2, 2⟩
  | 7 => some ⟨.float e2m1, true, 4, 4, 2⟩
  | 8 => some ⟨.int8, true, 8, 2, 0⟩
  | _ => none

/-- The value of one element encoding (R25, R30; MXINT8 is integer × 2^−6). -/
def Elem.decode : Elem → Nat → Num
  | .float f, c => f.decode c
  | .int8, c => let v := signed 8 (c % 256); .fin (decide (v < 0)) v.natAbs (-6)

/-- A block element with its scale byte (R32): scale 0xFF decodes every element to NaN. -/
def mxDecode (e : Elem) (code scale : Nat) : Num :=
  if scale = 255 then .nan else Num.scale ((scale : Int) - 127) (e.decode code)

/-- `cvt_elem` (R34): rounded by the mode, saturating, never a NaN or infinity. -/
def mxElem (e : Elem) (r : Rounding) : Num → Nat
  | .fin n m x =>
    match e with
    | .float f => min (f.roundCode r m x) f.maxCode + f.signBit n
    | .int8 =>
      let v := min (roundAt r m x (-6)) 127
      (BitVec.ofInt 8 (if n then -(v : Int) else v)).toNat
  | _ => 0

/-- Largest of a list of exponents floor(log2 |v|), none when every value is zero. -/
def maxLog2 (vs : List Num) : Option Int :=
  vs.foldl (fun acc v =>
    match v with
    | .fin _ m e =>
      if m = 0 then acc
      else match acc with
        | none => some (floorLog2 m e)
        | some a => some (max a (floorLog2 m e))
    | _ => acc) none

/-- Conversion of a block to MX (R33): the scale byte and the element codes; element `i` rounds by `mode i`. -/
def mxBlock (f : OperandFmt) (mode : Nat → Rounding) (vs : List Num) : Nat × List Nat :=
  if vs.any (fun v => match v with | .fin _ _ _ => false | _ => true) then (255, vs.map (fun _ => 0))
  else
    match maxLog2 vs with
    | none => (127, vs.map (fun _ => 0))
    | some top =>
      let x := max (top - f.emax) (-127)
      ((x + 127).toNat, vs.zipIdx.map (fun e => mxElem f.elem (mode e.2) (Num.scale (-x) e.1)))

/-! ### BSI32 -/

/-- The non-finite marker (R40). -/
def bsiMarker : W32 := 0x80000000

/-- The result of converting one value to BSI32: the integer, the overrun indication and the excess. -/
structure BsiResult where
  value : W32
  overrun : Bool
  excess : Nat
  deriving DecidableEq, Repr

/-- Contribution limit L = 2^(31 − h) − 1 (R40). -/
def bsiLimit (h : Nat) : Nat := 2 ^ (31 - h) - 1

/-- Smallest k ≥ 1 with |I| ≤ 2^(31 − h + k) − 1, capped at 15 (R40). -/
def bsiExcess (h mag : Nat) : Nat :=
  ((List.range 14).map (· + 1)).find? (fun k => decide (mag ≤ 2 ^ (31 - h + k) - 1)) |>.getD 15

/-- Conversion to BSI32 at scale `s` and headroom `h` (R40, R41). -/
def toBsi (s h : Nat) : Num → BsiResult
  | .fin n m e =>
    let i := roundAt .nearestEven m (e + 158 - s) 0
    if i ≤ bsiLimit h then ⟨BitVec.ofInt 32 (if n then -(i : Int) else i), false, 0⟩
    else ⟨BitVec.ofInt 32 (if n then -(bsiLimit h : Int) else bsiLimit h), true, bsiExcess h i⟩
  | _ => ⟨bsiMarker, false, 0⟩

/-- BSI32 addition (R41, R42): the marker absorbs, otherwise exact two's-complement addition. -/
def bsiAdd (a b : W32) : W32 := if a = bsiMarker ∨ b = bsiMarker then bsiMarker else a + b

/-- BSI32 to FP32 with a divisor (R43, R104): rounded once; the marker, and a divisor of 0 or above 256, give NaN. -/
def bsiToFp32 (i : W32) (s c : Nat) : W32 :=
  if i = bsiMarker ∨ c = 0 ∨ c > 256 then Num.toFp32 .nan
  else
    let v := i.toInt
    Num.toFp32 (quotient (decide (v < 0)) v.natAbs c ((s : Int) - 158))

/-! ### Reduction-line elements -/

/-- The integer an addend enters a reduction line as (R45), and whether it saturated. -/
def lineAddend (w : Int) (n : Bool) (m : Nat) (e : Int) : Int × Bool :=
  let i := roundAt .nearestEven m (e - w) 0
  let top := 2 ^ 63 - 1
  let c := min i top
  (if n then -(c : Int) else c, decide (top < i))

/-! ### Stochastic rounding -/

/-- The draw for an element (R50). -/
def srDraw (seed : W64) (step tile draw e : Nat) : Nat :=
  let c : W64 := BitVec.ofNat 64 ((step % 2 ^ 26) * 2 ^ 38) ||| BitVec.ofNat 64 (tile * 2 ^ 25)
    ||| BitVec.ofNat 64 ((draw % 65536) * 2 ^ 9) ||| BitVec.ofNat 64 (e % 512)
  let z : W64 := seed + c * 0x9E3779B97F4A7C15#64
  let z := (z ^^^ (z >>> 30)) * 0xBF58476D1CE4E5B9#64
  let z := (z ^^^ (z >>> 27)) * 0x94D049BB133111EB#64
  let z := z ^^^ (z >>> 31)
  (z >>> 48).toNat

/-! ### Special functions -/

/-- True when a magnitude is a power of two. -/
def isPow2 (m : Nat) : Bool := decide (0 < m) && m == 2 ^ m.log2

/-- An integer value, when the number is one. -/
def Num.toInt? : Num → Option Int
  | .fin n m e =>
    if 0 ≤ e then some (signedAt n m e 0)
    else if m % 2 ^ (-e).toNat = 0 then
      let v : Int := (m >>> (-e).toNat : Nat)
      some (if n then -v else v)
    else none
  | _ => none

/-- |x| ≥ a ÷ b. -/
def magAtLeast (m : Nat) (e : Int) (a b : Nat) : Bool :=
  if 0 ≤ e then decide (a ≤ (m <<< e.toNat) * b) else decide (a <<< (-e).toNat ≤ m * b)

/-- The specials, limits and exact results that R96 states for a special function; none where the table leaves the
result inside its error bound. An exact power of two beyond FP32's range becomes infinity (log entry 104). -/
def sfuExact (fn : Nat) (x : Num) : Option Num :=
  match fn, x with
  | _, .nan => some .nan
  | 0, .inf n => some (if n then .fin false 0 0 else .inf false)
  | 0, .fin n m e =>
    if n ∧ Num.compare x (.fin true 150 0) = some .lt then some (.fin false 0 0)
    else if ¬ n ∧ magAtLeast m e 128 1 then some (.inf false)
    else match x.toInt? with
      | some v => if -149 ≤ v ∧ v ≤ 127 then some (.fin false 1 v) else none
      | none => none
  | 1, .inf n => some (if n then .nan else .inf false)
  | 1, .fin n m e =>
    if m = 0 then some (.inf true)
    else if n then some .nan
    else if isPow2 m then
      let v := floorLog2 m e
      some (.fin (decide (v < 0)) v.natAbs 0)
    else none
  | 2, .inf n => some (.fin n 0 0)
  | 2, .fin n m e =>
    if m = 0 then some (.inf n)
    else if isPow2 m then some (.fin n 1 (-(floorLog2 m e)))
    else none
  | 3, .inf n => some (if n then .nan else .fin false 0 0)
  | 3, .fin n m e =>
    if m = 0 then some (.inf n)
    else if n then some .nan
    else if isPow2 m ∧ floorLog2 m e % 2 = 0 then some (.fin false 1 (-(floorLog2 m e / 2)))
    else none
  | 4, .inf n => some (.fin n 1 0)
  | 4, .fin n m e =>
    if m = 0 then some x else if magAtLeast m e 91 10 then some (.fin n 1 0) else none
  | 5, .inf n => some (.fin n 1 0)
  | 5, .fin n m e =>
    if m = 0 then some x else if magAtLeast m e 392 100 then some (.fin n 1 0) else none
  | _, _ => none

/-! The error bounds of R96 are imposed on the free result through an approximation of the exact value in fixed point: an
integer times 2^−`fixBits`, whose own error lies below 2^−290. -/

/-- Fraction bits of the approximations. -/
def fixBits : Nat := 320

/-- One in fixed point. -/
def fixOne : Int := 2 ^ fixBits

/-- Product and quotient in fixed point. -/
def fixMul (a b : Int) : Int := a * b / fixOne

def fixDiv (a b : Int) : Int := a * fixOne / b

/-- A finite number in fixed point. -/
def toFix (n : Bool) (m : Nat) (e : Int) : Int :=
  let q := e + (fixBits : Int)
  let v : Int := if 0 ≤ q then ((m <<< q.toNat : Nat) : Int) else ((m >>> (-q).toNat : Nat) : Int)
  if n then -v else v

/-- Σ term k for k below `n`, where term 0 is `first` and `next k t` is term k + 1. -/
def fixSeries (n : Nat) (first : Int) (next : Nat → Int → Int) (part : Nat → Int → Int) : Int :=
  (foldRange n (first, 0) (fun (acc : Int × Int) k => (next k acc.1, acc.2 + part k acc.1))).2

/-- The exponential: Σ x^k ÷ k!. -/
def fixExp (x : Int) : Int :=
  fixSeries 260 fixOne (fun k t => fixMul t x / ((k : Int) + 1)) (fun _ t => t)

/-- The inverse hyperbolic tangent of |z| ≤ 1/3: Σ z^(2k+1) ÷ (2k+1). -/
def fixAtanh (z : Int) : Int :=
  let zz := fixMul z z
  fixSeries 120 z (fun _ t => fixMul t zz) (fun k t => t / (2 * (k : Int) + 1))

/-- The inverse tangent of 1 ÷ c. -/
def fixAtanInv (c : Int) : Int :=
  fixSeries 160 (fixOne / c) (fun _ t => -(t / (c * c))) (fun k t => t / (2 * (k : Int) + 1))

/-- ln 2 and π. -/
def fixLn2 : Int := 2 * fixAtanh (fixOne / 3)

def fixPi : Int := 16 * fixAtanInv 5 - 4 * fixAtanInv 239

/-- The error function: 2 ÷ √π × Σ (−1)^k x^(2k+1) ÷ (k! (2k+1)). -/
def fixErf (x : Int) : Int :=
  let xx := fixMul x x
  let sum := fixSeries 220 x (fun k t => -(fixMul t xx / ((k : Int) + 1))) (fun k t => t / (2 * (k : Int) + 1))
  fixDiv (2 * sum) ((Nat.sqrt (fixPi.toNat * 2 ^ fixBits) : Nat) : Int)

/-- The value of a special function where R96's table only bounds it: an integer `v` and an exponent `e`, the value being
close to v × 2^e. -/
def sfuApprox (fn : Nat) (x : Num) : Int × Int :=
  let fix : Int := -(fixBits : Int)
  match fn, x with
  | 0, .fin n m e =>
    let v := toFix n m e
    let whole := v / fixOne
    (fixExp (fixMul (v - whole * fixOne) fixLn2), whole + fix)
  | 1, .fin _ m e =>
    let top := floorLog2 m e
    let y := toFix false m (e - top)
    (top * fixOne + fixDiv (2 * fixAtanh (fixDiv (y - fixOne) (y + fixOne))) fixLn2, fix)
  | 2, .fin n m e =>
    let v : Int := ((2 ^ fixBits / m : Nat) : Int)
    (if n then -v else v, fix - e)
  | 3, .fin _ m e =>
    let (m, e) := if e % 2 = 0 then (m, e) else (2 * m, e - 1)
    (((2 ^ fixBits / Nat.sqrt (m * 2 ^ (2 * 160)) : Nat) : Int), 160 + fix - e / 2)
  | 4, .fin n m e =>
    let y := fixExp (2 * toFix n m e)
    (fixDiv (y - fixOne) (y + fixOne), fix)
  | 5, .fin n m e => (fixErf (toFix n m e), fix)
  | _, _ => (0, 0)

/-- The maximum error of R96 for a result near v × 2^e, as an exponent of two (2^−24 absolute for log2 in [0.5, 2)). -/
def sfuErrorExp (fn : Nat) (x : Num) (v e : Int) : Int :=
  let ulp := max (floorLog2 v.natAbs e - 23) (-149)
  match fn, x with
  | 1, .fin _ m k => if floorLog2 m k = -1 ∨ floorLog2 m k = 0 then max ulp (-24) else ulp
  | 4, _ => ulp + 1
  | 5, _ => ulp + 1
  | _, _ => ulp

/-- A result lies within R96's maximum error of v × 2^e. -/
def sfuWithin (fn : Nat) (x : Num) (v e : Int) (r : Num) : Bool :=
  match r with
  | .fin n m k =>
    let q := min (min e k) (sfuErrorExp fn x v e)
    let gap := signedAt n m k q - signedAt (decide (v < 0)) v.natAbs e q
    decide (gap.natAbs ≤ 2 ^ (sfuErrorExp fn x v e - q).toNat)
  | _ => false

/-- A special function in FP32 (R96): the stated results exactly; every other is a free function of its input within the
table's maximum error, and where the free word is not, the exact value rounded to nearest even (log entry 13). -/
def sfuFp32 (fn : Nat) (w : W32) : W32 :=
  let x := Num.ofFp32 w
  match sfuExact fn x with
  | some r => Num.toFp32 r
  | none =>
    let (v, e) := sfuApprox fn x
    let free := Config.sfu fn w
    if sfuWithin fn x v e (Num.ofFp32 free) then free else Num.toFp32 (.fin (decide (v < 0)) v.natAbs e)

end Sys2Proof.Machine
end

