-- ==== Sys2Proof/Machine/Operands.lean ====
section
/-! DEFINITION. The instruction words of M-tiles, V-tiles and C-tiles: fields, reserved bits, forbidden
combinations, loop advances, and where an operand's elements lie (spec/03_matrix_tiles.md R56–R68,
spec/04_vector_and_control_tiles.md R89–R109, R523). -/

namespace Sys2Proof.Machine

/-- 64 B units of an M-tile operand SRAM or a V-tile SRAM (R57, R116). -/
def tileUnits : Nat := 98304

/-- 64 B units of the die buffer (R116). -/
def bufferUnits : Nat := 131072

/-- 64 B units of a C-tile SRAM (R116). -/
def ctileUnits : Nat := 65536

/-! ### M-tile words -/

/-- The fields of an `MMA` or `MMV` word (R57), addresses as a loop may have advanced them. -/
structure MmaFields where
  vector : Bool
  shape : Nat
  stat : Nat
  reuse : Bool
  ta : Bool
  tb : Bool
  fmtA : Nat
  fmtB : Nat
  acc : Nat
  zero : Bool
  half : Nat
  pair : Bool
  aAddr : Int
  nm1 : Nat
  bAddr : Int
  subStep : Nat
  sAddr : Nat
  deriving DecidableEq, Repr

/-- A decoded M-tile word (R56). -/
inductive MOp where
  | mma (f : MmaFields)
  | drn (acc : Nat) (fp32 : Bool) (clr : Bool) (dst : Nat) (addr : Int) (id : Nat)
  | acz (acc : Nat)
  | acl (acc : Nat) (fp32 : Bool) (addr : Int)
  | gap (ramp : Bool) (level : Nat) (len : Nat)
  | wait (evt : Nat)
  | sig (evt : Nat)
  | loop (count body : Nat) (incA incB : Int) (incAcc : Nat)
  | finish
  deriving DecidableEq, Repr

/-- The bits of an M-tile word that its opcode assigns (R56, R57); none for an illegal opcode. -/
def mAssigned (op : Nat) : Option (List (Nat × Nat)) :=
  match op with
  | 0x01 | 0x02 => some [(30, 0), (55, 32), (112, 64)]
  | 0x08 => some [(7, 0), (31, 24), (52, 32)]
  | 0x09 => some [(7, 0), (27, 24)]
  | 0x0A => some [(7, 0), (28, 24), (48, 32)]
  | 0x10 => some [(14, 0), (47, 32)]
  | 0x18 | 0x19 => some [(7, 0), (39, 32)]
  | 0x20 => some [(7, 0), (55, 32), (80, 64), (112, 96), (123, 120)]
  | 0x3F => some [(7, 0)]
  | _ => none

/-- The mask of a list of bit ranges [hi:lo]. -/
def fieldMask (fs : List (Nat × Nat)) : Nat :=
  fs.foldl (fun m f => m ||| ((2 ^ (f.1 + 1 - f.2) - 1) <<< f.2)) 0

/-- True when `v` sets a bit outside the ranges. -/
def strayBits (v : Nat) (fs : List (Nat × Nat)) : Bool := v &&& fieldMask fs != v

/-- The fields of an M-tile word by its opcode, before any check (R56, R57). -/
def mFields (v : Nat) : Option MOp :=
  match bits v 7 0 with
  | 0x01 | 0x02 => some (.mma {
      vector := bits v 7 0 == 2, shape := bits v 10 8, stat := bits v 12 11, reuse := bit v 13,
      ta := bit v 14, tb := bit v 15, fmtA := bits v 19 16, fmtB := bits v 23 20, acc := bits v 27 24,
      zero := bit v 28, half := bits v 29 29, pair := bit v 30, aAddr := bits v 48 32, nm1 := bits v 55 49,
      bAddr := bits v 80 64, subStep := bits v 95 81, sAddr := bits v 112 96 })
  | 0x08 => some (.drn (bits v 27 24) (bit v 28) (bit v 29) (bits v 31 30) (bits v 48 32) (bits v 52 49))
  | 0x09 => some (.acz (bits v 27 24))
  | 0x0A => some (.acl (bits v 27 24) (bit v 28) (bits v 48 32))
  | 0x10 => some (.gap (bit v 8) (bits v 14 9) (bits v 47 32))
  | 0x18 => some (.wait (bits v 39 32))
  | 0x19 => some (.sig (bits v 39 32))
  | 0x20 => some (.loop (bits v 47 32) (bits v 55 48) (signed 17 (bits v 80 64)) (signed 17 (bits v 112 96))
      (bits v 123 120))
  | 0x3F => some .finish
  | _ => none

/-- Rows, columns and k-steps of a sub-operation, and how many sub-operations there are (R66, R68). -/
structure Shape where
  m : Nat
  n : Nat
  ksteps : Nat
  subs : Nat
  deriving DecidableEq, Repr

/-- The shape of an array instruction (R66); `MMV` streams n = NM1 + 1 vectors. -/
def MmaFields.geometry (f : MmaFields) : Shape :=
  if f.vector then ⟨128, f.nm1 + 1, 128, 1⟩
  else match f.shape with
    | 0 => ⟨128, 128, 128, 1⟩
    | 1 => ⟨128, 128, 64, 1⟩
    | 2 => ⟨128, 128, 32, 1⟩
    | 3 => ⟨128, 64, 128, 1⟩
    | 4 => ⟨64, 64, 128, 4⟩
    | _ => ⟨32, 32, 128, 16⟩

/-- The operand formats of A and B. -/
def MmaFields.formats (f : MmaFields) : Option (OperandFmt × OperandFmt) :=
  match operandFmt f.fmtA, operandFmt f.fmtB with
  | some a, some b => some (a, b)
  | _, _ => none

/-- Elements of reduction of a sub-operation (R52, R53): the lower class decides the elements per k-step. -/
def reduction (g : Shape) (a b : OperandFmt) : Nat := g.ksteps * min a.perStep b.perStep

/-- Elements from one row of a transposing read's block to the next: 256 B of 16-bit elements (R126). -/
def turnPitch : Nat := 128

/-- The transposing read of operand SRAM is used for A, or for B (R64): the operand streams and has its transpose bit set. -/
def MmaFields.turnsA (f : MmaFields) : Bool := f.ta && f.stat != 2

def MmaFields.turnsB (f : MmaFields) : Bool := f.tb && f.stat != 0

/-- Bytes that one sub-operation reads of A (R52, R126, R127): its packed elements, or the block of 128 rows of 256 B that the
turn unit reads. -/
def MmaFields.bytesA (f : MmaFields) (a b : OperandFmt) : Nat :=
  let g := f.geometry
  if f.turnsA then 128 * 256 else ceilDiv (g.m * reduction g a b * a.width) 8

/-- Bytes that one sub-operation reads of B: for the turn unit as many rows of 256 B as there are k-steps (R127), or as the
block has rows where these are more (log entry 90). -/
def MmaFields.bytesB (f : MmaFields) (a b : OperandFmt) : Nat :=
  let g := f.geometry
  if f.turnsB then max g.ksteps g.n * 256 else ceilDiv (g.n * reduction g a b * b.width) 8

/-- A's scale bytes of a sub-operation (R65). -/
def scaleBytesA (g : Shape) (a b : OperandFmt) : Nat := if a.mx then g.m * (reduction g a b / 32) else 0

/-- B's scale bytes of a sub-operation (R65). -/
def scaleBytesB (g : Shape) (a b : OperandFmt) : Nat := if b.mx then g.n * (reduction g a b / 32) else 0

/-- Round a byte count up to 64 B (R65). -/
def roundUnit (n : Nat) : Nat := ceilDiv n 64 * 64

/-- Bytes from one sub-operation's scales to the next (R65): B's array follows A's rounded up to 64 B. -/
def scaleStride (g : Shape) (a b : OperandFmt) : Nat :=
  roundUnit (roundUnit (scaleBytesA g a b) + scaleBytesB g a b)

/-- `len` units from unit `addr` lie within a memory of `units` units. -/
def inMemory (addr : Int) (len units : Nat) : Bool := decide (0 ≤ addr ∧ addr + (len : Int) ≤ (units : Int))

/-- The checks of one `MMA` or `MMV` word (R57, R58, R60, R64). -/
def MmaFields.legal (f : MmaFields) : Bool :=
  match f.formats with
  | none => false
  | some (a, b) =>
    let g := f.geometry
    let ua := ceilDiv (f.bytesA a b) 64
    let ub := ceilDiv (f.bytesB a b) 64
    let last := (g.subs - 1) * f.subStep
    decide (f.stat ≤ 2) && (if f.vector then f.shape == 0 && f.stat == 2 else decide (f.shape ≤ 5) && f.nm1 == 0)
      && (f.shape == 3 || (f.half == 0 && !f.pair))
      && (f.shape == 4 || f.shape == 5 || f.subStep == 0)
      && (a.mx || b.mx || f.sAddr == 0)
      && !(f.ta && (a.mx || (f.stat != 2 && a.width != 16)))
      && !(f.tb && (b.mx || (f.stat != 0 && b.width != 16)))
      && inMemory f.aAddr (ua + last) tileUnits && inMemory f.bAddr (ub + last) tileUnits
      && (!(a.mx || b.mx) || inMemory f.sAddr
        (ceilDiv ((g.subs - 1) * scaleStride g a b + roundUnit (scaleBytesA g a b) + scaleBytesB g a b) 64) tileUnits)

/-- Units that one accumulator tile takes in SRAM: 128 rows of 8 (FP32) or 16 (AX64) units (R76). -/
def drainUnits (fp32 : Bool) : Nat := if fp32 then 1024 else 2048

/-- The checks of a decoded M-tile word on its own (R56, R60, R82). -/
def MOp.legal : MOp → Bool
  | .mma f => f.legal
  | .drn _ fp32 _ dst addr id =>
    match dst with
    | 0 => decide (id ≤ 12) && inMemory addr (drainUnits fp32) tileUnits
    | 1 => if id ≤ 11 then inMemory addr (drainUnits fp32) tileUnits
           else id == 12 && inMemory addr (drainUnits fp32) bufferUnits
    | 2 => decide (id ≤ 12)
    | _ => false
  | .acz _ => true
  | .acl _ fp32 addr => inMemory addr (drainUnits fp32) tileUnits
  | .gap ramp level len =>
    decide (1 ≤ len) && (decide (level ≤ 32) || level == 63) && (!ramp || decide (64 ≤ len))
  | .wait _ => true
  | .sig _ => true
  | .loop count body _ _ _ => decide (1 ≤ count) && decide (1 ≤ body)
  | .finish => true

/-- Decode an M-tile word (R56): its fields, or the bit that is wrong about it. Loop advances are checked apart. -/
def decodeM (w : BitVec 128) : Except Bad MOp :=
  let v := w.toNat
  match mAssigned (bits v 7 0), mFields v with
  | some fs, some op => if strayBits v fs then .error .reserved else .ok op
  | _, _ => .error .illegal

/-- Iteration `t` of a loop advances the addresses and accumulator tile of a body word (R59). -/
def MOp.advance (t : Nat) (incA incB : Int) (incAcc : Nat) : MOp → MOp
  | .mma f => .mma { f with aAddr := f.aAddr + t * incA, bAddr := f.bAddr + t * incB, acc := (f.acc + t * incAcc) % 16 }
  | .drn acc fp32 clr dst addr id => .drn ((acc + t * incAcc) % 16) fp32 clr dst (addr + t * incA) id
  | .acz acc => .acz ((acc + t * incAcc) % 16)
  | .acl acc fp32 addr => .acl ((acc + t * incAcc) % 16) fp32 (addr + t * incA)
  | .gap r l n => .gap r l n
  | .wait e => .wait e
  | .sig e => .sig e
  | .loop c b x y z => .loop c b x y z
  | .finish => .finish

/-- What fills the cells (R62): the stationarity, and the address, format and transpose bit of the held operand. The held
operand of output-stationary mode is the tile that `ACC` names, which R62 gives no address, format or transpose bit: its key
is that tile's number, with format 0 and no transpose bit (log entry 91). -/
structure HeldKey where
  stat : Nat
  key : Option (Int × Nat × Bool)
  deriving DecidableEq, Repr

/-- The key under which an array instruction holds its stationary operand. -/
def MmaFields.heldKey (f : MmaFields) : HeldKey :=
  match f.stat with
  | 0 => ⟨0, some (f.bAddr, f.fmtB, f.tb)⟩
  | 2 => ⟨2, some (f.aAddr, f.fmtA, f.ta)⟩
  | n => ⟨n, some (f.acc, 0, false)⟩

/-- The second of a pair agrees with the first (R67). -/
def pairAgrees (a b : MmaFields) : Bool :=
  b.shape == 3 && !b.vector && a.stat == b.stat && a.fmtA == b.fmtA && a.fmtB == b.fmtB && a.ta == b.ta
    && a.tb == b.tb && a.aAddr == b.aAddr && a.half != b.half && !b.pair

/-- Occupancy of the array in cycles (R66); a paired instruction adds its share of the pair's 132 cycles at
the second. -/
def MmaFields.occupancy (f : MmaFields) (second : Bool) : Nat :=
  if f.vector then 128
  else match f.shape with
    | 1 => 68
    | 2 => 37
    | 3 => if f.pair then 0 else if second then 132 else 128
    | 4 => 132
    | 5 => 145
    | _ => 128

/-- Cycles of the stationary load (R66): one per k-step. -/
def MmaFields.loadCycles (f : MmaFields) : Nat := f.geometry.ksteps

/-- Activity level of an array instruction (R66). -/
def MmaFields.level (f : MmaFields) (paired : Bool) : Nat :=
  if f.vector then ceilDiv (f.nm1 + 1) 4
  else match f.shape with
    | 1 => 30
    | 2 => 28
    | 3 => if paired then 31 else 16
    | 4 => 31
    | 5 => 28
    | _ => 32

/-- Fill and drain latency of the array in cycles (R70). -/
def arrayLatency : Nat := 256

/-- What a level stands for in R85's table: array work of a class, or purl fill. -/
inductive Activity where
  | class16 | class8 | class4 | purl
  deriving DecidableEq, Repr

/-- The activity of an array instruction: the lower class of its operands (R52, R53). -/
def MmaFields.activity (f : MmaFields) : Activity :=
  match f.formats with
  | some (a, b) => (match min a.perStep b.perStep with | 1 => .class16 | 2 => .class8 | _ => .class4)
  | none => .class16

/-- Energy per level unit, in units of 0.01 nJ (R85). -/
def Activity.perUnit : Activity → Nat
  | .class16 => 19
  | .class8 => 20
  | .class4 => 22
  | .purl => 19

/-- Nominal energy of an M-tile cycle at a level, in units of 0.01 nJ (R85). -/
def mTileCycleEnergy (act : Activity) (level : Nat) : Nat := 45 + act.perUnit * level

/-- The array row and column that a sub-operation's element (i, j) lands on (R68). -/
def MmaFields.place (f : MmaFields) (q i j : Nat) : Nat × Nat :=
  if f.vector then (i, j)
  else match f.shape with
    | 3 => (i, 64 * f.half + j)
    | 4 => (64 * (q / 2) + i, 64 * (q % 2) + j)
    | 5 => (32 * (q / 4) + i, 32 * (q % 4) + j)
    | _ => (i, j)

/-- The sub-operation, row and column within it that accumulator element (row, col) belongs to (R68); none when the
instruction leaves the element alone. -/
def MmaFields.subOf (f : MmaFields) (row col : Nat) : Option (Nat × Nat × Nat) :=
  if f.vector then (if col ≤ f.nm1 then some (0, row, col) else none)
  else match f.shape with
    | 3 => if col / 64 = f.half then some (0, row, col % 64) else none
    | 4 => some (2 * (row / 64) + col / 64, row % 64, col % 64)
    | 5 => some (4 * (row / 32) + col / 32, row % 32, col % 32)
    | _ => some (0, row, col)

/-- Element `idx` of a packed operand of `width` bits from byte `base` (R31, R52). -/
def packedCode (rd : Nat → Byte) (base width idx : Nat) : Nat :=
  let b := idx * width
  let lo := base + b / 8
  ((rd lo).toNat + 256 * (rd (lo + 1)).toNat) >>> (b % 8) % 2 ^ width

/-- Element (i, k) of sub-operation `q`'s A operand (R64, R65, R68, R126), read through `rd`: rows of k elements, or, transposed,
rows of 256 B where the operand streams and of m elements where it is held (log entry 14). -/
def MmaFields.elemA (f : MmaFields) (a b : OperandFmt) (rd : Nat → Byte) (q i k : Nat) : Num :=
  let g := f.geometry
  let kk := reduction g a b
  let base := 64 * (f.aAddr.toNat + q * f.subStep)
  let code := packedCode rd base a.width (if f.ta then k * (if f.turnsA then turnPitch else g.m) + i else i * kk + k)
  if a.mx then
    mxDecode a.elem code (rd (64 * f.sAddr + q * scaleStride g a b + i * (kk / 32) + k / 32)).toNat
  else a.elem.decode code

/-- Element (k, j) of sub-operation `q`'s B operand (R64, R65, R68, R126): stored by rows of n elements; by columns when
transposed or MX, of 256 B where the turn unit reads it (log entry 14). -/
def MmaFields.elemB (f : MmaFields) (a b : OperandFmt) (rd : Nat → Byte) (q k j : Nat) : Num :=
  let g := f.geometry
  let kk := reduction g a b
  let base := 64 * (f.bAddr.toNat + q * f.subStep)
  let code := packedCode rd base b.width (if f.turnsB then j * turnPitch + k else if f.tb || b.mx then j * kk + k else k * g.n + j)
  if b.mx then
    mxDecode b.elem code
      (rd (64 * f.sAddr + q * scaleStride g a b + roundUnit (scaleBytesA g a b) + j * (kk / 32) + k / 32)).toNat
  else b.elem.decode code

/-- Element (i, k) of A as the cells hold it, which the word `f` loaded through `rd` (R62); what the load did not fill is a
free value (log entry 89). `g` is the shape of the word that uses it. -/
def MmaFields.cellA (f : MmaFields) (rd : Nat → Byte) (g : Shape) (q i k : Nat) : Num :=
  match f.formats with
  | some (a, b) =>
    let h := f.geometry
    if h.m = g.m ∧ h.subs = g.subs ∧ k < reduction h a b then f.elemA a b rd q i k
    else Num.ofAx64 (Config.unloadedCell q i k)
  | none => .nan

/-- Element (k, j) of B as the cells hold it. -/
def MmaFields.cellB (f : MmaFields) (rd : Nat → Byte) (g : Shape) (q k j : Nat) : Num :=
  match f.formats with
  | some (a, b) =>
    let h := f.geometry
    if h.n = g.n ∧ h.subs = g.subs ∧ k < reduction h a b then f.elemB a b rd q k j
    else Num.ofAx64 (Config.unloadedCell q k j)
  | none => .nan

/-- The ordered sum of one accumulator element (R73): the starting word, then the products in ascending k. -/
def MmaFields.element (f : MmaFields) (a b : OperandFmt) (ea eb : Nat → Num) (start : W64) : W64 :=
  foldRange (reduction f.geometry a b) (if f.zero then 0 else start) (fun acc k => ax64Mac acc (ea k) (eb k))

/-! ### V-tile words -/

/-- The fields of a V-tile word other than `LOOP` (R89). -/
structure VFields where
  op : Nat
  vd : Nat
  va : Nat
  vb : Nat
  vc : Nat
  ty : Nat
  rnd : Nat
  fn : Nat
  imm : Int
  cnt : Nat
  deriving DecidableEq, Repr

/-- A decoded V-tile word (R89, R91). -/
inductive VOp where
  | word (f : VFields)
  | loop (body count rinc : Nat) (ainc : Int)
  deriving DecidableEq, Repr

/-- The V-tile opcodes other than `LOOP`, with the `TYPE` values (R523) and number of `FN` codes each takes, and whether
it uses `CNT` (R89, R90). -/
def vOpcodes : List (Nat × List Nat × List Nat × Bool) :=
  [(0x01, [0, 1], [0], false), (0x02, [0, 1], [0], false), (0x03, [0, 1], [0], false),
   (0x04, [0, 1], [0], false), (0x05, [0, 1], [0], false), (0x06, [0, 1], [0], false),
   (0x07, [0, 1], [0], false), (0x08, [0, 1], [0, 1, 2], false), (0x09, [0, 1], [0, 1, 2, 3], false),
   (0x0A, [0, 1, 2], [0], false), (0x0B, [2], List.range 11, false), (0x10, [0, 1], List.range 6, false)] ++
  [(0x18, [0], List.range 7, false), (0x19, [0, 1], [3, 4, 5, 6, 7, 8], false),
   (0x1A, [0], [3, 4, 5, 6, 7, 8], false), (0x1B, [0], [0], false), (0x20, [0, 1, 2], [0], true),
   (0x21, [0, 1], [0], true), (0x22, [0, 1], [0], true), (0x23, [0, 1], [0], true)] ++
  [(0x30, [0], List.range 16, true), (0x31, [0], List.range 16, true), (0x32, [0], List.range 16, false),
   (0x33, [0, 1, 2], [0, 1, 2, 3], true), (0x38, [0], [0], false), (0x39, [0], [0], false),
   (0x3F, [0], [0], false)]

/-- The bits of a V-tile word that its opcode and sub-function assign (R89, R90): `OPCODE`, `TYPE` and `RND`, and of the
registers, `FN`, `IMM` and `CNT` those that the opcode table gives a meaning; the others stay zero (R91; log entry 92). -/
def vAssigned (op fn : Nat) : List (Nat × Nat) :=
  let vd := (13, 8)
  let va := (19, 14)
  let vb := (25, 20)
  let vc := (31, 26)
  let sub := (39, 36)
  let addr := (56, 40)
  let slot := (43, 40)
  let count := (62, 57)
  [(7, 0), (35, 32)] ++
  (match op with
   | 0x01 | 0x02 | 0x03 | 0x06 | 0x07 => [vd, va, vb]
   | 0x04 | 0x05 | 0x0A => [vd, va, vb, vc]
   | 0x08 => [vd, va, sub] ++ (if fn = 2 then [vb] else [])
   | 0x09 | 0x0B => [vd, va, vb, sub]
   | 0x10 => [vd, va, sub]
   | 0x18 => [vd, va, sub] ++ (if fn ≤ 5 then [slot] else [])
   | 0x19 => [vd, va, vc, sub, slot]
   | 0x1A => [vd, va, vb, sub, slot]
   | 0x1B => [vd, va, vb, vc, (45, 40)]
   | 0x20 | 0x21 | 0x22 => [vd, va, count]
   | 0x23 => [vd, va, vb, count]
   | 0x30 => [vd, sub, addr, count]
   | 0x31 => [va, sub, addr, count]
   | 0x32 => [vd, sub, addr]
   | 0x33 => [va, sub, addr, count] ++ (if fn = 1 ∨ fn = 2 then [] else [vd])
   | 0x38 | 0x39 => [(47, 40)]
   | _ => [])

/-- Decode a V-tile word: its fields, or what is wrong with its opcode or reserved bits (R89–R91). -/
def decodeV (w : W64) : Except Bad VOp :=
  let v := w.toNat
  let op := bits v 7 0
  if op = 0x3A then
    if strayBits v [(37, 0), (56, 40)] then .error .reserved
    else .ok (.loop (bits v 15 8) (bits v 31 16) (bits v 37 32) (signed 17 (bits v 56 40)))
  else if (vOpcodes.find? (fun e => e.1 == op)).isNone then .error .illegal
  else if strayBits v (vAssigned op (bits v 39 36)) then .error .reserved
  else .ok (.word {
    op, vd := bits v 13 8, va := bits v 19 14, vb := bits v 25 20, vc := bits v 31 26, ty := bits v 33 32,
    rnd := bits v 35 34, fn := bits v 39 36, imm := bits v 56 40, cnt := bits v 62 57 })

/-- True when `IMM` holds an address (R91). -/
def VFields.usesAddress (f : VFields) : Bool :=
  f.op == 0x30 || f.op == 0x31 || f.op == 0x32 || (f.op == 0x33 && f.fn != 2)

/-- Which register fields (VD, VA, VB, VC) the instruction uses as registers (R90, R91). -/
def VFields.uses (f : VFields) : Bool × Bool × Bool × Bool :=
  match f.op with
  | 0x01 | 0x02 | 0x03 | 0x06 | 0x07 | 0x09 | 0x0B => (true, true, true, false)
  | 0x04 | 0x05 | 0x0A | 0x1B => (true, true, true, true)
  | 0x08 => (true, true, f.fn == 2, false)
  | 0x10 | 0x18 => (true, true, false, false)
  | 0x19 => (true, true, false, true)
  | 0x1A | 0x23 => (true, true, true, false)
  | 0x20 | 0x21 | 0x22 => (true, true, false, false)
  | 0x30 | 0x32 => (true, false, false, false)
  | 0x31 | 0x33 => (false, true, false, false)
  | _ => (false, false, false, false)

/-- Iteration `t` of a loop advances the registers modulo 64 and the addresses (R91). -/
def VFields.advance (t rinc : Nat) (ainc : Int) (f : VFields) : VFields :=
  let (ud, ua, ub, uc) := f.uses
  let go (u : Bool) (r : Nat) : Nat := if u then (r + t * rinc) % 64 else r
  { f with vd := go ud f.vd, va := go ua f.va, vb := go ub f.vb, vc := go uc f.vc,
           imm := if f.usesAddress then f.imm + t * ainc else f.imm }

/-- Bytes per block of 32 elements of an MX format (R103). -/
def mxBlockBytes (fmt : Nat) : Nat := ((operandFmt fmt).map (fun o => 4 * o.width)).getD 0

/-- Blocks that a `CVMX` forms, 8 from FP32 and 16 from paired bf16; `DVMX` takes 8 (R103). -/
def VFields.blocks (f : VFields) : Nat := if f.op = 0x19 ∧ f.ty = 1 then 16 else 8

/-- The bytes E of one slot (R101–R103); 0 where the instruction uses no slot. -/
def VFields.slotBytes (f : VFields) : Nat :=
  match f.op with
  | 0x18 => (match f.fn with | 0 | 3 => 512 | 1 | 2 | 4 | 5 => 256 | _ => 0)
  | 0x19 | 0x1A => f.blocks * mxBlockBytes f.fn
  | _ => 0

/-- Slot number (R101). -/
def VFields.slot (f : VFields) : Nat := f.imm.toNat % 16

/-- Registers a source run reads beyond the first: `CNT` of multi-register forms, one for AX64 → FP32 (R102). -/
def VFields.sourceRun (f : VFields) : Nat :=
  match f.op with
  | 0x20 | 0x21 | 0x22 | 0x23 | 0x31 | 0x33 => f.cnt
  | 0x18 => if f.fn = 6 then 1 else 0
  | _ => 0

/-- Registers an `LD` writes beyond the first. -/
def VFields.destRun (f : VFields) : Nat := if f.op = 0x30 then f.cnt else 0

/-- True when the instruction draws stochastic bits (R48, R50). -/
def VFields.stochastic (f : VFields) : Bool := f.rnd == 2

/-- The checks of a V-tile word on its own (R60, R89–R94, R101, R523). Strided accesses are checked against their table
entry apart. -/
def VFields.legal (f : VFields) : Bool :=
  match vOpcodes.find? (fun e => e.1 == f.op) with
  | none => false
  | some (_, tys, fns, cnt) =>
    let (ud, ua, ub, _) := f.uses
    tys.contains f.ty && fns.contains f.fn && f.rnd != 3
      && (f.rnd == 0 || f.op == 0x19 || (f.op == 0x18 && decide (f.fn ≤ 2)))
      && (cnt || f.cnt == 0)
      && (!ud || decide (f.vd + f.destRun ≤ 63)) && (!ua || decide (f.va + f.sourceRun ≤ 63))
      && (!ub || decide (f.vb + (if f.op = 0x23 then f.cnt else 0) ≤ 63))
      && (f.op != 0x31 || f.vd == 0)
      && (if f.op = 0x30 ∨ f.op = 0x31 then
            (f.fn != 0 || inMemory f.imm (16 * (f.cnt + 1)) tileUnits) && inMemory f.imm 1 tileUnits
          else if f.op = 0x32 then inMemory f.imm 1 tileUnits
          else if f.op = 0x33 then
            (match f.fn with
             | 0 => decide (f.vd ≤ 11) && inMemory f.imm (16 * (f.cnt + 1)) tileUnits
             | 1 => inMemory f.imm (16 * (f.cnt + 1)) bufferUnits
             | 3 => decide (f.vd ≤ 7) && inMemory f.imm (16 * (f.cnt + 1)) tileUnits
             | _ => true)
          else true)
      && (f.slotBytes == 0 || decide ((f.slot + 1) * f.slotBytes ≤ 1024))

/-- The checks of a decoded V-tile word (R91, R94). -/
def VOp.legal : VOp → Bool
  | .word f => f.legal
  | .loop body count _ _ => decide (1 ≤ body) && decide (1 ≤ count)

/-- Issue interval in cycles (R90, R96); strided and transposing accesses have their own (R125, R128). -/
def VFields.interval (f : VFields) : Nat :=
  match f.op with
  | 0x10 => (if f.fn ≤ 3 then 2 else 4) * (if f.ty = 1 then 2 else 1)
  | 0x19 | 0x1A => 2
  | 0x20 | 0x21 | 0x22 | 0x23 | 0x30 | 0x31 | 0x33 => f.cnt + 1
  | _ => 1

/-- Latency in cycles (R90, R96). -/
def VFields.latency (f : VFields) : Nat :=
  match f.op with
  | 0x01 | 0x02 | 0x03 | 0x04 | 0x05 | 0x18 => 4
  | 0x06 | 0x07 | 0x08 | 0x09 | 0x0A => 2
  | 0x0B => if f.fn = 10 then 4 else 2
  | 0x10 => if f.fn ≤ 3 then 12 else 20
  | 0x19 | 0x1A => 8
  | 0x1B => 6
  | 0x20 | 0x21 | 0x22 | 0x23 => 16 + 4 * f.cnt
  | 0x30 => 6 + f.cnt
  | 0x32 => 6
  | _ => 0

/-- Nominal energy of a V-tile instruction, in units of 0.01 nJ (R105). -/
def VFields.energy (f : VFields) : Nat :=
  match f.op with
  | 0x10 => if f.ty = 1 then 320 else 160
  | 0x20 | 0x21 | 0x22 => 50 * (f.cnt + 1)
  | 0x23 => 100 * (f.cnt + 1)
  | 0x30 | 0x31 | 0x33 => 110 * (f.cnt + 1)
  | 0x32 => 110
  | 0x38 | 0x39 | 0x3F => 0
  | _ => if f.ty = 1 then 100 else 90

/-! ### Access modes -/

/-- A V-tile access-mode entry (R123), and its decoding. -/
structure AccessMode where
  kind : Nat
  piece : Nat
  n0 : Nat
  n1 : Nat
  n2 : Nat
  s0 : Int
  s1 : Int
  s2 : Int
  s3 : Int
  deriving DecidableEq, Repr

def AccessMode.ofNat (v : Nat) : AccessMode :=
  { kind := bits v 1 0, piece := bits v 4 2, n0 := bits v 15 8 + 1, n1 := bits v 23 16 + 1,
    n2 := bits v 31 24 + 1, s0 := signed 17 (bits v 48 32), s1 := signed 17 (bits v 65 49),
    s2 := signed 17 (bits v 82 66), s3 := signed 17 (bits v 99 83) }

/-- Units of a piece (R123). -/
def AccessMode.pieceUnits (m : AccessMode) : Nat := 2 ^ m.piece

/-- First unit of piece `p` of an access at `imm` (R124). -/
def AccessMode.pieceAt (m : AccessMode) (imm : Int) (p : Nat) : Int :=
  imm + (p % m.n0 : Nat) * m.s0 + ((p / m.n0) % m.n1 : Nat) * m.s1 + ((p / (m.n0 * m.n1)) % m.n2 : Nat) * m.s2
    + (p / (m.n0 * m.n1 * m.n2) : Nat) * m.s3

/-- Unit `u` (0–15) of register `r` of a strided access (R124). -/
def AccessMode.unitAt (m : AccessMode) (imm : Int) (r u : Nat) : Int :=
  let per := 16 / m.pieceUnits
  m.pieceAt imm (r * per + u / m.pieceUnits) + (u % m.pieceUnits : Nat)

/-- Every unit of a strided access of `regs` registers lies within the V-tile SRAM (R124). -/
def AccessMode.inRange (m : AccessMode) (imm : Int) (regs : Nat) : Bool :=
  (List.range (16 * regs)).all (fun i =>
    let u := m.unitAt imm (i / 16) (i % 16)
    decide (0 ≤ u ∧ u < (tileUnits : Int)))

/-- The most units of register `r` that one bank holds: the cycles it takes (R125). -/
def AccessMode.registerCycles (m : AccessMode) (imm : Int) (r : Nat) : Nat :=
  let banks := (List.range 16).map (fun u => (m.unitAt imm r u).toNat % 32)
  (banks.map (fun b => banks.count b)).foldl max 1

/-! ### C-tile words -/

/-- The fields of a C-tile word (R107). -/
structure CFields where
  op : Nat
  rd : Nat
  rs1 : Nat
  rs2 : Nat
  fn : Nat
  imm : Int
  immU : Nat
  deriving DecidableEq, Repr

/-- Decode a C-tile word (R107, R108); every opcode or sub-function not in the table is illegal. -/
def decodeC (w : W32) : Except Bad CFields :=
  let v := w.toNat
  let f : CFields := {
    op := bits v 5 0, rd := bits v 10 6, rs1 := bits v 15 11, rs2 := bits v 20 16, fn := bits v 31 21,
    imm := signed 16 (bits v 31 16), immU := bits v 31 16 }
  let ok :=
    match f.op with
    | 0x00 => decide (f.fn ≤ 15)
    | 0x0C => decide (f.fn ≤ 2)
    | 0x0D => decide (f.fn ≤ 3)
    | 0x30 => decide (f.fn ≤ 6)
    | o => (1 ≤ o && o ≤ 8) || (0x10 ≤ o && o ≤ 0x16) || (0x18 ≤ o && o ≤ 0x1E) || (0x20 ≤ o && o ≤ 0x2A)
        || o == 0x38 || o == 0x3F
  if ok then .ok f else .error .illegal

/-- Latency of a C-tile instruction in cycles (R108). -/
def CFields.latency (f : CFields) (taken : Bool) : Nat :=
  match f.op with
  | 0x0C => 3
  | 0x0D => 34
  | 0x1C => 24
  | 0x26 | 0x27 | 0x30 => 2
  | o => if 0x10 ≤ o ∧ o ≤ 0x16 then 4 else if 0x20 ≤ o ∧ o ≤ 0x25 ∧ taken then 2 else 1

end Sys2Proof.Machine
end

