-- ==== Sys2Proof/Machine/Pattern.lean ====
section
/-! DEFINITION. A loaded pattern as the loader reads it from an image: header, round sequence, and the per-die and per-rim
tables, with the field maps of their entries (spec/06_fabric_and_patterns.md R156–R180, spec/07_recompute_execution.md
R204, R209, spec/08_splice_reduction.md R221–R231, spec/10_streams_prefetch_gather.md R294–R306). -/

namespace Sys2Proof.Machine

/-- A slot record (R156, R176): the entry's word and its placement. -/
structure SlotRecord where
  word : Nat
  beat : Nat
  repm1 : Nat
  stride : Nat
  deriving DecidableEq, Repr

/-- The source code of output `o` (N 0, E 1, S 2, W 3, L 4) of a slot entry (R156). -/
def slotSource (word o : Nat) : Nat := bits word (3 * o + 2) (3 * o)

/-- True when output `o` carries the splice sum (R156). -/
def slotAdds (word o : Nat) : Bool := bit word (15 + o)

/-- The injection source of a slot entry: push queue 0–19 (R156). -/
def slotInjection (word : Nat) : Nat := bits word 24 20

/-- The landing pointer of a slot entry (R156). -/
def slotLanding (word : Nat) : Nat := bits word 29 25

/-- True when an output's source or an adder draws on the local injection (R157). -/
def slotInjects (word : Nat) : Bool :=
  (List.range 5).any (fun o => slotAdds word o || (slotSource word o == 5 && decide (o < 4)))

/-- The record covers beat `b` (R176). -/
def SlotRecord.covers (r : SlotRecord) (b : Nat) : Bool :=
  decide (r.beat ≤ b) &&
    (if r.repm1 = 0 then b == r.beat
     else r.stride != 0 && (b - r.beat) % r.stride == 0 && decide ((b - r.beat) / r.stride ≤ r.repm1))

/-- The beats a record covers (R176). -/
def SlotRecord.beats (r : SlotRecord) : List Nat := (List.range (r.repm1 + 1)).map (fun i => r.beat + i * r.stride)

/-- A sequencer-list entry (R168). -/
structure SeqEntry where
  beat : Nat
  act : Nat
  unit : Nat
  arg : Nat
  deriving DecidableEq, Repr

/-- A landing pointer (R159). -/
structure Landing where
  valid : Bool
  mem : Nat
  base : Nat
  limit : Nat
  deriving DecidableEq, Repr

/-- A credit-table entry (R130), with its current count. -/
structure Credit where
  valid : Bool
  sched : Bool
  srcKind : Nat
  srcId : Nat
  base : Nat
  limit : Nat
  credits : Nat
  refill : Nat
  evt : Nat
  rstart : Bool
  deriving DecidableEq, Repr

/-- A region declaration (R209). -/
structure Region where
  mem : Nat
  kind : Nat
  writ : Bool
  block : Nat
  base : Nat
  limit : Nat
  first : Nat
  last : Nat
  src : Nat
  deriving DecidableEq, Repr

/-- A splice-queue entry (R224). -/
structure SpliceQueue where
  splice : Bool
  h : Nat
  p2 : Nat
  scaleBase : Nat
  scaleHalf : Nat
  sumBase : Nat
  sumSlots : Nat
  deriving DecidableEq, Repr

/-- A terminus entry (R231). -/
structure Terminus where
  valid : Bool
  land : Nat
  p2 : Nat
  h : Nat
  evt1 : Nat
  evt2 : Nat
  recBase : Nat
  recSlots : Nat
  scaleBase : Nat
  scaleHalf : Nat
  deriving DecidableEq, Repr

/-- An injection dependency declaration (R222). -/
structure InjDep where
  injTable : Nat
  injBeat : Nat
  depTable : Nat
  depBeat : Nat
  deriving DecidableEq, Repr

/-- A sync-point declaration (R179). -/
structure SyncDecl where
  table : Nat
  beat : Nat
  lead : Nat
  deriving DecidableEq, Repr

/-- A transit lease entry (R178). -/
structure Lease where
  col : Nat
  row : Nat
  link : Nat
  residue : Nat
  deriving DecidableEq, Repr

/-- A calibration slack window (R272). -/
structure CalWindow where
  table : Nat
  beat : Nat
  len : Nat
  stack : Nat
  deriving DecidableEq, Repr

/-- A patch entry (R318). -/
structure Patch where
  bucket : Nat
  chunk : Nat
  mtile : Nat
  word : Nat
  deriving DecidableEq, Repr

/-- The sequence-table configuration (R318). -/
structure SeqConfig where
  slots : Nat
  mxint8 : Bool
  tokens : Nat
  heads : Nat
  pages : Nat
  lenLog2 : Nat
  poolBase : Nat
  poolFrames : Nat
  listBase : Nat
  margin : Nat
  cap : List Nat
  wlBase : Nat
  repBase : Nat
  deriving DecidableEq, Repr

/-- A stream descriptor (R294). -/
structure Descriptor where
  kind : Nat
  op : Nat
  cache : Bool
  chain : Bool
  w : Int
  mask : Nat
  slack : Nat
  base : Nat
  piece : Nat
  runahead : Nat
  count : Nat
  n0 : Nat
  n1 : Nat
  s0 : Int
  s1 : Int
  s2 : Int
  fenceLo : Nat
  fenceHi : Nat
  idxBase : Nat
  idxTether : Bool
  idxCore : Nat
  idxDie : Nat
  deriving DecidableEq, Repr

/-- The reserved bits of a descriptor (R294). -/
def descriptorFields : List (Nat × Nat) :=
  [(9, 0), (24, 16), (63, 32), (101, 64), (111, 104), (151, 128), (287, 160), (354, 320), (418, 384), (497, 448)]

/-- The fields of a descriptor (R294); `SLACK` 0 means 6,000. -/
def Descriptor.ofNat (v : Nat) : Descriptor :=
  { kind := bits v 3 0, op := bits v 7 4, cache := bit v 8, chain := bit v 9, w := signed 9 (bits v 24 16),
    mask := bits v 47 32, slack := if bits v 63 48 = 0 then 6000 else bits v 63 48, base := bits v 98 64,
    piece := bits v 101 99, runahead := bits v 111 104, count := bits v 151 128, n0 := bits v 175 160 + 1,
    n1 := bits v 191 176 + 1, s0 := signed 32 (bits v 223 192), s1 := signed 32 (bits v 255 224),
    s2 := signed 32 (bits v 287 256), fenceLo := bits v 354 320, fenceHi := bits v 418 384,
    idxBase := bits v 482 448, idxTether := bit v 483, idxCore := bits v 488 484, idxDie := bits v 497 489 }

/-- A null descriptor (R295). -/
def Descriptor.null : Descriptor := Descriptor.ofNat 0

/-- Units of one piece (R294). -/
def Descriptor.pieceUnits (d : Descriptor) : Nat := 2 ^ d.piece

/-- First unit of piece `p` of a descriptor of kinds 1–3 (R296), as an integer before the fence check. -/
def Descriptor.pieceAt (d : Descriptor) (p : Nat) : Int :=
  (d.base : Int) + (p % d.n0 : Nat) * d.s0 + ((p / d.n0) % d.n1 : Nat) * d.s1 + (p / (d.n0 * d.n1) : Nat) * d.s2

/-- First unit of piece `q` of the row that index `x` names (R300). -/
def Descriptor.rowPieceAt (d : Descriptor) (x q : Nat) : Int := (d.base : Int) + (x : Int) * d.s0 + (q : Int) * d.s1

/-- Pieces in one flit (R296). -/
def Descriptor.piecesPerFlit (d : Descriptor) : Nat := 16 / d.pieceUnits

/-- `FINALIZE` and `FLUSH` descriptors consume no flits (R295). -/
def Descriptor.flitless (d : Descriptor) : Bool := (d.kind == 3 || d.kind == 6) && (d.op == 0xB || d.op == 0xC)

/-- Flits a descriptor moves: `COUNT` for kinds 1–3; its rows' pieces packed for kinds 4–6 (R296, R300). -/
def Descriptor.flits (d : Descriptor) : Nat :=
  if d.kind ≤ 3 then d.count else ceilDiv (d.count * d.n0 * d.pieceUnits) 16

/-- Kinds that the fetch sequence takes (R525). -/
def Descriptor.fetches (d : Descriptor) : Bool := d.kind == 1 || d.kind == 4

/-- Kinds that the consume sequence takes (R525). -/
def Descriptor.consumes (d : Descriptor) : Bool := d.kind == 2 || d.kind == 3 || d.kind == 5 || d.kind == 6

/-- Not a `KIND`, `OP` or `PIECE` that the tables reserve, nor a kind that the engine does not take (R294, R295, R303). -/
def Descriptor.allowed (d : Descriptor) (eng : Nat) : Bool :=
  decide (d.kind ≤ 7) && decide (d.piece ≤ 4)
    && (if d.kind = 3 ∨ d.kind = 6 then decide (1 ≤ d.op ∧ d.op ≤ 12) else d.op == 0)
    && (if d.kind = 1 ∨ d.kind = 2 ∨ d.kind = 3 then decide (eng ≤ 3)
        else if d.kind = 4 ∨ d.kind = 5 ∨ d.kind = 6 then decide (4 ≤ eng) else true)

/-- A rim edge entry (R306). -/
structure EdgeEntry where
  beat : Nat
  port : Nat
  receive : Bool
  eng : Nat
  hank : Bool
  deriving DecidableEq, Repr

/-- One descriptor list of a rim (R298). -/
structure EngineList where
  layer : Nat
  eng : Nat
  descs : List Descriptor
  deriving DecidableEq, Repr

/-- Initial SRAM contents (R180). -/
structure Contents where
  mem : Nat
  base : Nat
  data : List Byte
  deriving DecidableEq, Repr

/-- What an image gives one die (R174). -/
structure DiePattern where
  slots : List (List SlotRecord)
  seqs : List (List SeqEntry)
  landings : List Landing
  syncs : List SyncDecl
  contents : List Contents
  access : List AccessMode
  credits : List Credit
  regions : List Region
  strand : Nat
  pos : Nat
  deps : List InjDep
  queues : List SpliceQueue
  termini : List Terminus
  cal : List CalWindow
  seqCfg : Option SeqConfig
  patches : List Patch
  deriving DecidableEq, Repr

/-- What an image gives one rim (R298). -/
structure RimPattern where
  edges : List (List EdgeEntry)
  lists : List EngineList
  deriving DecidableEq, Repr

/-- A layer-map entry (R204). -/
structure LayerEntry where
  layer : Nat
  phase : Nat
  block : Nat
  deriving DecidableEq, Repr

/-- A loaded pattern (R171–R180); `rounds` holds each round-sequence entry's table and repeat count, `lengths` each
table's beats and `estimates` each table's energy estimate `EST_UJ`, `STK_UJ` and `BG_UJ` (R424). -/
structure Pattern where
  hash : BitVec 384
  width : Nat
  height : Nat
  strands : Nat
  errModes : Nat
  transitReserve : Nat
  seed : W64
  syncTimeout : Nat
  rounds : List (Nat × Nat)
  layers : List LayerEntry
  lengths : List Nat
  dies : List DiePattern
  rims : List RimPattern
  leases : List Lease
  estimates : List (Nat × Nat × Nat)
  deriving DecidableEq, Repr

/-- An empty die pattern. -/
def DiePattern.empty : DiePattern :=
  { slots := [], seqs := [], landings := [], syncs := [], contents := [], access := [], credits := [], regions := [],
    strand := 0, pos := 0, deps := [], queues := [], termini := [], cal := [], seqCfg := none, patches := [] }

/-- Byte `a` of an SRAM as the image's initial contents leave it (R180); 0 where they cover it not. -/
def DiePattern.loadedByte (q : DiePattern) (mem a : Nat) : Byte :=
  match (q.contents.filter (fun c => c.mem == mem && decide (64 * c.base ≤ a) && decide (a < 64 * c.base + c.data.length))).getLast? with
  | some c => c.data.getD (a - 64 * c.base) 0
  | none => 0

/-- Access-mode entry `fn` of V-tile `v`: all zero, the reset value, where the image gives the die no table (R123, R174). -/
def DiePattern.accessMode (q : DiePattern) (v fn : Nat) : AccessMode := (q.access[15 * v + (fn - 1)]?).getD (AccessMode.ofNat 0)

/-- The pattern of die `d`. -/
def Pattern.die (p : Pattern) (d : Nat) : DiePattern := p.dies.getD d .empty

/-- The pattern of the partition's rim `i`. -/
def Pattern.rim (p : Pattern) (i : Nat) : RimPattern := p.rims.getD i ⟨[], []⟩

/-- The round table and layer entry of round-sequence entry `e`. -/
def Pattern.table (p : Pattern) (e : Nat) : Nat := (p.rounds.getD e (0, 1)).1

def Pattern.layerOf (p : Pattern) (e : Nat) : LayerEntry := p.layers.getD e ⟨0, 0, 0⟩

/-- The length in beats of the table of round-sequence entry `e`. -/
def Pattern.length (p : Pattern) (e : Nat) : Nat := p.lengths.getD (p.table e) 1024

/-- True when the pattern runs generation (R318). -/
def Pattern.generates (p : Pattern) : Bool := (p.die 0).seqCfg.isSome

/-- The slot entry of die `d` in beat `b` of table `t`; an uncovered beat is idle (R176). -/
def Pattern.slot (p : Pattern) (d t b : Nat) : Nat :=
  (((p.die d).slots.getD t []).find? (fun r => r.covers b)).map (·.word) |>.getD 0

/-- Landing pointer `l` of die `d`. -/
def Pattern.landing (p : Pattern) (d l : Nat) : Landing := (p.die d).landings.getD l ⟨false, 0, 0, 0⟩

/-- Splice-queue entry `q` of die `d`. -/
def Pattern.spliceQueue (p : Pattern) (d q : Nat) : SpliceQueue := (p.die d).queues.getD q ⟨false, 0, 0, 0, 0, 0, 1⟩

/-- The terminus bound to landing pointer `l` of die `d`, with its index. -/
def Pattern.terminusOf (p : Pattern) (d l : Nat) : Option (Nat × Terminus) :=
  ((p.die d).termini.zipIdx.find? (fun e => e.1.valid && e.1.land == l)).map (fun e => (e.2, e.1))

/-- Units of the SRAM that code `mem` names (R209). -/
def memUnits (mem : Nat) : Nat :=
  if mem ≤ 19 then tileUnits else if mem = 20 then bufferUnits else if mem ≤ 24 then ctileUnits else 0

end Sys2Proof.Machine
end

