-- ==== Sys2Proof/Machine/Die.lean ====
section
/-! DEFINITION. The state of one skein die: tiles, scratchpads, credit tables, events, router and reduction state
(spec/03_matrix_tiles.md, spec/04_vector_and_control_tiles.md, spec/05_scratchpads.md, spec/06_fabric_and_patterns.md,
spec/08_splice_reduction.md). -/

namespace Sys2Proof.Machine

/-- A flit without its `CHECK`, which is recomputed at every router (R146, R147): 256 payload words. -/
structure Flit where
  valid : Bool
  bsi : Bool
  count : Nat
  ovr : BitVec 4
  exc : BitVec 16
  payload : List W32
  deriving DecidableEq, Repr

/-- Words of a payload or a vector register. -/
def lanes : Nat := 256

/-- A register or payload built lane by lane. -/
def mkLanes (f : Nat → W32) : List W32 := (List.range lanes).map f

/-- Lane `i` of a register or payload. -/
def lane (r : List W32) (i : Nat) : W32 := r.getD i 0

/-- A register or payload of zeros. -/
def zeroLanes : List W32 := List.replicate lanes 0

/-- A zero flit (R147). -/
def Flit.zero : Flit := ⟨false, false, 0, 0, 0, zeroLanes⟩

/-- A plain flit of data. -/
def Flit.plain (p : List W32) : Flit := ⟨true, false, 0, 0, 0, p⟩

/-- The sideband word of a flit but for `CHECK` (R147). -/
def Flit.sideband (f : Flit) : Nat :=
  (if f.valid then 1 else 0) + (if f.bsi then 2 else 0) + f.count * 4 + f.ovr.toNat * 2 ^ 11 + f.exc.toNat * 2 ^ 15

/-- One bit of a CRC-32C register (reflected Castagnoli polynomial). -/
def crcBit (c : W32) : W32 := if c.getLsbD 0 then (c >>> 1) ^^^ 0x82F63B78#32 else c >>> 1

/-- CRC-32C over bytes (R147). -/
def crc32c (bs : List Byte) : W32 :=
  ~~~ (bs.foldl (fun c b => (List.range 8).foldl (fun x _ => crcBit x) (c ^^^ b.setWidth 32)) 0xFFFFFFFF#32)

/-- The bytes of a list of words, little-endian (R9). -/
def wordBytes (ws : List W32) : List Byte := ws.flatMap (fun w => leBytes 4 w.toNat)

/-- The 256 words of 1,024 bytes. -/
def bytesToLanes (bs : List Byte) : List W32 :=
  mkLanes (fun i => BitVec.ofNat 32 (leNat ((bs.drop (4 * i)).take 4)))

/-- `CHECK` of a flit: CRC-32C over the payload and sideband bits [31:0] (R147). -/
def Flit.check (f : Flit) : W32 := crc32c (wordBytes f.payload ++ leBytes 4 f.sideband)

/-- The loop a tile is in (R59, R91): byte addresses of the body, the count, the iteration and the increments. -/
structure LoopState where
  first : Nat
  stop : Nat
  count : Nat
  iter : Nat
  incA : Int
  incB : Int
  incR : Nat
  deriving DecidableEq, Repr

/-- The program of an M-tile or V-tile: running, `END` issued, the byte position, the loop and the event it waits for. -/
structure Prog where
  running : Bool
  ended : Bool
  started : Bool
  pc : Nat
  loop : Option LoopState
  waiting : Option Nat
  deriving DecidableEq, Repr

/-- A tile with no program running. -/
def Prog.idle : Prog := ⟨false, false, false, 0, none, none⟩

/-- A program started at unit `arg` (R54, R88, R168). -/
def Prog.start (arg : Nat) : Prog := ⟨true, false, true, 64 * arg, none, none⟩

/-- An array instruction issued and not complete (R70): the tiles it accumulates into, and for the modes that write
accumulator memory the words it will have written there. -/
structure Flight where
  tiles : List Nat
  cells : Bool
  values : SMap W64
  deriving DecidableEq, Repr

/-- What output-stationary cells hold (R522): a tile for columns 0–63, one for columns 64–127, and the sums by
128 × row + column. -/
structure Hold where
  left : Nat
  right : Nat
  sums : SMap W64
  deriving DecidableEq, Repr

/-- A queued `DRN`, `ACZ` or `ACL` (R72); `started` once its transfer began. -/
structure AccEntry where
  op : MOp
  started : Bool
  deriving DecidableEq, Repr

/-- Work of the accumulator side in program order (R72): a queued instruction, or a hold that is to be spilled. -/
inductive BankWork where
  | entry (e : AccEntry)
  | spill (h : Hold)
  deriving DecidableEq, Repr

/-- The operand in the stationary cells (R62): the word that loaded it, and the operand SRAM as that load read it. -/
structure HeldOperand where
  word : MmaFields
  sram : Mem
  deriving DecidableEq, Repr

/-- A `GAP` ramp in progress (R82): its length, the cycle reached, and the levels at its start and end. -/
structure Ramp where
  len : Nat
  at_ : Nat
  from_ : Nat
  to_ : Nat
  deriving DecidableEq, Repr

/-- An M-tile (R54–R84); `want` is the level that an instruction held under R83 waits for. -/
structure MTile where
  sram : Mem
  acc : SMap W64
  prog : Prog
  chain : Option HeldKey
  held : Option HeldOperand
  first : Option MmaFields
  hold : Option Hold
  flights : List Flight
  work : List BankWork
  level : Nat
  target : Nat
  want : Option Nat
  heldLevel : Nat
  idle : Nat
  busy : Nat
  ramp : Option Ramp
  deriving DecidableEq, Repr

/-- An M-tile after teardown or cast-on: zeroed and not running (R376, R479). -/
def MTile.zeroed : MTile :=
  { sram := [], acc := [], prog := .idle, chain := none, held := none, first := none, hold := none,
    flights := [], work := [], level := 0, target := 0, want := none, heldLevel := 0, idle := 0, busy := 0,
    ramp := none }

/-- The queued instructions, and the holds that are to be spilled, in program order. -/
def MTile.queue (x : MTile) : List AccEntry := x.work.filterMap (fun w => match w with | .entry e => some e | .spill _ => none)

def MTile.spills (x : MTile) : List Hold := x.work.filterMap (fun w => match w with | .spill h => some h | .entry _ => none)

/-- A tile zeroed by teardown or a fault (R373, R376): its activity level is a property of the hardware and falls as in any
idle time (R80, R84). -/
def MTile.clearedKeep (x : MTile) : MTile :=
  { MTile.zeroed with level := x.level, target := x.level, heldLevel := x.heldLevel }

/-- A V-tile (R86–R91): registers v0–v63 that have been written, and the draw index of R50. -/
structure VTile where
  sram : Mem
  regs : SMap (List W32)
  prog : Prog
  draw : Nat
  deriving DecidableEq, Repr

def VTile.zeroed : VTile := { sram := [], regs := [], prog := .idle, draw := 0 }

/-- What a waiting core waits for (R108). -/
inductive CoreWait where
  | event (e : Nat)
  | packet (rd : Nat)
  deriving DecidableEq, Repr

/-- A tether packet: the sender's tether address as the receiver sees it, and the payload (R188, R189). -/
structure Packet where
  src : Nat
  payload : W32
  deriving DecidableEq, Repr

/-- A C-tile core (R106, R110). -/
structure Core where
  x : SMap W64
  pc : Nat
  running : Bool
  started : Bool
  waiting : Option CoreWait
  rx : List Packet
  deriving DecidableEq, Repr

def Core.zeroed : Core := { x := [], pc := 0, running := false, started := false, waiting := none, rx := [] }

/-- A remote write waiting for credit (R131): its source, the destination SRAM, byte address and data, the writer's tag
(accumulator bank of a `DRN`) and the unfrozen time at which the hold began (R134). -/
structure HeldWrite where
  srcKind : Nat
  srcId : Nat
  tag : Nat
  mem : Nat
  addr : Nat
  data : List Byte
  since : Nat
  deriving DecidableEq, Repr

/-- A C-tile store that is not yet visible (R109): the C-tile, the core, the beat of its issue, the byte address and data. -/
structure CoreStore where
  ctile : Nat
  core : Nat
  beat : Nat
  addr : Nat
  data : List Byte
  deriving DecidableEq, Repr

/-- What is pushed to a push queue (R77, R225): an AX64 row or FP32 row of a `DRN`, or a register of a `PUT`. -/
inductive PushKind where
  | axRow | fpRow | reg (ty : Nat)
  deriving DecidableEq, Repr

/-- A push in the crossing from a tile to its push queue (R151, R161), with the accumulator bank of a `DRN` row. -/
structure Push where
  queue : Nat
  bank : Nat
  kind : PushKind
  data : List W32
  beat : Nat
  deriving DecidableEq, Repr

/-- The state of a splice queue (R225–R227, R240): what has been pushed of the current pass, and the pointers. -/
structure SpliceState where
  pushed : List Push
  second : Bool
  flits : Nat
  scale : Nat
  summary : Nat
  deriving DecidableEq, Repr

/-- A splice queue before its first slice of a step. -/
def SpliceState.idle : SpliceState := ⟨[], false, 0, 0, 0⟩

/-- A pass of a slice that has landed whole and waits its four beats (R233, R241): which pass, the beat of its last write,
the slice's first unit, what each first-pass flit carried, the second-pass flits, and its record slot and scale unit. -/
structure TermSlice where
  second : Bool
  beat : Nat
  base : Nat
  firstFlits : List (Bool × Nat × BitVec 4 × BitVec 16)
  secondFlits : List Flit
  record : Nat
  scale : Nat
  deriving DecidableEq, Repr

/-- The state of a terminus entry (R231–R241): whether the second pass is landing, the slice's first unit, what each
first-pass flit carried (`VALID`, `COUNT`, `OVR`, `EXC`), the second-pass flits, the record and scale pointers, and the
passes that have landed whole. -/
structure TermState where
  second : Bool
  base : Nat
  firstFlits : List (Bool × Nat × BitVec 4 × BitVec 16)
  secondFlits : List Flit
  record : Nat
  scale : Nat
  whole : List TermSlice
  deriving DecidableEq, Repr

def TermState.idle : TermState := ⟨false, 0, [], [], 0, 0, []⟩

/-- A flit at a router input: the side it enters by, the beat in which it enters and the flit (R149). -/
structure Arrival where
  side : Nat
  beat : Nat
  flit : Flit
  deriving DecidableEq, Repr

/-- A delivery in the crossing to SRAM (R151). -/
structure Delivery where
  beat : Nat
  land : Nat
  flit : Flit
  deriving DecidableEq, Repr

/-- What a die records in the first beat of a layer (R212, R227); the die keeps the step's records by layer. -/
structure LayerRecord where
  events : SMap Nat
  ready : BitVec 16
  credits : SMap Credit
  draws : SMap Nat
  splice : SMap SpliceState
  term : SMap TermState
  deriving DecidableEq, Repr

/-- A skein die. -/
structure Die where
  m : SMap MTile
  v : SMap VTile
  c : SMap Core
  csram : SMap Mem
  stores : List CoreStore
  buffer : Mem
  credits : SMap Credit
  landed : SMap Nat
  events : SMap Nat
  ready : BitVec 16
  syncs : List (Nat × Nat)
  held : List HeldWrite
  pushes : List Push
  queues : SMap (List Flit)
  splice : SMap SpliceState
  term : SMap TermState
  inputs : List Arrival
  deliveries : List Delivery
  slotDone : Option Nat
  seqPos : Nat
  parityBad : List (Nat × Nat)
  parityRecord : Option (Nat × Nat)
  stopped : Bool
  conflicts : SMap Nat
  records : SMap LayerRecord
  deriving DecidableEq, Repr

/-- A die as teardown leaves it (R376). -/
def Die.zeroed : Die :=
  { m := [], v := [], c := [], csram := [], stores := [], buffer := [], credits := [], landed := [], events := [], ready := 0,
    syncs := [], held := [], pushes := [], queues := [], splice := [], term := [], inputs := [], deliveries := [],
    slotDone := none, seqPos := 0, parityBad := [], parityRecord := none, stopped := false, conflicts := [],
    records := [] }

end Sys2Proof.Machine
end

