-- ==== Sys2Proof/Machine/Rim.lean ====
section
/-! DEFINITION. The state of one rim die: stack, cache, reduction frames, engines and staging
(spec/09_stack_memory.md, spec/10_streams_prefetch_gather.md), and the limits and write queue of its controller. -/

namespace Sys2Proof.Machine

/-- A line of the rim cache (R274); the list is kept most recently used first. -/
structure CacheLine where
  unit : Nat
  dirty : Bool
  data : List Byte
  deriving DecidableEq, Repr

/-- An open reduction frame (R45, R283): element accumulators and flags (bit 0 CLAMP, 1 POSINF, 2 NEGINF, 3 NAN). -/
structure Frame where
  tag : Nat
  w : Int
  count : Nat
  limit : Bool
  acc : List Int
  flags : List (BitVec 4)
  deriving DecidableEq, Repr

/-- A recorded correction (R261, R410). -/
structure Correction where
  unit : Nat
  symbols : Nat
  timeUs : Nat
  deriving DecidableEq, Repr

/-- A flit in read or gather staging (R290, R291): its data, the units of the context's span it is read from, whether they are
read cacheable, those of them that wait in the engine's queue because the controller has not accepted them (by place in the
flit, R267), and the rim cycle in which it became complete. -/
structure Staged where
  data : List Byte
  units : List Nat
  cache : Bool
  waiting : List Nat
  complete : Option Nat
  deriving DecidableEq, Repr

/-- A read that the controller has accepted and not completed (R267): its stack unit, its requester (R269), and whether it fills
a line of the cache. -/
structure Transaction where
  unit : Nat
  req : Nat
  fill : Bool
  deriving DecidableEq, Repr

/-- A write that the controller has accepted and holds in its write queue, not yet committed (R256, R277). -/
structure QueuedWrite where
  unit : Nat
  req : Nat
  data : List Byte
  deriving DecidableEq, Repr

/-- The stream counters of R310, in bytes, counts and rim cycles. -/
structure StreamCounters where
  fetched : Nat
  useful : Nat
  pulls : Nat
  leadSum : Nat
  late : Nat
  lagSum : Nat
  minLead : Nat
  maxLag : Nat
  discard : Nat
  deriving DecidableEq, Repr

/-- The counters at reset (R310). -/
def StreamCounters.zeroed : StreamCounters := ⟨0, 0, 0, 0, 0, 0, 0xFFFFFFFF, 0, 0⟩

/-- A stream or gather engine (R288–R304, R525): the list it works on, the descriptors read of it, the fetch and consume
sequences, hank buffer, where the hanks taken from it end in the list, tether indices, indices of the two descriptors under
work, units of the consume sequence's flit that the controller has accepted (by place in the flit), staging and how many of its
last flits are run-ahead, received flits, places reserved for receives and receives that
wait in belay for one (write staging, hank), flits pulled, pulls checked and not yet made, and the late pulls: flit number,
rim cycle and time of the check. -/
structure Engine where
  list : List Descriptor
  read : Nat
  fetchAt : Nat
  fetchFlit : Nat
  useAt : Nat
  useFlit : Nat
  hanks : List (List Descriptor)
  taken : List Nat
  indices : List Packet
  fetchIdx : List W32
  useIdx : List W32
  useDone : List Nat
  staging : List Staged
  runAhead : Nat
  received : List Flit
  reserved : Nat
  hankReserved : Nat
  placeWait : Nat
  hankWait : Nat
  pulled : Nat
  pulls : Nat
  late : List (Nat × Nat × Nat)
  counters : StreamCounters
  deriving DecidableEq, Repr

def Engine.idle : Engine :=
  { list := [], read := 0, fetchAt := 0, fetchFlit := 0, useAt := 0, useFlit := 0, hanks := [], taken := [], indices := [],
    fetchIdx := [], useIdx := [], useDone := [], staging := [], runAhead := 0, received := [], reserved := 0, hankReserved := 0,
    placeWait := 0, hankWait := 0, pulled := 0, pulls := 0, late := [], counters := .zeroed }

/-- A flit on its way to a rim edge port: the rim, the port, the beat it enters the edge router and the flit (R306). -/
structure EdgeArrival where
  rim : Nat
  port : Nat
  beat : Nat
  flit : Flit
  deriving DecidableEq, Repr

/-- A flit at the router of another partition's die that it crosses: the logical position, the side it enters by, the beat of the
schedule in which it enters, its residue and the flit (R149, R184). -/
structure Crossing where
  col : Nat
  row : Nat
  side : Nat
  beat : Nat
  residue : Nat
  flit : Flit
  deriving DecidableEq, Repr

/-- The part of a rim that belongs to a context and is saved with it (R312, R277), with the ports that have moved a flit in
the schedule beat named (R306) and the stack units that write streams and scatters of the layer have written (R305). -/
structure RimContext where
  engines : SMap Engine
  frames : SMap Frame
  edgeDone : Nat × List (Nat × Bool)
  written : List Nat
  deriving DecidableEq, Repr

def RimContext.idle : RimContext := ⟨[], [], (0, []), []⟩

/-- Thermal step of a stack (R265). -/
inductive Thermal where
  | none | cap75 | cap50 | stopped
  deriving DecidableEq, Repr

/-- A rim die with its stack (R252–R310): `key` is the 512-bit key pair (R262), `stack` what the units written under it decrypt to,
`writes` the write queue, oldest first (R256); `below92` and `below97` count consecutive samples below a cap's threshold less 3 °C
(R265); `scrubbed` holds the units that scrub has read in the pass that began at `passStart`, and `scrubSlots` the time of each
pseudo-channel's last scrub (R271); `calibrating` is when a calibration began, `forced` when a forced one raised belay, `halted`
whether the rim issues nothing for one, and `windowSince` when the slack window now open opened (R273). -/
structure Rim where
  stack : Mem
  key : Option (BitVec 512)
  cache : List CacheLine
  ctx : RimContext
  corrected : SMap Nat
  corrections : List Correction
  uncorrectable : Option Correction
  temperature : Int
  thermal : Thermal
  below92 : Nat
  below97 : Nat
  outstanding : List Transaction
  writes : List QueuedWrite
  refreshOwed : SMap Nat
  scrubOwed : Bool
  scrubbed : List Nat
  passStart : Nat
  scrubSlots : SMap Nat
  lastScrub : Nat
  lastCalibration : Nat
  calibrating : Option Nat
  forced : Option Nat
  halted : Bool
  windowSince : Option Nat
  tokens : Nat
  deriving DecidableEq, Repr

/-- Full token bucket, in units of 1/700 token (R308; DESIGN CHOICE: full at reset, log entry 12). -/
def bucketDepth : Nat := 4096 * 700

/-- A rim die after cast-on, its stack in no partition. -/
def Rim.reset : Rim :=
  { stack := [], key := none, cache := [], ctx := .idle, corrected := [], corrections := [], uncorrectable := none,
    temperature := 0, thermal := .none, below92 := 0, below97 := 0, outstanding := [], writes := [], refreshOwed := [], scrubOwed := false,
    scrubbed := [], passStart := 0, scrubSlots := [], lastScrub := 0, lastCalibration := 0, calibrating := none, forced := none,
    halted := false, windowSince := none, tokens := bucketDepth }

/-! ### Unit addresses (R255) -/

/-- Where a unit of a stack lies (R252, R255). -/
structure UnitPlace where
  channel : Nat
  bank : Nat
  row : Nat
  column : Nat
  deriving DecidableEq, Repr

/-- Pseudo-channel of a unit. -/
def channelOf (u : Nat) : Nat := bits u 7 2

/-- Bank of a unit within its pseudo-channel. -/
def bankOf (u : Nat) : Nat := (bits u 12 8) ^^^ (bits u 19 15)

/-- Row of a unit. -/
def rowOf (u : Nat) : Nat := bits u 30 15

/-- Column of a unit within its row of 16 units: `COL_HI` above `COL_LO`. -/
def columnOf (u : Nat) : Nat := 4 * bits u 14 13 + bits u 1 0

/-- The place of a unit. -/
def placeOf (u : Nat) : UnitPlace := ⟨channelOf u, bankOf u, rowOf u, columnOf u⟩

/-- Two units lie in one bank. -/
def sameBank (u v : Nat) : Bool := (placeOf u).channel == (placeOf v).channel && (placeOf u).bank == (placeOf v).bank

/-! ### The controller (R256, R267) -/

/-- Commit a write to the stack. -/
def Rim.store (r : Rim) (u : Nat) (bs : List Byte) : Rim := { r with stack := Mem.record r.stack (64 * u) bs }

/-- Transactions that the controller holds for one bank. -/
def Rim.bankHolds (r : Rim) (u : Nat) : Nat :=
  (r.outstanding.filter (fun t => sameBank t.unit u)).length + (r.writes.filter (fun w => sameBank w.unit u)).length

/-- Transactions of one requester in flight (R288). -/
def Rim.inFlight (r : Rim) (req : Nat) : Nat :=
  (r.outstanding.filter (fun t => t.req == req)).length + (r.writes.filter (fun w => w.req == req)).length

/-- Most transactions that a requester may have in flight: 4,096 for a stream engine, 1,024 for a gather engine (R288). -/
def flightLimit (req : Nat) : Nat := if req < 4 then 4096 else if req < 8 then 1024 else 8192

/-- The controller accepts a transaction (R267): 8,192 in all, 64 for a bank, and the requester's own limit. -/
def Rim.accepts (r : Rim) (req u : Nat) : Bool :=
  decide (r.outstanding.length + r.writes.length < 8192) && decide (r.bankHolds u < 64) && decide (r.inFlight req < flightLimit req)

/-- A read of pseudo-channel `c` waits. -/
def Rim.readWaits (r : Rim) (c : Nat) : Bool := r.outstanding.any (fun t => channelOf t.unit == c)

/-- Write what waits for pseudo-channel `c` to the stack, oldest first. -/
def Rim.drainChannel (r : Rim) (c : Nat) : Rim :=
  let (go, stay) := r.writes.partition (fun w => channelOf w.unit == c)
  go.foldl (fun r w => r.store w.unit w.data) { r with writes := stay }

/-- Drain the channels in which 64 writes wait or no read waits (R256); a stack that calibrates moves nothing (R273). -/
def Rim.drain (r : Rim) : Rim :=
  if r.calibrating.isSome then r
  else (r.writes.map (fun w => channelOf w.unit)).dedup.foldl (fun t c =>
    if 64 ≤ (t.writes.filter (fun w => channelOf w.unit == c)).length ∨ ¬ t.readWaits c then t.drainChannel c else t) r

/-- Write everything that waits to the stack. -/
def Rim.drainAll (r : Rim) : Rim := r.writes.foldl (fun r w => r.store w.unit w.data) { r with writes := [] }

/-- A write goes to the controller; where its bank or the controller is full, the channel's writes make room first. -/
def Rim.sendWrite (r : Rim) (req u : Nat) (bs : List Byte) : Rim :=
  let r := if r.accepts 9 u then r else r.drainChannel (channelOf u)
  ({ r with writes := r.writes ++ [⟨u, req, bs⟩] } : Rim).drain

/-- A read of a unit that waits to be written drains its channel early (R256). -/
def Rim.drainFor (r : Rim) (u : Nat) : Rim :=
  if r.writes.any (fun w => w.unit == u) then r.drainChannel (channelOf u) else r

end Sys2Proof.Machine
end

