-- ==== Sys2Proof/Machine/State.lean ====
section
/-! DEFINITION. The state of the module, and the state after reset (INVENTORY.md '## State'). -/

namespace Sys2Proof.Machine

/-- The reasons a step could stop with a fault. None: a software fault or a hardware fault of the module is an effect on
its state (R373, R374), and no command stops the model. -/
inductive Fault where
  deriving DecidableEq, Repr

/-- The reasons a command could have no meaning. -/
inductive Refusal where
  /-- Raised only by an arm of Dispatch whose command has no meaning yet; none is left. Safe: the model stops. -/
  | notModelled (mnemonic : String)
  deriving DecidableEq, Repr

/-- Supply condition (R418, R419, R437, R440). -/
inductive Power where
  | removed | waiting | good | emergency | tripped | inputOut
  deriving DecidableEq, Repr

/-- The level of an output that is high-impedance when the module does not drive it (R497). -/
inductive Drive where
  | highZ | low | high
  deriving DecidableEq, Repr

/-- Stages of cast-on (R477). -/
inductive Stage where
  | reset | rom | link | background | ready | failed
  deriving DecidableEq, Repr

/-- `STATUS.CASTON` (R477). -/
def Stage.code : Stage → Nat
  | .reset => 0 | .rom => 1 | .link => 2 | .background => 3 | .ready => 4 | .failed => 15

/-- Who holds a belay wire raised (R202). -/
inductive Source where
  | detected (part die : Nat)
  | flitCheck (part node : Nat)
  | sync (part die flag : Nat)
  | staging (rim eng : Nat)
  | place (rim eng : Nat) (hank : Bool)
  | bindOff (rim : Nat)
  | calibration (rim : Nat)
  | restoreHold (part : Nat)
  | roundStart (part : Nat)
  | reEntry
  | teardown (part : Nat)
  deriving DecidableEq, Repr

/-- A belay wire (R194–R201): its sources, whether it was raised in each of the last 24 beats (bit 0 the newest) and
whether as re-entry, the time and beats it has been raised without a break, the re-entry beats left, and the sources that drop it from the next beat on. -/
structure Wires where
  sources : List Source
  hist : BitVec 24
  reHist : BitVec 24
  since : Option Nat
  beats : Nat
  reEntry : Nat
  leaving : List Source
  deriving DecidableEq, Repr

def Wires.dropped : Wires := ⟨[], 0, 0, none, 0, 0, []⟩

/-- Why a partition's round start is held (R200, R362, R387, R434, R322, R246). -/
inductive HoldReason where
  | credit | ringFull | switch | clock | tablePhase | resync
  deriving DecidableEq, Repr

/-- Where a partition is in its schedule (R165–R167). -/
inductive RunPhase where
  | idle | round | boundary
  deriving DecidableEq, Repr

/-- The run of a partition's context (R165–R169, R200): round-sequence entry and repeat, beat in the round, unfrozen beats
and unfrozen time since creation, round count, step beats, the entry a restart begins with, admission, hold reasons,
freeze, the counted estimates of rounds not yet reconciled, and by layer the step's unresolved and clamp counts at its start. -/
structure Run where
  phase : RunPhase
  entry : Nat
  rep : Nat
  beat : Nat
  clock : Nat
  elapsed : Nat
  rounds : Nat
  stepBeat : Nat
  restartAt : Option Nat
  admitted : Bool
  holds : List HoldReason
  frozen : Bool
  frozenBeats : Nat
  unreconciled : List Nat
  layerCounts : SMap (Nat × Nat)
  deriving DecidableEq, Repr

/-- A partition's run before its first round. -/
def Run.reset : Run :=
  { phase := .idle, entry := 0, rep := 0, beat := 0, clock := 0, elapsed := 0, rounds := 0, stepBeat := 0,
    restartAt := none, admitted := false, holds := [], frozen := false, frozenBeats := 0, unreconciled := [],
    layerCounts := [] }

/-- The response to detected errors (R137–R145, R244): this step's detections, each die's consecutive steps with one, the
dies that detected in this step, the sat-out set, the strands that wait for a resync, re-runs, whether a decision is due, the wire source that holds it, and
whether a marker region was hit. -/
structure Response where
  detections : Nat
  streak : SMap Nat
  detected : List Nat
  sitOut : List (Nat × Nat)
  resync : List Nat
  reruns : Nat
  due : Bool
  restoring : Bool
  marker : Bool
  deriving DecidableEq, Repr

def Response.none : Response := ⟨0, [], [], [], [], 0, false, false, false⟩

/-- A `RUN_STEPS` in progress (R405): its ring and entry, the steps it commands, those done, the completion entries that
its ring holds for it (R387), the frozen beats and energy of the current interval. -/
structure StepCommand where
  ring : Nat
  entry : CmdEntry
  total : Nat
  done : Nat
  entries : Nat
  belay : Nat
  energy : Nat
  deriving DecidableEq, Repr

/-- A sequence-table entry (R319). -/
structure SeqRec where
  state : Nat
  prio : Nat
  home : Nat
  stepTokens : Nat
  len : Nat
  admitNo : Nat
  park : Nat
  frames : List Nat
  held : Nat
  seqId : Nat
  hostSlot : Nat
  swapSeq : Nat
  limited : Bool
  deriving DecidableEq, Repr

/-- A frame copy between a stack and the swap window (R342–R344). -/
structure SwapCopy where
  toHost : Bool
  stack : Nat
  frame : Nat
  hostSlot : Nat
  number : Nat
  awaited : Bool
  since : Nat
  deriving DecidableEq, Repr

/-- A held `SEQ_ADMIT` or `SEQ_SWAP_WINDOW` (R406, R407). -/
structure HeldSeq where
  ring : Nat
  entry : CmdEntry
  isAdmit : Bool
  deriving DecidableEq, Repr

/-- The sequence table of a context (R317–R345): entries by slot, the two counters, the swap window (base, frames), copies in
progress, the work list's slots (none for padding), whether no phase has run, the step of the last phase begun, whether it
still waits, and the frames that it zero-fills (stack, frame). -/
structure SeqState where
  entries : SMap SeqRec
  admits : Nat
  parks : Nat
  window : Option (Nat × Nat)
  copies : List SwapCopy
  work : List (Option Nat)
  first : Bool
  phaseStep : Option Nat
  waiting : Bool
  fills : List (Nat × Nat)
  deriving DecidableEq, Repr

def SeqState.empty : SeqState := ⟨[], 0, 0, none, [], [], true, none, false, []⟩

/-- Where a context is held (R357, R361): a slot and span, or the context window (base of its extent and eviction number,
none for one that has never been resident); one that moves into a slot has its extent until it is there (R369). -/
inductive Place where
  | resident (slot : Nat)
  | out (extent : Option (Nat × Nat))
  | moving (slot : Nat) (extent : Option (Nat × Nat))
  deriving DecidableEq, Repr

/-- What a save slot holds of a context that is not running (R363): the slot it was saved in, dies and rims, where its run stands, its response to
detected errors, and the flits and packets on their way. -/
structure Saved where
  slot : Nat
  dies : SMap Die
  rims : List RimContext
  run : Run
  response : Response
  edge : List EdgeArrival
  crossing : List Crossing
  tether : List (Nat × Nat × Packet)
  clamps : Nat
  unresolved : Nat
  deriving DecidableEq, Repr

/-- A slot of zeros (R370). -/
def Saved.zeroed : Saved := ⟨0, [], [], .reset, .none, [], [], [], 0, 0⟩

/-- A checkpoint in progress (R457): its ring, entry and start. -/
structure CheckpointState where
  ring : Nat
  entry : CmdEntry
  since : Nat
  deriving DecidableEq, Repr

/-- A context (R357–R379). `counters` is its set of R379; `chunks` the (stack, chunk) pairs of its span it has written;
`outStacks` the data of those chunks by stack, at byte addresses of the span, while it is out, and `slotMark` the number of the first
free byte of its slot's cipher text in host memory (log entry 43). -/
structure Context where
  place : Place
  pattern : Option Pattern
  step : Nat
  steps : Option StepCommand
  saved : Option Saved
  seq : SeqState
  heldSeq : List HeldSeq
  restored : Option (BitVec 384 × Nat)
  checkpoint : Option CheckpointState
  blockedSince : Nat
  runnableSince : Nat
  counters : SMap Nat
  chunks : List (Nat × Nat)
  outStacks : List Mem
  slotMark : Nat
  deriving DecidableEq, Repr

/-- A context at its creation. -/
def Context.created (place : Place) (now : Nat) : Context :=
  { place, pattern := none, step := 0, steps := none, saved := none, seq := .empty, heldSeq := [], restored := none,
    checkpoint := none, blockedSince := now, runnableSince := now, counters := [], chunks := [], outStacks := [], slotMark := 0 }

/-- A partition (R348–R356), its run, its dies (by die index), and its contexts; `lastIn` is the context last switched in (R516); `tether` holds the packets on their way
(destination, beat of sending, packet), and `swapped` is the data of the frames that
stand encrypted in host memory, by swap number (R344); `hostServed` counts the 4 KiB units that the hub has served to it, into and out
of the module, for transfers that have not completed (R309); `switchCost` the saves and restores whose energy no reconciliation
has charged yet, with their contexts and nominal energies in µJ (R379), and `heldLeases` the leases of a partition in teardown (R376). -/
structure Partition where
  col0 : Nat
  row0 : Nat
  width : Nat
  height : Nat
  stackMask : Nat
  reserve : Nat
  split : Nat × Nat × Nat
  reductionWays : Nat
  sitOutMode : Bool
  slots : Nat
  hostShare : Nat
  quantum : Nat
  share : Nat
  running : Option Nat
  switchedIn : Nat
  lastIn : Option Nat
  run : Run
  response : Response
  dies : SMap Die
  edge : List EdgeArrival
  crossing : List Crossing
  tether : List (Nat × Nat × Packet)
  contexts : SMap Context
  credit : Int
  hot : Bool
  estSum : Nat
  measSum : Nat
  swapNumber : Nat
  swapped : SMap (List Byte)
  hostServed : Nat × Nat
  switchCost : List (Nat × Nat)
  heldLeases : List Lease
  evictionNumber : Nat
  swapKey : Option Nat
  windowKey : Option Nat
  window : Option (Nat × Nat)
  windowFullPosted : Bool
  evicting : Option (Nat × Nat)
  counters : SMap Nat
  clamps : Nat
  unresolved : Nat
  teardown : Bool
  destroyer : Option (Nat × CmdEntry)
  deriving DecidableEq, Repr

/-- States of a ring (R385, R514): `RING.STATE` of the admin ring. -/
inductive RingRun where
  | stopped | running | overrun | refused
  deriving DecidableEq, Repr

def RingRun.code : RingRun → Nat
  | .stopped => 0 | .running => 1 | .overrun => 2 | .refused => 3

/-- A command picked up and not yet started, with its opcode, its place in the ring's order (R387, R393), and whether the step that it
names had begun its table phase when it was picked up (R320, R406). -/
structure Picked where
  opcode : Nat
  entry : CmdEntry
  order : Nat
  late : Bool
  deriving DecidableEq, Repr

/-- What a command in progress waits for (R393, R403, R405, R406, R409, R457). -/
inductive Progress where
  | transfer (status : Status) (detail : Nat) (result : List W32)
  | steps
  | sequence
  | checkpoint
  | destroy
  | held
  deriving DecidableEq, Repr

/-- A command that has started and not completed. -/
structure Active where
  opcode : Nat
  entry : CmdEntry
  order : Nat
  progress : Progress
  deriving DecidableEq, Repr

/-- An event for a ring (R388): status, `DETAIL` and result words. -/
structure RingEvent where
  status : Status
  detail : Nat
  result : List W32
  deriving DecidableEq, Repr

/-- A completion that waits because the host's `CPL_CONS` leaves no entry (R387). -/
structure Unposted where
  opcode : Nat
  entry : CmdEntry
  status : Status
  detail : Nat
  result : List W32
  deriving DecidableEq, Repr

/-- A ring (R381–R388); `seen` counts the commands picked up since its first start. -/
structure Ring where
  state : RingRun
  ctrl : Nat
  cmd : Nat
  cpl : Nat
  sizeLog2 : Nat
  cmdCons : W32
  cmdProd : W32
  cplProd : W32
  cplCons : W32
  seen : Nat
  reserved : Nat
  picked : List Picked
  active : List Active
  unposted : List Unposted
  events : List RingEvent
  lost : Nat
  deriving DecidableEq, Repr

/-- A ring that has not been started. -/
def Ring.idle : Ring :=
  { state := .stopped, ctrl := 0, cmd := 0, cpl := 0, sizeLog2 := 0, cmdCons := 0, cmdProd := 0, cplProd := 0,
    cplCons := 0, seen := 0, reserved := 0, picked := [], active := [], unposted := [], events := [], lost := 0 }

/-- One MSI-X vector (R416): table entry, pending bit, hold-off and whether a completion waits in it. -/
structure Vectors where
  address : W64
  data : W32
  masked : Bool
  pending : Bool
  holdOff : Option Nat
  covered : Bool
  deriving DecidableEq, Repr

/-- A vector after reset, masked (PRESUMED: PCI Express; log entry 10). -/
def Vectors.reset : Vectors := ⟨0, 0, true, false, none, false⟩

/-- The fields of a firmware image that decide which firmware runs (R482), with its bytes. -/
structure FirmwareSlot where
  image : List Byte
  deriving DecidableEq, Repr

/-- A session (R488, R491). -/
structure Session where
  key : List Byte
  nonce : List Byte
  seqMax : Option Nat
  deriving DecidableEq, Repr

/-- The IDE stream (R490–R492): receive key sets, transmit set and whether the old receive set is still accepted. -/
structure Ide where
  secure : Bool
  keys : SMap (List Byte)
  current : Option Nat
  transmit : Option Nat
  old : Option Nat
  installed : Nat
  deriving DecidableEq, Repr

def Ide.unused : Ide := ⟨false, [], none, none, none, 0⟩

/-- The non-volatile spare record (R449, R455): retired skeins by group, lost rims, and the last fault. -/
structure Spares where
  retired : SMap (BitVec 18)
  rimLost : BitVec 16
  remaps : Nat
  lastFault : Nat
  lastNode : Nat
  powered : Nat
  faultAt : SMap Nat
  deriving DecidableEq, Repr

def Spares.fresh : Spares := ⟨[], 0, 0, 0, 0, 0, []⟩

/-- The state of the module. Times are in units of 1/7 ns since power-good; `hubIn` and `hubOut` are the partition whose turn it is in
each direction of the host link and the 4 KiB units left of the turn (R309); `clockFrom` is since when every partition lets the clock
change (R434); `plim` is the limit that the terms give (R421), and `beatLimit` the one that accrual takes in the beat under way
(R426). -/
structure State where
  part : Part
  time : Nat
  beat : Nat
  transitBeat : Nat
  clockLow : Bool
  clockPending : Bool
  clockFrom : Option Nat
  belowSince : Option Nat
  aboveSince : Option Nat
  power : Power
  converters : BitVec 16
  perst : Bool
  throt : Bool
  throtAt : Nat
  emerg : Bool
  pwrgd : Drive
  alertN : Drive
  thermtripN : Drive
  envelope : Nat
  storedEnvelope : Option Nat
  plim : Nat
  beatLimit : Nat
  cause : BitVec 5
  overhead : Nat
  pinW : Nat
  vin : Nat
  coolantIn : Int
  coolantOut : Int
  junctions : SMap Int
  inputGuard : Bool
  stage : Stage
  fallback : Bool
  firmware : SMap FirmwareSlot
  activeSlot : Nat
  runningImage : List Byte
  keyRevoked : Bool × Bool
  minSvn : Nat
  bootCount : Nat
  serial : W64
  meshW : Nat
  meshH : Nat
  row0 : Nat
  meshValid : Bool
  linkUp : Bool
  linkRate : Nat
  linkNarrow : Bool
  linkFailures : SMap (List Nat)
  hwFault : Nat
  hwNode : Nat
  features : BitVec 256
  rings : SMap Ring
  vectors : SMap Vectors
  messages : List Nat
  snapSeq : W32
  snap : Mem
  hostMem : Mem
  session : Option Session
  ide : Ide
  debugOpen : Bool
  debugWait : Option (Nat × CmdEntry)
  keyNumber : Nat
  spares : Spares
  diag : Bool
  diagSources : List (Status × Nat × Nat)
  heartbeats : SMap Nat
  wires : SMap Wires
  partitions : SMap Partition
  rims : SMap Rim
  hubIn : Nat × Nat
  hubOut : Nat × Nat
  i3cReady : Bool
  i3cAddress : Option (BitVec 7)
  i3cOffset : BitVec 7
  i3cAnswer : List Byte
  i3cAck : Bool
  fresh : Nat
  pending : List Instr
  deriving DecidableEq, Repr

/-- The module right after 56 V is applied, before power-good: PERST_N asserted, stage 0, nothing loaded, every output that
it does not drive high-impedance (R477, R497, R499). The part is a GQ4-256 with all converters fitted and nothing stored
(log entries 7, 8, 9). -/
def State.reset : State :=
  { part := .gq4_256, time := 0, beat := 0, transitBeat := 0, clockLow := false, clockPending := false, clockFrom := none,
    belowSince := none, aboveSince := none, power := .waiting, converters := 0xFFFF, perst := true,
    throt := false, throtAt := 0, emerg := false, pwrgd := .highZ, alertN := .highZ, thermtripN := .highZ,
    envelope := 8000, storedEnvelope := none, plim := 8000, beatLimit := 8000, cause := 0, overhead := 0, pinW := 0, vin := 0,
    coolantIn := 0, coolantOut := 0, junctions := [], inputGuard := false,
    stage := .reset, fallback := false, firmware := [(0, ⟨Config.factoryImage⟩)], activeSlot := 0, runningImage := [],
    keyRevoked := (false, false), minSvn := 0, bootCount := 0, serial := 0, meshW := 0, meshH := 0, row0 := 0,
    meshValid := false, linkUp := false, linkRate := 0, linkNarrow := false, linkFailures := [], hwFault := 0,
    hwNode := 0, features := 0, rings := [], vectors := [], messages := [], snapSeq := 0, snap := [], hostMem := [],
    session := none, ide := .unused, debugOpen := false, debugWait := none, keyNumber := 0, spares := .fresh,
    diag := false, diagSources := [], heartbeats := [], wires := [], partitions := [], rims := [], hubIn := (0, 0), hubOut := (0, 0), i3cReady := false,
    i3cAddress := none, i3cOffset := 0, i3cAnswer := [], i3cAck := false, fresh := 0, pending := [] }

end Sys2Proof.Machine
end

