-- ==== Sys2Proof/Machine/Ops.lean ====
section
/-! DEFINITION. The shared operations over the state: access to partitions, dies, rims and wires, remote writes under
credit, completions and events, detected errors, and software and hardware faults. -/

namespace Sys2Proof.Machine

/-- What a command answers. -/
abbrev Out := Host.Outcome State Fault Refusal

/-! ### Time -/

/-- 1 µs in the model's time unit of 1/7 ns. -/
def usec : Nat := 7000

/-- 1 ms. -/
def msec : Nat := 7000000

/-- 1 s. -/
def second : Nat := 7000000000

/-- The duration of a beat at the clock point in force (R8, R433): 5/7 ns or 1 ns. -/
def State.beatTime (s : State) : Nat := if s.clockLow then 7 else 5

/-- Microseconds since power-good. -/
def State.timeUs (s : State) : Nat := s.time / usec

/-! ### Access -/

def State.partition? (s : State) (p : Nat) : Option Partition := Sparse.get? s.partitions p

def State.setPartition (s : State) (p : Nat) (x : Partition) : State :=
  { s with partitions := Sparse.set s.partitions p x }

def State.rim (s : State) (k : Nat) : Rim := Sparse.getD Rim.reset s.rims k

def State.setRim (s : State) (k : Nat) (r : Rim) : State := { s with rims := Sparse.set s.rims k r }

def State.ring (s : State) (r : Nat) : Ring := Sparse.getD Ring.idle s.rings r

def State.setRing (s : State) (r : Nat) (x : Ring) : State := { s with rings := Sparse.set s.rings r x }

def State.wire (s : State) (w : Nat) : Wires := Sparse.getD Wires.dropped s.wires w

def State.setWire (s : State) (w : Nat) (x : Wires) : State := { s with wires := Sparse.set s.wires w x }

def State.vector (s : State) (v : Nat) : Vectors := Sparse.getD Vectors.reset s.vectors v

def State.setVector (s : State) (v : Nat) (x : Vectors) : State := { s with vectors := Sparse.set s.vectors v x }

/-- Take `n` free bytes: values that nothing constrains (log entry 4). -/
def State.freeBytes (s : State) (n : Nat) : List Byte × State :=
  ((List.range n).map (fun i => Config.freeByte (s.fresh + i)), { s with fresh := s.fresh + n })

/-- Take `n` bytes of the hub's entropy source (R262, R488). -/
def State.entropyBytes (s : State) (n : Nat) : List Byte × State :=
  ((List.range n).map (fun i => Config.entropy (s.fresh + i)), { s with fresh := s.fresh + n })

def Partition.die (x : Partition) (d : Nat) : Die := Sparse.getD Die.zeroed x.dies d

def Partition.setDie (x : Partition) (d : Nat) (v : Die) : Partition := { x with dies := Sparse.set x.dies d v }

def Partition.context? (x : Partition) (c : Nat) : Option Context := Sparse.get? x.contexts c

def Partition.setContext (x : Partition) (c : Nat) (v : Context) : Partition :=
  { x with contexts := Sparse.set x.contexts c v }

/-- Dies of the partition (R348). -/
def Partition.size (x : Partition) : Nat := x.width * x.height

/-- The running context, with its number (R357). -/
def Partition.running? (x : Partition) : Option (Nat × Context) :=
  match x.running with
  | none => none
  | some c => (x.context? c).map (fun v => (c, v))

/-- The pattern of the running context. -/
def Partition.pattern? (x : Partition) : Option Pattern :=
  match x.running? with
  | some (_, c) => c.pattern
  | none => none

/-- Logical column and row of die `d` (R349). -/
def Partition.position (x : Partition) (d : Nat) : Nat × Nat := (x.col0 + d % x.width, x.row0 + d / x.width)

/-- The die index of a logical position, when the partition holds it (R349). -/
def Partition.dieAt (x : Partition) (c r : Nat) : Option Nat :=
  if x.col0 ≤ c ∧ c < x.col0 + x.width ∧ x.row0 ≤ r ∧ r < x.row0 + x.height then
    some ((r - x.row0) * x.width + (c - x.col0))
  else none

/-- The rims that the partition owns, stack index ascending (R352). -/
def Partition.stackRims (x : Partition) : List Nat := (List.range 16).filter (fun k => bit x.stackMask k)

/-- The stack index of rim `k` in the partition. -/
def Partition.stackIndex (x : Partition) (k : Nat) : Option Nat := x.stackRims.findIdx? (fun j => j == k)

/-- The partition whose stack rim `k` holds (R352). -/
def State.rimOwner (s : State) (k : Nat) : Option (Nat × Partition) :=
  s.partitions.find? (fun e => bit e.2.stackMask k)

/-- The partition that holds logical position (c, r). -/
def State.ownerAt (s : State) (c r : Nat) : Option (Nat × Partition) :=
  s.partitions.find? (fun e => (e.2.dieAt c r).isSome)

def Die.mtile (d : Die) (t : Nat) : MTile := Sparse.getD MTile.zeroed d.m t

def Die.setMtile (d : Die) (t : Nat) (x : MTile) : Die := { d with m := Sparse.set d.m t x }

def Die.vtile (d : Die) (t : Nat) : VTile := Sparse.getD VTile.zeroed d.v t

def Die.setVtile (d : Die) (t : Nat) (x : VTile) : Die := { d with v := Sparse.set d.v t x }

def Die.core (d : Die) (c : Nat) : Core := Sparse.getD Core.zeroed d.c c

def Die.setCore (d : Die) (c : Nat) (x : Core) : Die := { d with c := Sparse.set d.c c x }

def VTile.reg (t : VTile) (r : Nat) : List W32 := Sparse.getD zeroLanes t.regs r

def VTile.setReg (t : VTile) (r : Nat) (v : List W32) : VTile := { t with regs := Sparse.set t.regs r v }

/-- x0 reads as zero (R106). -/
def Core.reg (c : Core) (r : Nat) : W64 := if r = 0 then 0 else Sparse.getD 0 c.x r

/-- x0 ignores writes (R106). -/
def Core.setReg (c : Core) (r : Nat) (v : W64) : Core := if r = 0 then c else { c with x := Sparse.setD 0 c.x r v }

/-- The SRAM that code `mem` names: M-tile 0–7, V-tile 8–19, die buffer 20, C-tile 21–24 (R209). -/
def Die.memory (d : Die) (mem : Nat) : Mem :=
  if mem ≤ 7 then (d.mtile mem).sram
  else if mem ≤ 19 then (d.vtile (mem - 8)).sram
  else if mem = 20 then d.buffer
  else Sparse.getD [] d.csram (mem - 21)

def Die.setMemory (d : Die) (mem : Nat) (x : Mem) : Die :=
  if mem ≤ 7 then d.setMtile mem { d.mtile mem with sram := x }
  else if mem ≤ 19 then d.setVtile (mem - 8) { d.vtile (mem - 8) with sram := x }
  else if mem = 20 then { d with buffer := x }
  else { d with csram := Sparse.setD [] d.csram (mem - 21) x }

/-- Write bytes into a scratchpad; every word written gets its parity with it (R135). -/
def Die.writeMem (d : Die) (mem addr : Nat) (bs : List Byte) : Die :=
  let d := d.setMemory mem (Mem.writeBytes (d.memory mem) addr bs)
  { d with parityBad := d.parityBad.filter (fun e =>
      !(e.1 == mem && decide (addr ≤ 8 * e.2) && decide (8 * e.2 + 8 ≤ addr + bs.length))) }

/-- The first word with bad parity among `n` bytes from `addr` of an SRAM (R135). -/
def Die.parityAt (d : Die) (mem addr n : Nat) : Option (Nat × Nat) :=
  d.parityBad.find? (fun e => e.1 == mem && decide (8 * e.2 < addr + n) && decide (addr < 8 * e.2 + 8))

/-- Accumulator words of M-tile `t` that have been written get their parity with them (R135). -/
def Die.accWritten (d : Die) (t : Nat) (p : Nat → Bool) : Die :=
  { d with parityBad := d.parityBad.filter (fun e => !(e.1 == 32 + t && p e.2)) }

/-- The first accumulator word with bad parity, of those of M-tile `t` that are read (R135). -/
def Die.accBad (d : Die) (t : Nat) (p : Nat → Bool) : Option (Nat × Nat) :=
  d.parityBad.find? (fun e => e.1 == 32 + t && p e.2)

/-- Store `a` takes effect before store `b`: it issued in an earlier cycle, or in the same cycle by a core of lower number
(R109). -/
def CoreStore.before (a b : CoreStore) : Bool := a.beat < b.beat || (a.beat == b.beat && a.core ≤ b.core)

/-- Queue a store in the order in which the stores take effect. -/
def Die.addStore (d : Die) (x : CoreStore) : Die :=
  { d with stores := d.stores.takeWhile (fun y => y.before x) ++ [x] ++ d.stores.dropWhile (fun y => y.before x) }

/-- Write the stores that `due` holds of, in order. -/
def Die.landStores (d : Die) (due : CoreStore → Bool) : Die :=
  { (d.stores.filter due).foldl (fun d x => d.writeMem (21 + x.ctile) x.addr x.data) d with
    stores := d.stores.filter (fun x => !due x) }

/-- The stores that become visible in beat `now`: the fourth cycle after their issue (R109). -/
def Die.visibleStores (d : Die) (now : Nat) : Die :=
  if d.stores.isEmpty then d else d.landStores (fun x => decide (x.beat + 4 ≤ now))

/-- The count of an event (R524). -/
def Die.eventCount (d : Die) (e : Nat) : Nat := Sparse.getD 0 d.events e

def Die.setEvent (d : Die) (e n : Nat) : Die := { d with events := Sparse.setD 0 d.events e n }

/-! ### Remote writes under credit (R130–R134) -/

/-- The first valid entry whose source matches and whose window holds every unit of the write (R131). -/
def Die.governing (d : Die) (srcKind srcId mem unit units : Nat) : Option (Nat × Credit) :=
  (d.credits.filter (fun e => e.1 / 64 == mem)).find? (fun e =>
    e.2.valid && e.2.srcKind == srcKind && e.2.srcId == srcId && decide (e.2.base ≤ unit)
      && decide (unit + units ≤ e.2.limit + 1))

/-- What becomes of a remote write (R131, R134). -/
inductive Remote where
  | accepted (d : Die)
  | held
  | violation
  deriving DecidableEq, Repr

/-- Check one remote write as a whole and perform it when it is accepted (R131). -/
def Die.remoteWrite (d : Die) (srcKind srcId mem addr : Nat) (bs : List Byte) : Remote :=
  let unit := addr / 64
  let units := (addr + bs.length - 1) / 64 + 1 - unit
  match d.governing srcKind srcId mem unit units with
  | none => .violation
  | some (key, c) =>
    if c.sched then .accepted (d.writeMem mem addr bs)
    else if units ≤ c.credits then
      let d := { d with credits := Sparse.set d.credits key { c with credits := c.credits - units } }
      .accepted (d.writeMem mem addr bs)
    else .held

/-- Two held writes have one writer. -/
def HeldWrite.sameWriter (a b : HeldWrite) : Bool := a.srcKind == b.srcKind && a.srcId == b.srcId && a.tag == b.tag

/-- Try the held writes again, in order; a writer's later writes stay behind its first that is still held (R131). -/
def Die.retryHeld (d : Die) : Die :=
  let r := d.held.foldl (fun (acc : Die × List HeldWrite) h =>
    if acc.2.any (fun o => o.sameWriter h) then (acc.1, acc.2 ++ [h])
    else match acc.1.remoteWrite h.srcKind h.srcId h.mem h.addr h.data with
      | .accepted d' => (d', acc.2)
      | _ => (acc.1, acc.2 ++ [h])) (d, [])
  { r.1 with held := r.2 }

/-- Signal an event: its count rises, saturating, and the counted entries it refills take `REFILL` (R524, R132). -/
def Die.signal (d : Die) (e : Nat) : Die :=
  let d := d.setEvent e (min 65535 (d.eventCount e + 1))
  let credits := d.credits.map (fun (c : Nat × Credit) =>
    if c.2.valid ∧ ¬ c.2.sched ∧ c.2.evt = e then (c.1, { c.2 with credits := c.2.refill }) else c)
  Die.retryHeld { d with credits }

/-- True when no write of a writer is held. -/
def Die.noneHeld (d : Die) (srcKind srcId : Nat) : Bool :=
  d.held.all (fun h => !(h.srcKind == srcKind && h.srcId == srcId))

/-- Issue one remote write: accepted, or held behind the writer's earlier ones; none on a credit violation. -/
def Die.issueWrite (d : Die) (srcKind srcId tag mem addr : Nat) (bs : List Byte) (now : Nat) : Option Die :=
  let h : HeldWrite := ⟨srcKind, srcId, tag, mem, addr, bs, now⟩
  match d.remoteWrite srcKind srcId mem addr bs with
  | .violation => none
  | .held => some { d with held := d.held ++ [h] }
  | .accepted d' => if d.held.any (fun o => o.sameWriter h) then some { d with held := d.held ++ [h] } else some d'

/-- Issue a list of remote writes in order. -/
def Die.issueWrites (d : Die) (srcKind srcId tag mem : Nat) (ws : List (Nat × List Byte)) (now : Nat) : Option Die :=
  ws.foldl (fun acc w => acc.bind (fun x => x.issueWrite srcKind srcId tag mem w.1 w.2 now)) (some d)

/-! ### Programs -/

/-- Move a program past a word of `size` bytes, closing or repeating its loop (R59, R91). -/
def Prog.advance (p : Prog) (size : Nat) : Prog :=
  let next := p.pc + size
  match p.loop with
  | none => { p with pc := next }
  | some l =>
    if next = l.stop then
      if l.iter + 1 < l.count then { p with pc := l.first, loop := some { l with iter := l.iter + 1 } }
      else { p with pc := next, loop := none }
    else { p with pc := next }

/-- Pushes of a queue still in the crossing or beyond the queue's eight places (R161). -/
def Die.pushBacklog (d : Die) (q : Nat) : Nat :=
  ((Sparse.getD [] d.queues q).length) + (d.pushes.filter (fun x => x.queue == q)).length

/-- The accumulator tile of a queued entry (R71, R72). -/
def AccEntry.tile (e : AccEntry) : Nat :=
  match e.op with
  | .drn acc _ _ _ _ _ => acc
  | .acz acc => acc
  | .acl acc _ _ => acc
  | _ => 0

/-- A queued entry of M-tile `t` has not finished: a started drain ends when its last row has been accepted or has entered its
push queue (R72, R77). -/
def Die.entryLive (d : Die) (t : Nat) (e : AccEntry) : Bool :=
  !e.started || d.held.any (fun h => h.srcKind == 1 && h.srcId == t && h.tag == e.tile / 8)
    || d.pushes.any (fun x => x.queue == t && x.bank == e.tile / 8)
    || (match e.op with | .drn _ _ _ 2 _ _ => decide (8 < (Sparse.getD [] d.queues t).length) | _ => false)

/-- Queued entries of an M-tile that have not finished. -/
def Die.entries (d : Die) (t : Nat) : List AccEntry := (d.mtile t).queue.filter (d.entryLive t)

/-- The accumulator side's work that has not finished, in program order (R72). -/
def Die.liveWork (d : Die) (t : Nat) : List BankWork :=
  (d.mtile t).work.filter (fun w => match w with | .entry e => d.entryLive t e | .spill _ => true)

/-- The banks whose port a piece of work takes (R71, R72, R522). -/
def BankWork.banks : BankWork → List Nat
  | .entry e => [e.tile / 8]
  | .spill h => [h.left / 8, h.right / 8]

/-- The M-tile has reached `END` (R54), or runs nothing. -/
def Die.mDone (d : Die) (t : Nat) : Bool :=
  let x := d.mtile t
  !x.prog.running ||
    (x.prog.ended && x.flights.isEmpty && x.hold.isNone && (d.liveWork t).isEmpty)

/-- The V-tile has reached `END` (R88), or runs nothing. -/
def Die.vDone (d : Die) (v : Nat) : Bool :=
  let t := d.vtile v
  !t.prog.running || (t.prog.ended && d.noneHeld 2 v && d.pushes.all (fun x => x.queue != 8 + v))

/-- The core has reached `END` (R88), or runs nothing. -/
def Die.cDone (d : Die) (c : Nat) : Bool := !(d.core c).running && d.noneHeld 3 c

/-! ### Belay wires (R194–R201) -/

def Wires.raised (w : Wires) : Bool := !w.sources.isEmpty

/-- Raised in the beat 24 beats ago (R194). -/
def Wires.freezes (w : Wires) : Bool := w.hist.getLsbD 23

/-- The hold domain of partition `p` is frozen in this beat (R194). -/
def State.frozen (s : State) (p : Nat) : Bool := (s.wire p).freezes || (s.wire 16).freezes

/-- The loaded patterns of a partition's contexts: their leases are held, whether the context runs or not (R365). -/
def Partition.patterns (x : Partition) : List Pattern := x.contexts.filterMap (fun e => e.2.pattern)

/-- Every lease in force, with its lessee (R184). -/
def State.leases (s : State) : List (Nat × Lease) :=
  s.partitions.flatMap (fun e =>
    e.2.heldLeases.map (fun l => (e.1, l)) ++ e.2.patterns.flatMap (fun q => q.leases.map (fun l => (e.1, l))))

/-- Partition `p` is in the transit group: a lessee, or an owner of links that a lessee crosses (R184); a partition in teardown has left
it (R375). -/
def State.inTransitGroup (s : State) (p : Nat) : Bool :=
  !(s.partition? p).any (fun x => x.teardown) && s.leases.any (fun e =>
    !(s.partition? e.1).any (fun x => x.teardown) && (e.1 == p ||
      (match s.ownerAt e.2.col e.2.row with | some (q, _) => q == p | none => false)))

/-- The wire on which belay is raised on behalf of partition `p` (R199). -/
def State.wireOf (s : State) (p : Nat) : Nat := if s.inTransitGroup p then 16 else p

/-- A round-start hold, which the bound of R201 leaves out. -/
def Source.isRoundStart : Source → Bool
  | .roundStart _ => true
  | _ => false

/-- Raise a wire for a source (R194, R197); `since` is the time of the first raise that counts for R201. -/
def State.raise (s : State) (w : Nat) (src : Source) : State :=
  let x := s.wire w
  if x.sources.contains src then s.setWire w { x with leaving := x.leaving.filter (fun y => y != src) }
  else s.setWire w { x with
    sources := (x.sources.filter (fun y => y != .reEntry)) ++ [src],
    since := if src.isRoundStart then x.since else some (x.since.getD s.time), reEntry := 0 }

/-- A wire that a source has dropped. The last to drop a wire raised for more than 63 beats leaves it to the hub's re-entry
(R196). How long it has been raised stands until a beat passes in which it is not (`Wires.tick`), so a source that raises it in
the same or the next beat continues the raise (R197). -/
def Wires.without (x : Wires) (src : Source) : Wires :=
  if x.sources.contains src then
    let left := x.sources.filter (fun y => y != src)
    let x := { x with leaving := x.leaving.filter (fun y => y != src) }
    if left.isEmpty ∧ 63 < x.beats then { x with sources := [.reEntry], reEntry := 0 } else { x with sources := left }
  else x

/-- Drop a source of a wire in this beat. -/
def State.drop (s : State) (w : Nat) (src : Source) : State :=
  if (s.wire w).sources.contains src then s.setWire w ((s.wire w).without src) else s

/-- Drop a source of a partition's wire, or of the transit wire, from the beat after this one. -/
def State.dropLater (s : State) (p : Nat) (src : Source) : State :=
  let go (s : State) (w : Nat) : State :=
    let x := s.wire w
    if x.sources.contains src ∧ ¬ x.leaving.contains src then s.setWire w { x with leaving := x.leaving ++ [src] } else s
  go (go s p) 16

/-- Drop a source from the partition's wire and from the transit wire. -/
def State.dropBoth (s : State) (p : Nat) (src : Source) : State := (s.drop p src).drop 16 src

/-- True when a source is on partition `p`'s wire or on the transit wire. -/
def State.holdsWire (s : State) (p : Nat) (src : Source) : Bool :=
  (s.wire p).sources.contains src || (s.wire 16).sources.contains src

/-- The source belongs to partition `p`; rims by the partition's stacks. -/
def Source.ofPartition (x : Partition) (p : Nat) : Source → Bool
  | .detected q _ | .flitCheck q _ | .sync q _ _ | .restoreHold q | .roundStart q => q == p
  | .staging k _ | .place k _ _ | .bindOff k | .calibration k => bit x.stackMask k
  | .reEntry | .teardown _ => false

/-- Drop every source of a partition, its teardown excepted. -/
def State.dropAll (s : State) (p : Nat) (x : Partition) : State :=
  let go (s : State) (w : Nat) : State :=
    ((s.wire w).sources.filter (Source.ofPartition x p)).foldl (fun a src => a.drop w src) s
  go (go s p) 16

/-- Begin or lengthen a round-start hold for a reason (R200). -/
def State.holdRound (s : State) (p : Nat) (r : HoldReason) : State :=
  match s.partition? p with
  | none => s
  | some x =>
    let holds := if x.run.holds.contains r then x.run.holds else x.run.holds ++ [r]
    (s.setPartition p { x with run := { x.run with holds } }).raise p (.roundStart p)

/-- End one reason of a round-start hold; the hub drops the wire when none is left (R200, R427). -/
def State.releaseRound (s : State) (p : Nat) (r : HoldReason) : State :=
  match s.partition? p with
  | none => s
  | some x =>
    let holds := x.run.holds.filter (fun y => y != r)
    let s := s.setPartition p { x with run := { x.run with holds } }
    if holds.isEmpty then s.drop p (.roundStart p) else s

/-! ### Accounting (R379) -/

def addCounter (m : SMap Nat) (i n : Nat) : SMap Nat := Sparse.setD 0 m i ((Sparse.getD 0 m i + n) % 2 ^ 64)

/-- Add to a counter of the partition and of one of its contexts. -/
def Partition.count (x : Partition) (c : Nat) (i n : Nat) : Partition :=
  let x := { x with counters := addCounter x.counters i n }
  match x.context? c with
  | none => x
  | some v => x.setContext c { v with counters := addCounter v.counters i n }

/-- Add to a counter of the partition alone. -/
def Partition.countOwn (x : Partition) (i n : Nat) : Partition := { x with counters := addCounter x.counters i n }

/-- Counter indices (R379). -/
def jobsStarted : Nat := 0
def jobsCompleted : Nat := 1
def jobsKilled : Nat := 2
def jobsLost : Nat := 3
def energyUj : Nat := 4
def activeBeats : Nat := 5
def belayBeats : Nat := 6
def stackReadBytes : Nat := 7
def stackWriteBytes : Nat := 8
def hostBytes : Nat := 9
def contextSwitches : Nat := 10

/-- A counter record (R402): the context number or 0xFFFF, and counters 0–10. -/
def counterRecord (who : Nat) (m : SMap Nat) : List Byte :=
  leBytes 2 who ++ leBytes 6 0 ++ (List.range 11).flatMap (fun i => leBytes 8 (Sparse.getD 0 m i))

/-! ### Host memory, completions, events and interrupts -/

/-- A byte of host memory as the module sees it (log entry 3). -/
def State.hostByte (s : State) (a : Nat) : Byte := (Sparse.get? s.hostMem a).getD (Config.hostByte a)

def State.hostBytes (s : State) (a n : Nat) : List Byte := (List.range n).map (fun i => s.hostByte (a + i))

def State.hostWrite (s : State) (a : Nat) (bs : List Byte) : State := { s with hostMem := Mem.record s.hostMem a bs }

/-- `PARAM` word `i` of an entry. -/
def paramAt (e : CmdEntry) (i : Nat) : Nat := (e.param.getD i 0).toNat

/-- `PARAM` words `i` and `i` + 1 as one number. -/
def paramPair (e : CmdEntry) (i : Nat) : Nat := paramAt e i + 2 ^ 32 * paramAt e (i + 1)

/-- AES-256-GCM opening of what the hub sealed (R344, R368): the cipher text and tag that sealing `plain` gives open to it; any other
opens as the cipher says, or fails. -/
def openSealed (key nonce aad plain cipher tag : List Byte) : Option (List Byte) :=
  if cipher ++ tag = Config.gcmSeal key nonce aad plain then some plain else Config.gcmOpen key nonce aad cipher tag

/-- The number of a ring in the state: 0 the admin ring, p + 1 the ring of partition p. -/
def ringNumber : RingId → Nat
  | .admin => 0
  | .part p => p.val + 1

/-- Entries of a ring (R381). -/
def Ring.size (r : Ring) : Nat := 2 ^ r.sizeLog2

/-- Free completion entries that are not reserved (R387). -/
def Ring.free (r : Ring) : Nat :=
  let used := (r.cplProd - r.cplCons).toNat
  if r.size < used then 0 else r.size - used - r.reserved

/-- Send a vector's message, or note it while its hold-off runs; a masked vector sets its pending bit (R416). -/
def State.interrupt (s : State) (v : Nat) : State :=
  let x := s.vector v
  if s.features.getLsbD 14 ∧ x.holdOff.isSome then s.setVector v { x with covered := true }
  else
    if x.masked then s.setVector v { x with pending := true, covered := false }
    else
      let hold := if s.features.getLsbD 14 then some s.time else none
      { s.setVector v { x with holdOff := hold, covered := false } with messages := s.messages ++ [v] }

/-- Number of the feature `IDE` (R399). -/
def featIde : Nat := 12

/-- `IDE` is accepted and the stream is insecure (R492). -/
def State.insecure (s : State) : Bool := s.features.getLsbD featIde && !s.ide.secure

/-- The commands that the module serves while the stream is insecure (R492). -/
def servedInsecure (opcode : Nat) : Bool := [0x0001, 0x0018, 0x0020, 0x0021, 0x0022].contains opcode

/-- A host access for command `opcode` waits: the stream is insecure (R492); the `NEGOTIATE` that accepts `IDE` is answered in the
beat in which it does (R513; log entry 123). -/
def State.mutes (s : State) (opcode : Nat) : Bool := s.insecure && !servedInsecure opcode && opcode != 0x0002

/-- The 64 bytes of a completion entry (R390). -/
def completionBytes (opcode tag part ctx phase : Nat) (st : Status) (detail : Nat) (result : List W32) : List Byte :=
  leBytes 2 opcode ++ leBytes 2 tag ++ leBytes 4 (part + ctx * 256 + phase * 2 ^ 31) ++ leBytes 2 st.code
    ++ leBytes 2 detail ++ leBytes 4 0 ++ (List.range 12).flatMap (fun i => leBytes 4 (result.getD i 0).toNat)

/-- Write the entry at `CPL_PROD` and then `CPL_PROD` itself (R386). -/
def State.postEntry (s : State) (k : Nat) (opcode tag part ctx : Nat) (st : Status) (detail : Nat)
    (result : List W32) : State :=
  let r := s.ring k
  let i := r.cplProd.toNat
  let phase := (i / r.size + 1) % 2
  let s := s.hostWrite (r.cpl + 64 * (i % r.size)) (completionBytes opcode tag part ctx phase st detail result)
  let next := r.cplProd + 1
  let s := s.hostWrite (r.ctrl + 72) (leBytes 4 next.toNat)
  s.setRing k { r with cplProd := next }

/-- Post the queued events while entries are free, then the count of dropped ones (R388); none while the stream is insecure (R492). -/
def State.drainEvents (s : State) (k : Nat) : State :=
  if s.insecure then s
  else
  let r := s.ring k
  let n := min r.free r.events.length
  let now := r.events.take n
  let s := s.setRing k { r with events := r.events.drop n }
  let s := now.foldl (fun a e => a.postEntry k 0 0xFFFF 0 0 e.status e.detail e.result) s
  let s := if n = 0 then s else s.interrupt k
  let r := s.ring k
  if r.events.isEmpty ∧ 0 < r.lost ∧ 0 < r.free then
    ((s.setRing k { r with lost := 0 }).postEntry k 0 0xFFFF 0 0 .eventsLost 0 [BitVec.ofNat 32 r.lost]).interrupt k
  else s

/-- Post an asynchronous event on a ring, or queue it, or count it as lost (R388). A ring that is not started takes none (log
entry 122). -/
def State.postEvent (s : State) (k : Nat) (e : RingEvent) : State :=
  let r := s.ring k
  if r.state = .stopped ∨ r.state = .refused then s
  else if 1024 ≤ r.events.length then s.setRing k { r with lost := r.lost + 1 }
  else (s.setRing k { r with events := r.events ++ [e] }).drainEvents k

/-- An entry of the completion ring that nothing unread holds is left (R384, R387). -/
def Ring.hasRoom (r : Ring) : Bool := decide ((r.cplProd - r.cplCons).toNat < r.size)

/-- Post a completion at once: it gives up its reserved entry and sends its interrupt when asked (R387, R390, R416). -/
def State.postCompletion (s : State) (k : Nat) (u : Unposted) : State :=
  let r := s.ring k
  let s := s.setRing k { r with reserved := r.reserved - 1 }
  let s := s.postEntry k u.opcode u.entry.tag.toNat u.entry.part.toNat u.entry.ctx.toNat u.status u.detail u.result
  if u.entry.irq then s.interrupt k else s

/-- Post the completion of a command that holds a reserved entry; while the host's `CPL_CONS` leaves no entry, or the stream is
insecure, it waits (R387, R492). -/
def State.complete (s : State) (k : Nat) (opcode : Nat) (e : CmdEntry) (st : Status) (detail : Nat)
    (result : List W32) : State :=
  let r := s.ring k
  let u : Unposted := ⟨opcode, e, st, detail, result⟩
  if r.hasRoom ∧ ¬ s.mutes opcode then s.postCompletion k u else s.setRing k { r with unposted := r.unposted ++ [u] }

/-- Post the completions that wait, in order, while entries are left (R387). -/
def State.drainUnposted (s : State) (k : Nat) : State :=
  let waiting := (s.ring k).unposted
  waiting.foldl (fun t u => t.complete k u.opcode u.entry u.status u.detail u.result)
    (s.setRing k { s.ring k with unposted := [] })

/-- Remove a command in progress and post its completion. -/
def State.finish (s : State) (k : Nat) (a : Active) (st : Status) (detail : Nat) (result : List W32) : State :=
  let r := s.ring k
  (s.setRing k { r with active := r.active.erase a }).complete k a.opcode a.entry st detail result

/-- Opcodes of class C (R401). -/
def classC (opcode : Nat) : Bool := [0x0101, 0x0110, 0x0112, 0x0113, 0x0114, 0x0115, 0x0116].contains opcode

/-- The rings and commands in progress that match. -/
def State.activeWhere (s : State) (f : Nat → Active → Bool) : List (Nat × Active) :=
  s.rings.flatMap (fun e => (e.2.active.filter (f e.1)).map (fun a => (e.1, a)))

/-! ### Ending commands (R395, R404, R454) -/

/-- The command acts on the partition that `PART` names. -/
def namesPartition (opcode : Nat) : Bool := opcode == 0x0011 || opcode == 0x0012 || decide (0x0100 ≤ opcode)

/-- Take a command off its ring's waiting list. -/
def State.unpick (s : State) (k : Nat) (c : Picked) : State :=
  let r := s.ring k
  s.setRing k { r with picked := r.picked.erase c }

/-- Complete with a status every waiting command that matches, those excepted that the ring of the command `by_` (its ring and its
place there) picked up after it (R395, R404). -/
def State.endWaiting (s : State) (st : Status) (by_ : Option (Nat × Nat)) (f : Nat → Nat → CmdEntry → Bool) : State :=
  let before (k : Nat) (c : Picked) : Bool := by_.all (fun b => k != b.1 || decide (c.order < b.2))
  (s.rings.flatMap (fun e => (e.2.picked.filter (fun c => before e.1 c && f e.1 c.opcode c.entry)).map (fun c => (e.1, c)))).foldl
    (fun t w => (t.unpick w.1 w.2).complete w.1 w.2.opcode w.2.entry st 0 []) s

/-- Complete with a status every command in progress that matches. -/
def State.endActive (s : State) (st : Status) (f : Nat → Nat → CmdEntry → Bool) : State :=
  (s.activeWhere (fun k a => f k a.opcode a.entry)).foldl (fun t e => t.finish e.1 e.2 st 0 []) s

/-- Complete with a status every command for partition `p` on any ring that was picked up before the command `by_` (R395). -/
def State.endCommands (s : State) (p : Nat) (st : Status) (by_ : Option (Nat × Nat)) : State :=
  let mine (k opcode : Nat) (e : CmdEntry) : Bool :=
    k == p + 1 || (k == 0 && namesPartition opcode && e.part.toNat == p)
  (s.endWaiting st by_ mine).endActive st mine

/-! ### Ending a job (R371–R374, R404, R405) -/

/-- The result words of a step completion (R405). -/
def stepWords (step : Nat) (last : Bool) (sitOut : List (Nat × Nat)) (reruns unresolved clamps belay energyMj : Nat) :
    List W32 :=
  let so (j : Nat) : List W32 :=
    match sitOut[j]? with
    | none => [0, 0]
    | some (strand, beat) =>
      let v := beat % 2 ^ 56 + strand * 2 ^ 56
      [BitVec.ofNat 32 v, BitVec.ofNat 32 (v / 2 ^ 32)]
  [BitVec.ofNat 32 step,
   BitVec.ofNat 32 ((if last then 1 else 0) + 2 * min 3 sitOut.length + 8 * min 3 reruns),
   BitVec.ofNat 32 unresolved, BitVec.ofNat 32 clamps] ++ so 0 ++ so 1 ++ so 2 ++
  [BitVec.ofNat 32 (min belay (2 ^ 32 - 1)), BitVec.ofNat 32 (min energyMj (2 ^ 32 - 1))]

/-- How a job ends (R371). -/
inductive JobEnd where
  | completed | killed | lost
  deriving DecidableEq, Repr

def JobEnd.counter : JobEnd → Nat
  | .completed => jobsCompleted
  | .killed => jobsKilled
  | .lost => jobsLost

/-- Complete the commands of a context that a job's end decides: its `RUN_STEPS` with the status, for which it keeps one completion
entry, its held sequence commands with `ST_KILLED` (R387, R405, R407, R413). -/
def State.closeCommands (s : State) (p c : Nat) (st : Status) (detail : Nat) : State :=
  match s.partition? p with
  | none => s
  | some x =>
    match x.context? c with
    | none => s
    | some v =>
      let s := s.setPartition p (x.setContext c { v with steps := none, heldSeq := [] })
      let z := v.saved.getD Saved.zeroed
      let (r, unresolved, clamps) :=
        if x.running = some c then (x.response, x.unresolved, x.clamps) else (z.response, z.unresolved, z.clamps)
      let words := stepWords v.step true r.sitOut r.reruns unresolved clamps
        ((v.steps.map (·.belay)).getD 0) (((v.steps.map (·.energy)).getD 0) / 1000)
      let s := match v.steps with
        | some q =>
          let r := s.ring q.ring
          s.setRing q.ring { r with reserved := r.reserved + 1 - q.entries }
        | none => s
      let mine (a : Active) : Bool := a.entry.part.toNat == p && a.entry.ctx.toNat == c
      let s := (s.activeWhere (fun _ a => mine a && a.progress == .steps)).foldl
        (fun t e => t.finish e.1 e.2 st detail words) s
      (s.activeWhere (fun _ a => mine a && a.progress == .sequence)).foldl
        (fun t e => t.finish e.1 e.2 .killed 0 []) s

/-- A die zeroed as in teardown (R373, R376); its M-tiles keep their activity levels (R80, R84). -/
def Die.clearedKeep (d : Die) : Die :=
  { Die.zeroed with m := (d.m.filter (fun e => e.2.level != 0)).map (fun e => (e.1, e.2.clearedKeep)) }

/-- Clear the partition's die state of the running context (R373): tiles, queues and engine work. -/
def Partition.cleared (x : Partition) : Partition :=
  { x with dies := Sparse.mapVals (fun _ d => d.clearedKeep) x.dies, edge := [], crossing := [], tether := [],
           response := .none, clamps := 0, unresolved := 0,
           run := { Run.reset with clock := x.run.clock, elapsed := x.run.elapsed, frozen := x.run.frozen,
                                   frozenBeats := x.run.frozenBeats, unreconciled := x.run.unreconciled } }

/-- Stop the partition's engines and discard their staging (R373, R376). -/
def State.clearRims (s : State) (x : Partition) : State :=
  x.stackRims.foldl (fun t k =>
    let r := t.rim k
    t.setRim k ({ r with ctx := { r.ctx with engines := [], edgeDone := (0, []), written := [] }, outstanding := [] } : Rim).drain) s

/-- End the job of context `c` (R371, R373, R404): count it, complete its commands, unload the pattern, and where `clear`
holds zero the partition's tiles when the context is running. -/
def State.endJob (s : State) (p c : Nat) (how : JobEnd) (st : Status) (detail : Nat) (clear : Bool) : State :=
  match s.partition? p with
  | none => s
  | some x =>
    match x.context? c with
    | none => s
    | some v =>
      if v.pattern.isNone then s.closeCommands p c st detail
      else
        let s := s.setPartition p (x.count c how.counter 1)
        let s := s.closeCommands p c st detail
        match s.partition? p with
        | none => s
        | some x =>
          match x.context? c with
          | none => s
          | some v =>
            let v := { v with pattern := none, seq := .empty, blockedSince := s.time,
                              saved := if clear then none else v.saved }
            let x := x.setContext c v
            if x.running = some c then
              let s := s.dropAll p x
              if clear then (s.clearRims x).setPartition p x.cleared
              else s.setPartition p { x with run := { x.run with phase := .idle, holds := [] } }
            else s.setPartition p x

/-- A software fault of partition `p` (R373): its running job ends in this beat with the status; `detail` is the die index
at which it arose (R413). -/
def State.softFault (s : State) (p : Nat) (st : Status) (detail : Nat) : State :=
  match s.partition? p with
  | none => s
  | some x =>
    match x.running with
    | none => s
    | some c => s.endJob p c .lost st detail true

/-- The absolute node number of rim die `k` and of a physical skein (R191). -/
def rimNode (k : Nat) : Nat := k + 1

/-- Skeins retired in group `g`. -/
def State.retiredIn (s : State) (g : Nat) : BitVec 18 := Sparse.getD 0 s.spares.retired g

/-- The physical column that serves logical column `c` of group `g`: its (c + 1)th skein not retired (R448). -/
def State.physicalColumn (s : State) (g c : Nat) : Nat :=
  ((List.range (s.part.groupSkeins g)).filter (fun i => !(s.retiredIn g).getLsbD i)).getD c 0

/-- The absolute node number of the skein at logical position (c, r) (R191, R448, R453). -/
def State.skeinNode (s : State) (c r : Nat) : Nat := 32 + 18 * (s.row0 + r) + s.physicalColumn (s.row0 + r) c

/-- The absolute node number of die `d` of a partition. -/
def State.dieNode (s : State) (x : Partition) (d : Nat) : Nat :=
  let (c, r) := x.position d
  s.skeinNode c r

/-- A hardware fault (R374, R413): every job of every resident or moving context is lost, every partition's tile state is
zeroed, the code is posted as an event, and diagnosis begins. `other` is the second end of a lost link. -/
def State.hardFault (s : State) (st : Status) (node other : Nat) : State :=
  let s := { s with hwFault := st.code, hwNode := node,
                    spares := { s.spares with lastFault := st.code, lastNode := node } }
  let jobs := s.partitions.flatMap (fun e =>
    e.2.contexts.filterMap (fun c =>
      match c.2.place with
      | .out _ => none
      | _ => if c.2.pattern.isSome then some (e.1, c.1) else none))
  let s := jobs.foldl (fun t j => t.endJob j.1 j.2 .lost st node true) s
  let s := s.partitions.foldl (fun t e =>
    match t.partition? e.1 with
    | none => t
    | some x => ((t.dropAll e.1 x).clearRims x).setPartition e.1 x.cleared) s
  let s := { s with diag := true, meshValid := false, diagSources := s.diagSources ++ [(st, node, other)] }
  let event : RingEvent := ⟨st, node, []⟩
  let s := s.postEvent 0 event
  ((jobs.map (·.1)).dedup).foldl (fun t p => t.postEvent (p + 1) event) s

/-! ### Detected errors (R137–R145) -/

/-- The partition answers a detected error by sit-out: a partition with one strand always re-runs (R139). -/
def Partition.sitsOut (x : Partition) : Bool :=
  x.sitOutMode && (match x.pattern? with | some q => decide (1 < q.strands) | none => false)

/-- A detected error on die `d` of partition `p` (R137): the die stops, belay is raised as source `src`, the word is
recorded, and the partition's response falls due. The fourth in a step, and a die's third consecutive step with one, is a
hardware fault (R145). -/
def State.detectedError (s : State) (p d : Nat) (where_ : Option (Nat × Nat)) (src : Source) : State :=
  match s.partition? p with
  | none => s
  | some x =>
    let die := x.die d
    let die := { die with stopped := true, parityRecord := where_.orElse (fun _ => die.parityRecord) }
    let r := x.response
    let fresh := !r.detected.contains d
    let n := r.detections + 1
    let streak := Sparse.getD 0 r.streak d + (if fresh then 1 else 0)
    let strand := match x.pattern? with | some q => (q.die d).strand | none => 0
    let marker := match x.pattern?, where_ with
      | some q, some (mem, word) => (q.die d).regions.any (fun g =>
          g.kind == 2 && g.mem == mem && decide (g.base ≤ word / 8) && decide (word / 8 ≤ g.limit))
      | _, _ => false
    let out := x.sitsOut && !(r.sitOut.any (fun e => e.1 == strand))
    let x := { x.setDie d die with
      response := { r with detections := n, due := true, marker := r.marker || marker,
                           detected := if fresh then r.detected ++ [d] else r.detected,
                           streak := Sparse.set r.streak d streak,
                           sitOut := if out then r.sitOut ++ [(strand, x.run.stepBeat)] else r.sitOut,
                           resync := if out then r.resync ++ [strand] else r.resync } }
    let s := (s.setPartition p x).raise (s.wireOf p) src
    if 4 ≤ n ∨ 3 ≤ streak then s.hardFault .hwSramRepeat (s.dieNode x d) 0 else s

/-! ### The power limit (R421) -/

/-- Part maximum power under the coolant term (R436): whole watts at an inlet in 1/16 °C. -/
def State.coolantLimit (s : State) : Nat :=
  let m := s.part.maxW
  if s.coolantIn ≤ 560 then m
  else if s.coolantIn ≤ 640 then m - m * 3 * (s.coolantIn - 560).toNat / (16 * 80)
  else s.part.floorW

/-- Converters of the part that regulate (R420). -/
def State.convertersOk (s : State) : Nat := ((List.range s.part.converters).filter (fun i => s.converters.getLsbD i)).length

/-- The terms of the power limit in table order (R421); the input term counts once a window has measured the voltage. -/
def State.limitTerms (s : State) : List (Nat × Nat) :=
  [(0, s.envelope), (1, 2200 * s.convertersOk)]
    ++ (if s.vin = 0 then [] else [(2, s.vin * s.part.maxAmps / 100)])
    ++ [(3, s.coolantLimit)] ++ (if s.throt then [(4, s.part.floorW)] else [])

/-- Recompute the power limit, its causes, since when it has lain below half or at or above 0.6 of the part's maximum, and
ALERT_N (R421, R433, R438; log entry 125). -/
def State.relimit (s : State) : State :=
  let ts := s.limitTerms
  let m := (ts.map (·.2)).foldl min s.envelope
  let causes := (ts.filter (fun t => t.2 == m)).map (·.1)
  let cause : BitVec 5 := causes.foldl (fun v i => v ||| (1#5 <<< i)) 0
  let alert := causes.any (fun i => i != 0) || s.partitions.any (fun e => e.2.hot)
  let answers := s.power == .good && !s.perst
  let belowSince := if 2 * m < s.part.maxW then some (s.belowSince.getD s.time) else none
  let aboveSince := if 6 * s.part.maxW ≤ 10 * m then some (s.aboveSince.getD s.time) else none
  { s with plim := m, cause, belowSince, aboveSince, alertN := if answers && alert then .low else .highZ }

end Sys2Proof.Machine
end

