-- ==== Sys2Proof/Machine/Tile.lean ====
section
/-! DEFINITION. Issuing one instruction word of a tile program: where it may issue, its fetch, its checks and what becomes
of it (spec/03_matrix_tiles.md R54–R60, spec/04_vector_and_control_tiles.md R88–R94, R106–R108). -/

namespace Sys2Proof.Machine

/-- A die of a partition whose running context has a pattern. -/
structure Site where
  p : Nat
  part : Partition
  ctx : Nat
  context : Context
  pat : Pattern
  d : Nat
  die : Die
  deriving DecidableEq, Repr

/-- Die `d` of partition `p` while its context's pattern runs; frozen or not. -/
def State.siteAny (s : State) (p d : Nat) : Option Site :=
  match s.partition? p with
  | none => none
  | some x =>
    if x.teardown ∨ x.size ≤ d then none
    else
      match x.running? with
      | none => none
      | some (c, v) => v.pattern.map (fun q => ⟨p, x, c, v, q, d, x.die d⟩)

/-- The same, only in a beat in which the hold domain is not frozen (R195). -/
def State.site (s : State) (p d : Nat) : Option Site := if s.frozen p then none else s.siteAny p d

/-- What becomes of an instruction that issues. `done`: it takes effect on the die and the program moves on; `wait`: the
die changes and the program stays; `send`: as `done`, and a packet enters the tether network; `hold`: nothing changes yet. -/
inductive Effect where
  | done (d : Die)
  | wait (d : Die)
  | send (d : Die) (dest : Nat) (packet : Packet)
  | hold
  | fault (st : Status)
  | faultWith (st : Status) (detail : Nat)
  | detected (mem word : Nat)
  deriving DecidableEq, Repr

/-- The state with a new die at the site. -/
def State.putDie (s : State) (x : Site) (d : Die) : State := s.setPartition x.p (x.part.setDie x.d d)

/-- Apply an effect; `move` moves the program past the word. -/
def State.apply (s : State) (x : Site) (move : Die → Die) : Effect → State
  | .done d => s.putDie x (move d)
  | .wait d => s.putDie x d
  | .send d dest packet =>
    let y := x.part.setDie x.d (move d)
    s.setPartition x.p { y with tether := y.tether ++ [(dest, s.beat, packet)] }
  | .hold => s
  | .fault st => s.softFault x.p st x.d
  | .faultWith st detail => s.softFault x.p st detail
  | .detected mem word => s.detectedError x.p x.d (some (mem, word)) (.detected x.p x.d)

/-- The little-endian word of `n` bytes at byte `a` of a scratchpad. -/
def wordAt (m : Mem) (a n : Nat) : Nat := leNat (Mem.readBytes m a n)

/-! ### M-tiles -/

/-- Move an M-tile's program on by one 16-byte word. -/
def advanceM (t : Nat) (d : Die) : Die :=
  let x := d.mtile t
  d.setMtile t { x with prog := x.prog.advance 16 }

/-- The operation with its loop's increments applied (R59). -/
def effectiveM (p : Prog) (op : MOp) : MOp :=
  match p.loop with
  | none => op
  | some l => op.advance l.iter l.incA l.incB l.incR

/-- A `LOOP` inside a loop body, or a word after `PAIR` = 1 that does not pair (R60, R67). -/
def misplacedM (x : MTile) (op : MOp) : Bool :=
  (match op, x.prog.loop with
   | .loop .., some _ => true
   | _, _ => false) ||
  (match x.first, op with
   | none, _ => false
   | some a, .mma b => !pairAgrees a b
   | some _, _ => true)

/-- Issue of the word `w` by M-tile `t`: it must be the word at the tile's program position. A tile with a row of a drain held for
credit is held (R131). -/
def runM (s : State) (p d t : Nat) (w : BitVec 128) (accept : MOp → Bool) (f : Site → MTile → MOp → Effect) : State :=
  match s.site p d with
  | none => s
  | some x =>
    let tile := x.die.mtile t
    if x.die.stopped ∨ ¬ tile.prog.running ∨ tile.prog.ended ∨ tile.prog.waiting.isSome ∨ ¬ x.die.noneHeld 1 t then s
    else if 64 * tileUnits < tile.prog.pc + 16 then s.softFault p .faultEncoding d
    else match x.die.parityAt t tile.prog.pc 16 with
      | some e => s.apply x id (.detected e.1 e.2)
      | none =>
        if wordAt tile.sram tile.prog.pc 16 ≠ w.toNat then s
        else match decodeM w with
          | .error _ => s.softFault p .faultEncoding d
          | .ok raw =>
            if ¬ accept raw then s
            else
              let op := effectiveM tile.prog raw
              if ¬ op.legal ∨ misplacedM tile op then s.softFault p .faultEncoding d
              else s.apply x (advanceM t) (f x tile op)

/-! ### V-tiles -/

/-- Move a V-tile's program on by one 8-byte word. -/
def advanceV (v : Nat) (d : Die) : Die :=
  let x := d.vtile v
  d.setVtile v { x with prog := x.prog.advance 8 }

/-- The operation with its loop's increments applied (R91). -/
def effectiveV (p : Prog) (op : VOp) : VOp :=
  match op, p.loop with
  | .word f, some l => .word (f.advance l.iter l.incR l.incA)
  | op, _ => op

/-- Issue of the word `w` by V-tile `v`. A tile whose remote writes are held, or whose pushes exceed its push queue, is
held (R131, R161). -/
def runV (s : State) (p d v : Nat) (w : W64) (accept : VOp → Bool) (f : Site → VTile → VOp → Effect) : State :=
  match s.site p d with
  | none => s
  | some x =>
    let tile := x.die.vtile v
    if x.die.stopped ∨ ¬ tile.prog.running ∨ tile.prog.ended ∨ tile.prog.waiting.isSome ∨ ¬ x.die.noneHeld 2 v
        ∨ 8 < x.die.pushBacklog (8 + v) then s
    else if 64 * tileUnits < tile.prog.pc + 8 then s.softFault p .faultEncoding d
    else match x.die.parityAt (8 + v) tile.prog.pc 8 with
      | some e => s.apply x id (.detected e.1 e.2)
      | none =>
        if wordAt tile.sram tile.prog.pc 8 ≠ w.toNat then s
        else match decodeV w with
          | .error _ => s.softFault p .faultEncoding d
          | .ok raw =>
            if ¬ accept raw then s
            else
              let op := effectiveV tile.prog raw
              let nested : Bool := match op, tile.prog.loop with | .loop .., some _ => true | _, _ => false
              if ¬ op.legal ∨ nested then s.softFault p .faultEncoding d
              else s.apply x (advanceV v) (f x tile op)

/-! ### C-tile cores -/

/-- The SRAM code of a core's C-tile (R209). -/
def coreMem (c : Nat) : Nat := 21 + c / 4

/-- Issue of the word `w` by core `c`. Cores issue in frozen beats as well: a sync point waits for them (R111, R195; log
entry 15). A core whose die write is held waits (R131). The meaning gives the core's new state and the die it leaves;
`pc` is the core's to set. -/
def runC (s : State) (p d c : Nat) (w : W32) (accept : CFields → Bool) (f : Site → Core → CFields → Effect) : State :=
  match s.siteAny p d with
  | none => s
  | some x =>
    let core := x.die.core c
    if x.die.stopped ∨ ¬ core.running ∨ core.waiting.isSome ∨ ¬ x.die.noneHeld 3 c then s
    else if 64 * ctileUnits < core.pc + 4 then s.softFault p .faultEncoding d
    else match x.die.parityAt (coreMem c) core.pc 4 with
      | some e => s.apply x id (.detected e.1 e.2)
      | none =>
        if wordAt (x.die.memory (coreMem c)) core.pc 4 ≠ w.toNat then s
        else match decodeC w with
          | .error _ => s.softFault p .faultEncoding d
          | .ok fs => if ¬ accept fs then s else s.apply x id (f x core fs)

end Sys2Proof.Machine
end

