-- ==== Sys2Proof/Machine/CTile.lean ====
section
/-! DEFINITION. Meanings of the C-tile rows, of EVENT_WAIT_COMPLETE and of CREDIT_HOLD_TIMEOUT
(spec/04_vector_and_control_tiles.md R106–R111, R524, spec/05_scratchpads.md R121, R122, R134). -/

namespace Sys2Proof.Machine

/-! ### Values -/

/-- The number of leading zeros of a word; 64 for zero. -/
def clz64 (a : W64) : Nat := if a = 0 then 64 else 63 - a.toNat.log2

/-- The number of ones of a word. -/
def popcount64 (a : W64) : Nat := ((List.range 64).filter (fun i => a.getLsbD i)).length

/-- A one-bit result. -/
def flag64 (b : Bool) : W64 := if b then 1 else 0

/-- Opcode 0x00 (R108). A shift by 64 or more has no stated value (log entry 18). -/
def integerOp (fn : Nat) (a b : W64) : W64 :=
  let k := b.toNat
  match fn with
  | 0 => a + b
  | 1 => a - b
  | 2 => a &&& b
  | 3 => a ||| b
  | 4 => a ^^^ b
  | 5 => if k < 64 then a <<< k else Config.wideShift fn a b
  | 6 => if k < 64 then a >>> k else Config.wideShift fn a b
  | 7 => if k < 64 then a.sshiftRight k else Config.wideShift fn a b
  | 8 => flag64 (decide (a.toInt < b.toInt))
  | 9 => flag64 (decide (a.toNat < b.toNat))
  | 10 => if a.toInt < b.toInt then a else b
  | 11 => if a.toInt < b.toInt then b else a
  | 12 => if a.toNat < b.toNat then a else b
  | 13 => if a.toNat < b.toNat then b else a
  | 14 => BitVec.ofNat 64 (clz64 a)
  | _ => BitVec.ofNat 64 (popcount64 a)

/-- Opcodes 0x01–0x07 (R108): shifts use `IMM16`[5:0]. -/
def immediateOp (op : Nat) (a : W64) (f : CFields) : W64 :=
  let b := BitVec.ofInt 64 f.imm
  let k := f.immU % 64
  match op with
  | 1 => a + b
  | 2 => a &&& b
  | 3 => a ||| b
  | 4 => a ^^^ b
  | 5 => a <<< k
  | 6 => a >>> k
  | _ => a.sshiftRight k

/-- Opcode 0x0C (R108). -/
def multiplyOp (fn : Nat) (a b : W64) : W64 :=
  match fn with
  | 0 => a * b
  | 1 => BitVec.ofInt 64 ((a.toInt * b.toInt) / 2 ^ 64)
  | _ => BitVec.ofNat 64 (a.toNat * b.toNat / 2 ^ 64)

/-- Opcode 0x0D (R108). A zero divisor gives all ones and the dividend; signed division truncates (log entry 20); the one
quotient and remainder out of range are free (log entry 17). -/
def divideOp (fn : Nat) (a b : W64) : W64 :=
  let beyond : Bool := a == BitVec.intMin 64 && b == BitVec.allOnes 64
  match fn with
  | 0 => if b = 0 then BitVec.allOnes 64 else if beyond then Config.divOverflow false a b else a.sdiv b
  | 1 => if b = 0 then BitVec.allOnes 64 else a / b
  | 2 => if b = 0 then a else if beyond then Config.divOverflow true a b else a.srem b
  | _ => if b = 0 then a else a % b

/-- The branch conditions (R108): x[rs1] against x[rd]. -/
def branchTaken (op : Nat) (a b : W64) : Bool :=
  match op with
  | 0x20 => a == b
  | 0x21 => a != b
  | 0x22 => decide (a.toInt < b.toInt)
  | 0x23 => decide (b.toInt ≤ a.toInt)
  | 0x24 => decide (a.toNat < b.toNat)
  | _ => decide (b.toNat ≤ a.toNat)

/-- The event number that a register names (R524): 0 to 255. -/
def portEvent (x : W64) : Nat := if x.toNat < 256 then x.toNat else (Config.portIndex x).toNat

/-- The ready flag that a register names (R111): 0 to 15. -/
def portFlag (x : W64) : Nat := if x.toNat < 16 then x.toNat else (Config.portIndex x).toNat % 16

/-! ### Moving on -/

/-- The core past its word. -/
def Core.next (c : Core) : Core := { c with pc := c.pc + 4 }

/-- The core with a destination register written, past its word. -/
def Core.put (c : Core) (rd : Nat) (v : W64) : Core := (c.setReg rd v).next

/-- The effect that only writes a register. -/
def registerEffect (x : Site) (c : Nat) (core : Core) (rd : Nat) (v : W64) : Effect :=
  .done (x.die.setCore c (core.put rd v))

/-- The effective address x[rs1] + `IMM16`. -/
def coreAddress (core : Core) (f : CFields) : Nat := (core.reg f.rs1 + BitVec.ofInt 64 f.imm).toNat

/-- Bytes that a load or store opcode moves (R108). -/
def accessBytes (op : Nat) : Nat :=
  match op with
  | 0x10 | 0x14 | 0x18 => 1
  | 0x11 | 0x15 | 0x19 => 2
  | 0x12 | 0x16 | 0x1A => 4
  | _ => 8

/-! ### Effects -/

/-- Loads from the core's own SRAM, at any byte address; an address outside it is a fault as R94 (R108, R135; log entries 96,
97). -/
def coreLoad (x : Site) (c : Nat) (core : Core) (f : CFields) : Effect :=
  let a := coreAddress core f
  let n := accessBytes f.op
  if 64 * ctileUnits < a + n then .fault .faultEncoding
  else match x.die.parityAt (coreMem c) a n with
    | some e => .detected e.1 e.2
    | none =>
      let v := wordAt (x.die.memory (coreMem c)) a n
      registerEffect x c core f.rd
        (if 0x14 ≤ f.op then BitVec.ofInt 64 (signed (8 * n) v) else BitVec.ofNat 64 v)

/-- Stores to the core's own SRAM, visible from the fourth cycle on (R109); a store that leaves part of a 64-bit word reads that
word first (R135). `now` is the beat of its issue. -/
def coreStore (x : Site) (c : Nat) (core : Core) (f : CFields) (now : Nat) : Effect :=
  let a := coreAddress core f
  let n := accessBytes f.op
  let whole : Bool := n == 8 && a % 8 == 0
  if 64 * ctileUnits < a + n then .fault .faultEncoding
  else match if whole then none else x.die.parityAt (coreMem c) a n with
    | some e => .detected e.1 e.2
    | none => .done ((x.die.addStore ⟨c / 4, c, now, a, leBytes n (core.reg f.rd).toNat⟩).setCore c core.next)

/-- The die buffer's place in the skein address map (R121). -/
def bufferBase : Nat := 0x0B000000

/-- The SRAM and byte address of an eight-byte die write (R121), at any byte address: M-tile operand SRAM, V-tile SRAM or die
buffer (log entry 97). -/
def dieWriteTarget (a : Nat) : Option (Nat × Nat) :=
  if a < 0x04000000 then
    if a % 0x00800000 + 8 ≤ 0x00600000 then some (a / 0x00800000, a % 0x00800000) else none
  else if a < 0x0A000000 then
    let b := a - 0x04000000
    if b % 0x00800000 + 8 ≤ 0x00600000 then some (8 + b / 0x00800000, b % 0x00800000) else none
  else if bufferBase ≤ a ∧ a + 8 ≤ bufferBase + 0x00800000 then some (20, a - bufferBase)
  else none

/-- Die read: 64 bits of the die buffer (R108, R121, R122). -/
def dieReadEffect (x : Site) (c : Nat) (core : Core) (f : CFields) : Effect :=
  let a := coreAddress core f
  if a < bufferBase ∨ bufferBase + 0x00800000 < a + 8 then .fault .faultDieAccess
  else match x.die.parityAt 20 (a - bufferBase) 8 with
    | some e => .detected e.1 e.2
    | none => registerEffect x c core f.rd (BitVec.ofNat 64 (wordAt x.die.buffer (a - bufferBase) 8))

/-- Die write: a remote write of one unit under credit (R108, R121, R122, R131, R134). -/
def dieWriteEffect (x : Site) (c : Nat) (core : Core) (f : CFields) : Effect :=
  match dieWriteTarget (coreAddress core f) with
  | none => .fault .faultDieAccess
  | some (mem, at_) =>
    match x.die.issueWrite 3 c 0 mem at_ (leBytes 8 (core.reg f.rd).toNat) x.part.run.elapsed with
    | none => .fault .faultCredit
    | some d => .done (d.setCore c core.next)

/-- A destination that `TSEND` may address (R189, R190): a die or rim die of the partition and one of its endpoints. -/
def Partition.reaches (x : Partition) (dest : Nat) : Bool :=
  let ep := bits dest 4 0
  let i := bits dest 13 5
  match bits dest 15 14 with
  | 0 => decide (ep ≤ 16 ∧ i < x.size)
  | 1 => decide (ep ≤ 8 ∧ i < x.stackRims.length)
  | _ => false

/-- The tether address of core `c` of die `d` as its partition sees it (R189). -/
def coreNode (d c : Nat) : Nat := c + 32 * d

/-! ### Rows -/

/-- CT_INTEGER (R108). -/
def execCtInteger (c : CRef) (w : W32) (s : State) : Out :=
  .next (runC s c.part c.die c.core w (fun f => f.op == 0x00) (fun x core f =>
    registerEffect x c.core core f.rd (integerOp f.fn (core.reg f.rs1) (core.reg f.rs2))))

/-- CT_INTEGER_IMMEDIATE (R108). -/
def execCtIntegerImmediate (c : CRef) (w : W32) (s : State) : Out :=
  .next (runC s c.part c.die c.core w (fun f => decide (1 ≤ f.op ∧ f.op ≤ 7)) (fun x core f =>
    registerEffect x c.core core f.rd (immediateOp f.op (core.reg f.rs1) f)))

/-- SHIFT_IN (R108). -/
def execShiftIn (c : CRef) (w : W32) (s : State) : Out :=
  .next (runC s c.part c.die c.core w (fun f => f.op == 0x08) (fun x core f =>
    registerEffect x c.core core f.rd ((core.reg f.rd <<< 16) ||| BitVec.ofNat 64 f.immU)))

/-- MULTIPLY (R108). -/
def execMultiply (c : CRef) (w : W32) (s : State) : Out :=
  .next (runC s c.part c.die c.core w (fun f => f.op == 0x0C) (fun x core f =>
    registerEffect x c.core core f.rd (multiplyOp f.fn (core.reg f.rs1) (core.reg f.rs2))))

/-- DIVIDE (R108). -/
def execDivide (c : CRef) (w : W32) (s : State) : Out :=
  .next (runC s c.part c.die c.core w (fun f => f.op == 0x0D) (fun x core f =>
    registerEffect x c.core core f.rd (divideOp f.fn (core.reg f.rs1) (core.reg f.rs2))))

/-- CT_LOAD (R108). -/
def execCtLoad (c : CRef) (w : W32) (s : State) : Out :=
  .next (runC s c.part c.die c.core w (fun f => decide (0x10 ≤ f.op ∧ f.op ≤ 0x16))
    (fun x core f => coreLoad x c.core core f))

/-- CT_STORE (R108, R109). -/
def execCtStore (c : CRef) (w : W32) (s : State) : Out :=
  .next (runC s c.part c.die c.core w (fun f => decide (0x18 ≤ f.op ∧ f.op ≤ 0x1B))
    (fun x core f => coreStore x c.core core f s.beat))

/-- DIE_READ (R108). -/
def execDieRead (c : CRef) (w : W32) (s : State) : Out :=
  .next (runC s c.part c.die c.core w (fun f => f.op == 0x1C) (fun x core f => dieReadEffect x c.core core f))

/-- DIE_WRITE (R108). -/
def execDieWrite (c : CRef) (w : W32) (s : State) : Out :=
  .next (runC s c.part c.die c.core w (fun f => f.op == 0x1D) (fun x core f => dieWriteEffect x c.core core f))

/-- FENCE (R108): the core issues nothing while a die write of its is held, so at its issue none is. -/
def execFence (c : CRef) (w : W32) (s : State) : Out :=
  .next (runC s c.part c.die c.core w (fun f => f.op == 0x1E)
    (fun x core _ => .done (x.die.setCore c.core core.next)))

/-- BRANCH (R107, R108). -/
def execBranch (c : CRef) (w : W32) (s : State) : Out :=
  .next (runC s c.part c.die c.core w (fun f => decide (0x20 ≤ f.op ∧ f.op ≤ 0x25)) (fun x core f =>
    let to_ := (BitVec.ofNat 64 core.pc + BitVec.ofInt 64 (4 * f.imm)).toNat
    .done (x.die.setCore c.core
      { core with pc := if branchTaken f.op (core.reg f.rs1) (core.reg f.rd) then to_ else core.pc + 4 })))

/-- JAL (R108). -/
def execJal (c : CRef) (w : W32) (s : State) : Out :=
  .next (runC s c.part c.die c.core w (fun f => f.op == 0x26) (fun x core f =>
    .done (x.die.setCore c.core { core.setReg f.rd (BitVec.ofNat 64 (core.pc + 4)) with
      pc := (BitVec.ofNat 64 core.pc + BitVec.ofInt 64 (4 * f.imm)).toNat })))

/-- JALR (R108). -/
def execJalr (c : CRef) (w : W32) (s : State) : Out :=
  .next (runC s c.part c.die c.core w (fun f => f.op == 0x27) (fun x core f =>
    .done (x.die.setCore c.core { core.setReg f.rd (BitVec.ofNat 64 (core.pc + 4)) with pc := coreAddress core f })))

/-- TSEND (R108, R189, R190): the packet enters the tether network. -/
def execTsend (c : CRef) (w : W32) (s : State) : Out :=
  .next (runC s c.part c.die c.core w (fun f => f.op == 0x28) (fun x core f =>
    let dest := (core.reg f.rs1).toNat
    if dest < 65536 ∧ x.part.reaches dest then
      .send (x.die.setCore c.core core.next) dest ⟨coreNode x.d c.core, (core.reg f.rs2).setWidth 32⟩
    else .fault .faultTether))

/-- What a core receives from a packet (R108): payload in [31:0], sender in [47:32]. -/
def Packet.word (p : Packet) : W64 := BitVec.ofNat 64 (p.payload.toNat + 2 ^ 32 * p.src)

/-- TRECV (R108, R110): takes the oldest packet, or waits for one. -/
def execTrecv (c : CRef) (w : W32) (s : State) : Out :=
  .next (runC s c.part c.die c.core w (fun f => f.op == 0x29) (fun x core f =>
    match core.rx with
    | p :: rest => .done (x.die.setCore c.core { core.put f.rd p.word with rx := rest })
    | [] => .done (x.die.setCore c.core { core.next with waiting := some (.packet f.rd) })))

/-- TPOLL (R108). -/
def execTpoll (c : CRef) (w : W32) (s : State) : Out :=
  .next (runC s c.part c.die c.core w (fun f => f.op == 0x2A) (fun x core f =>
    registerEffect x c.core core f.rd (BitVec.ofNat 64 core.rx.length)))

/-- What the sequencer port reads (R108): beat within the round, round count, step index or die index. -/
def portRead (x : Site) (fn : Nat) : Nat :=
  match fn with
  | 0 => x.part.run.beat
  | 1 => x.part.run.rounds
  | 2 => x.context.step
  | _ => x.d

/-- SEQ_PORT_READ (R108). -/
def execSeqPortRead (c : CRef) (w : W32) (s : State) : Out :=
  .next (runC s c.part c.die c.core w (fun f => f.op == 0x30 && [0, 1, 2, 6].contains f.fn) (fun x core f =>
    registerEffect x c.core core f.rd (BitVec.ofNat 64 (portRead x f.fn))))

/-- SEQ_PORT_SIGNAL (R108, R524). -/
def execSeqPortSignal (c : CRef) (w : W32) (s : State) : Out :=
  .next (runC s c.part c.die c.core w (fun f => f.op == 0x30 && f.fn == 3) (fun x core f =>
    .done ((x.die.signal (portEvent (core.reg f.rs1))).setCore c.core core.next)))

/-- SEQ_PORT_WAIT (R108, R524): the core waits until EVENT_WAIT_COMPLETE. -/
def execSeqPortWait (c : CRef) (w : W32) (s : State) : Out :=
  .next (runC s c.part c.die c.core w (fun f => f.op == 0x30 && f.fn == 4) (fun x core f =>
    .done (x.die.setCore c.core { core.next with waiting := some (.event (portEvent (core.reg f.rs1))) })))

/-- Sync points whose flag is set drop their belay, from the beat after (R111); that beat clears the flag too
(`Die.clearSyncs`). -/
def State.releaseSyncs (s : State) (p d : Nat) : State :=
  match s.partition? p with
  | none => s
  | some x =>
    ((x.die d).syncs.filter (fun e => (x.die d).ready.getLsbD e.1)).foldl (fun t e => t.dropLater p (.sync p d e.1)) s

/-- The sync points that were met in the beat before clear their flags (R111). -/
def Die.clearSyncs (d : Die) : Die :=
  let met := d.syncs.filter (fun e => d.ready.getLsbD e.1)
  if met.isEmpty then d
  else { d with ready := met.foldl (fun r e => r &&& ~~~ (1#16 <<< e.1)) d.ready,
                syncs := d.syncs.filter (fun e => !d.ready.getLsbD e.1) }

/-- SEQ_PORT_SET_READY (R108, R111): sets the flag; a sync point that waits on it drops its belay and clears the flag in the beat
after. -/
def execSeqPortSetReady (c : CRef) (w : W32) (s : State) : Out :=
  .next ((runC s c.part c.die c.core w (fun f => f.op == 0x30 && f.fn == 5) (fun x core f =>
    .done ({ x.die with ready := x.die.ready ||| (1#16 <<< portFlag (core.reg f.rs1)) }.setCore c.core
      core.next))).releaseSyncs c.part c.die)

/-- FAULT (R108, R413): a software fault whose `DETAIL` is the code. -/
def execCtFault (c : CRef) (w : W32) (s : State) : Out :=
  .next (runC s c.part c.die c.core w (fun f => f.op == 0x38) (fun _ _ f => .faultWith .faultProgram f.immU))

/-- CT_END (R108). -/
def execCtEnd (c : CRef) (w : W32) (s : State) : Out :=
  .next (runC s c.part c.die c.core w (fun f => f.op == 0x3F)
    (fun x core _ => .done (x.die.setCore c.core { core with running := false })))

/-! ### Waits -/

/-- The first waiter on event `e` in the order of R524, released: M-tiles, V-tiles, then cores; in a frozen beat only the
cores go on (log entry 15). -/
def Die.release (d : Die) (e : Nat) (frozen : Bool) : Option Die :=
  let m := if frozen then none else (List.range 8).find? (fun t => (d.mtile t).prog.waiting == some e)
  let v := if frozen then none else (List.range 12).find? (fun t => (d.vtile t).prog.waiting == some e)
  let c := (List.range 16).find? (fun k => (d.core k).waiting == some (.event e))
  match m, v, c with
  | some t, _, _ => some (d.setMtile t { d.mtile t with prog := { (d.mtile t).prog with waiting := none } })
  | none, some t, _ => some (d.setVtile t { d.vtile t with prog := { (d.vtile t).prog with waiting := none } })
  | none, none, some k => some (d.setCore k { d.core k with waiting := none })
  | none, none, none => none

/-- EVENT_WAIT_COMPLETE (R524): a wait completes and takes one signal. -/
def execEventWaitComplete (d : DRef) (event : BitVec 8) (s : State) : Out :=
  match s.siteAny d.part d.die with
  | none => .next s
  | some x =>
    let n := x.die.eventCount event.toNat
    if x.die.stopped ∨ n = 0 then .next s
    else match x.die.release event.toNat (s.frozen d.part) with
      | none => .next s
      | some die => .next (s.putDie x (die.setEvent event.toNat (n - 1)))

/-- CREDIT_HOLD_TIMEOUT (R134): a counted write has been held, over unfrozen beats, for longer than the sync timeout. -/
def execCreditHoldTimeout (d : DRef) (s : State) : Out :=
  match s.site d.part d.die with
  | none => .next s
  | some x =>
    if x.die.held.any (fun h => decide (x.pat.syncTimeout * usec < x.part.run.elapsed - h.since)) then
      .next (s.softFault d.part .faultSyncTimeout d.die)
    else .next s

end Sys2Proof.Machine
end

