-- ==== Sys2Proof/Machine/MTile.lean ====
section
/-! DEFINITION. Meanings of the M-tile rows: array instructions, accumulator entries, spills, gaps, events and loops
(spec/03_matrix_tiles.md). -/

namespace Sys2Proof.Machine

/-! ### Activity levels -/

/-- The level of a ramp gap in its `k`-th cycle (R82): down by one per cycle to 0, and up by one so as to end at `to_`. -/
def Ramp.levelAt (r : Ramp) (k : Nat) : Nat := max (r.from_ - k) (r.to_ - (r.len - k))

/-- A tile after one cycle of a level of its own asking: the level it asks for, and the tile with its counters moved
(R82–R84). While a rising change holds an instruction, the tile asks for its level under purl fill. -/
def MTile.ask (x : MTile) (stopped : Bool) : Nat × MTile :=
  let idle (x : MTile) : Nat × MTile :=
    let n := x.idle + 1
    (if n ≤ 63 then x.level else x.level - 1, { x with idle := n, busy := 0, ramp := none, target := x.level })
  if stopped then idle x
  else match x.ramp with
    | some r =>
      let k := r.at_ + 1
      (r.levelAt k, { x with busy := x.busy - 1, target := r.levelAt k,
                             ramp := if k < r.len then some { r with at_ := k } else none })
    | none =>
      if 0 < x.busy then (x.target, { x with busy := x.busy - 1 })
      else match x.want with
        | some l => (l, { x with idle := 0, target := l })
        | none => idle x

/-- Move from a level toward another by at most `budget` units (R80, R83). -/
def moveLevel (from_ to_ budget : Nat) : Nat :=
  if from_ ≤ to_ then min to_ (from_ + budget) else max to_ (from_ - budget)

/-- The levels of a die after one unfrozen beat: tiles in ascending order share the 8 units of the beat (R80, R83). -/
def Die.levels (d : Die) : Die :=
  (foldRange 8 (d, 8) (fun (acc : Die × Nat) t =>
    let x := acc.1.mtile t
    let (want, y) := x.ask d.stopped
    let now := moveLevel x.level want acc.2
    let used := (now - x.level) + (x.level - now)
    let y := { y with level := now }
    (if y = x then acc.1 else acc.1.setMtile t y, acc.2 - used))).1

/-- The levels of a die in its `n`-th frozen beat (R196). -/
def Die.frozenLevels (d : Die) (n : Nat) (reEntry : Bool) : Die :=
  foldRange 8 d (fun d t =>
    let x := d.mtile t
    let now := if reEntry then min x.heldLevel (x.level + 1) else if n ≤ 63 then x.level else x.level - 1
    if now = x.level then d else d.setMtile t { x with level := now })

/-- An array instruction or gap at level `l` may begin in the next cycle: the tile's level is there, or the limits let it reach
it in that cycle (R83). -/
def Die.levelReady (d : Die) (t l : Nat) : Bool :=
  let x := d.mtile t
  decide (l ≤ x.level) || ((d.setMtile t { x with want := some l, busy := 0, ramp := none }).levels.mtile t).level == l

/-! ### Array instructions -/

/-- Elements of one accumulator tile. -/
def tileElems : Nat := 16384

/-- Element `e` = 128 × row + column of accumulator tile `t` (R71). -/
def accAt (acc : SMap W64) (t e : Nat) : W64 := Sparse.getD 0 acc (t * tileElems + e)

/-- Replace the elements of an accumulator tile that `f` gives. -/
def accUpdate (acc : SMap W64) (t : Nat) (f : Nat → Option W64) : SMap W64 :=
  Sparse.putList acc (t * tileElems) ((List.range tileElems).map (fun e =>
    let v := (f e).getD (accAt acc t e)
    if v = 0 then none else some v))

/-- The word an instruction that follows sees in element `e` of tile `t` (R70): what the newest array instruction in flight
will leave there, or the memory's word. -/
def MTile.pendingAt (x : MTile) (t e : Nat) : W64 :=
  match (x.flights.reverse.filter (fun f => !f.cells && f.tiles.contains t)).findSome? (fun f => Sparse.get? f.values e) with
  | some v => v
  | none => accAt x.acc t e

/-- The tile that the hold keeps for column `col` (R522). -/
def Hold.tileAt (h : Hold) (col : Nat) : Nat := if col < 64 then h.left else h.right

def Hold.names (h : Hold) (t : Nat) : Bool := h.left == t || h.right == t

/-- Turn the held output tile over to a spill (R75). -/
def MTile.displace (x : MTile) : MTile :=
  match x.hold with
  | none => x
  | some h => { x with hold := none, work := x.work ++ [.spill h] }

/-- A spill of tile `t` is owed. -/
def MTile.spillOwed (x : MTile) (t : Nat) : Bool := x.spills.any (fun h => h.names t)

/-- An array instruction into accumulator memory of tile `t` is in flight. -/
def MTile.inFlight (x : MTile) (t : Nat) : Bool := x.flights.any (fun f => f.tiles.contains t)

/-- Column halves an instruction writes: one for a half-width instruction, both otherwise (R68). -/
def MmaFields.halves (f : MmaFields) : List Nat := if !f.vector && f.shape == 3 then [f.half] else [0, 1]

/-- The hold an output-stationary instruction or pair asks for (R522). -/
def wantedHold (fs : List MmaFields) : Nat × Nat :=
  match fs with
  | [a, b] => if a.half = 0 then (a.acc, b.acc) else (b.acc, a.acc)
  | f :: _ => (f.acc, f.acc)
  | [] => (0, 0)

/-- The cells already hold the tile of every column half that the instructions write (R521). -/
def MTile.holds (x : MTile) (fs : List MmaFields) : Bool :=
  match x.hold with
  | none => false
  | some h => fs.all (fun f => f.halves.all (fun k => h.tileAt (64 * k) == f.acc))

/-- The hold filled from accumulator memory (R61, R522). -/
def MTile.filled (x : MTile) (fs : List MmaFields) : Hold :=
  let (l, r) := wantedHold fs
  { left := l, right := r, sums := (List.range tileElems).filterMap (fun e =>
      let v := accAt x.acc (if e % 128 < 64 then l else r) e
      if v = 0 then none else some (e, v)) }

/-- A reusable operand is in the cells (R62): the previous array instruction of the run had the same stationarity and the
same stationary address, format and transpose bit. -/
def MTile.reuseOk (x : MTile) (f : MmaFields) : Bool := !f.reuse || x.chain == some f.heldKey

/-- The operand in the cells: what an earlier load left there for a reused operand, or what the instruction loads now (R62, R63);
after a context switch the cells are empty and it loads from the address it names (R79). -/
def MTile.stationary (x : MTile) (f : MmaFields) : HeldOperand :=
  match x.held with
  | some h => if f.reuse then h else ⟨f, x.sram⟩
  | none => ⟨f, x.sram⟩

/-- Element (i, k) of A and element (k, j) of B as the array sees them: from the cells for the held operand, from operand SRAM
for one that streams (R61). -/
def MTile.operandA (x : MTile) (f : MmaFields) (a b : OperandFmt) (q i k : Nat) : Num :=
  if f.stat = 2 then (x.stationary f).word.cellA (Mem.read (x.stationary f).sram) f.geometry q i k
  else f.elemA a b (Mem.read x.sram) q i k

def MTile.operandB (x : MTile) (f : MmaFields) (a b : OperandFmt) (q k j : Nat) : Num :=
  if f.stat = 0 then (x.stationary f).word.cellB (Mem.read (x.stationary f).sram) f.geometry q k j
  else f.elemB a b (Mem.read x.sram) q k j

/-- The new word of element `e` of the instruction's tile, none where it leaves the element alone (R68, R73). -/
def MmaFields.result (f : MmaFields) (x : MTile) (start : Nat → W64) (e : Nat) : Option W64 :=
  match f.formats, f.subOf (e / 128) (e % 128) with
  | some (a, b), some (q, i, j) =>
    some (f.element a b (fun k => x.operandA f a b q i k) (fun k => x.operandB f a b q k j) (start e))
  | _, _ => none

/-- Issue one array instruction of a group (R61, R70, R73). -/
def MTile.array (x : MTile) (f : MmaFields) (paired second : Bool) : MTile :=
  let y :=
    if f.stat = 1 then
      match x.hold with
      | none => x
      | some h =>
        let sums := (List.range tileElems).filterMap (fun e =>
          let old := Sparse.getD 0 h.sums e
          let v := (f.result x (fun i => Sparse.getD 0 h.sums i) e).getD old
          if v = 0 then none else some (e, v))
        { x with hold := some { h with sums }, flights := x.flights ++ [Flight.mk [f.acc] true []] }
    else
      let values := (List.range tileElems).filterMap (fun e => (f.result x (x.pendingAt f.acc) e).map (fun v => (e, v)))
      { x with flights := x.flights ++ [Flight.mk [f.acc] false values] }
  { y with chain := some f.heldKey, held := if f.stat = 1 then none else some (x.stationary f),
           target := f.level paired, want := none, idle := 0, ramp := none, busy := x.busy + f.occupancy second }

/-- Issue of a group: one instruction, or the two of a pair. -/
def MTile.arrays (x : MTile) (fs : List MmaFields) : MTile :=
  let paired := fs.length == 2
  fs.zipIdx.foldl (fun y g => y.array g.1 paired (paired && g.2 == 1)) x

/-- The level of a group (R66). -/
def groupLevel (fs : List MmaFields) : Nat := (fs.map (fun g => g.level (fs.length == 2))).foldl max 0

/-- Begin a group on the tile, once its level may be reached; until then the rise holds it (R83). -/
def beginArrays (x : Site) (t : Nat) (tile : MTile) (fs : List MmaFields) : Effect :=
  if (x.die.setMtile t tile).levelReady t (groupLevel fs) then .done (x.die.setMtile t (tile.arrays fs))
  else .wait (x.die.setMtile t { tile with want := some (groupLevel fs) })

/-- `MMA` and `MMV` (R61–R75, R521, R522). The first of a pair waits for its second, and the two run together (R67). An
instruction into a tile with an unfinished queue entry, or whose tile's spill or fill must first end, or whose level has first to
rise (R83), is held. -/
def arrayEffect (x : Site) (t : Nat) (tile : MTile) (f : MmaFields) : Effect :=
  if !f.vector ∧ f.shape = 3 ∧ f.pair then
    if tile.reuseOk f then .done (x.die.setMtile t { tile with first := some f }) else .fault .faultEncoding
  else
    let fs := match tile.first with | some a => [a, f] | none => [f]
    let chained := (fs.foldl (fun (acc : Bool × MTile) g =>
      (acc.1 && acc.2.reuseOk g, { acc.2 with chain := some g.heldKey })) (true, tile)).1
    if ¬ chained then .fault .faultEncoding
    else if fs.any (fun g => (x.die.entries t).any (fun e => e.tile == g.acc)) then .hold
    else if f.stat = 1 then
      if tile.holds fs then beginArrays x t { tile with first := none } fs
      else
        let tile := tile.displace
        if fs.any (fun g => tile.spillOwed g.acc || tile.inFlight g.acc) then .wait (x.die.setMtile t tile)
        else beginArrays x t { tile with hold := some (tile.filled fs), first := none } fs
    else
      let tile := tile.displace
      if fs.any (fun g => tile.spillOwed g.acc) then .wait (x.die.setMtile t tile)
      else beginArrays x t { tile with first := none } fs

/-- The bytes of operand SRAM that an array instruction reads, for the parity check (R135): A, B and their scales, but not an
operand that it reuses from the cells. -/
def MTile.reads (x : MTile) (f : MmaFields) : List (Nat × Nat) :=
  match f.formats with
  | none => []
  | some (a, b) =>
    let g := f.geometry
    let inCells (stat : Nat) : Bool := f.stat == stat && f.reuse && x.held.isSome
    (List.range g.subs).flatMap (fun q =>
      let scales := 64 * f.sAddr + q * scaleStride g a b
      (if inCells 2 then [] else [(64 * (f.aAddr.toNat + q * f.subStep), f.bytesA a b), (scales, scaleBytesA g a b)])
        ++ (if inCells 0 then [] else
          [(64 * (f.bAddr.toNat + q * f.subStep), f.bytesB a b),
           (scales + roundUnit (scaleBytesA g a b), scaleBytesB g a b)]))

/-- An instruction reads accumulator word `w` of the tile when it issues (R61, R73, R135): the starting words of the elements it
adds to, but for those that an instruction in flight is to write, and for a fill every word of the tiles it fills from. -/
def MTile.readsAcc (x : MTile) (f : MmaFields) (w : Nat) : Bool :=
  let e := w % tileElems
  let here := w / tileElems == f.acc
  let covered := (f.subOf (e / 128) (e % 128)).isSome
  if f.stat = 1 then here && !x.holds [f] && !(f.zero && covered)
  else here && covered && !f.zero && !x.flights.any (fun g =>
    !g.cells && g.tiles.contains f.acc && (Sparse.get? g.values e).isSome)

/-- The first word with bad parity that an array instruction reads (R135). -/
def Die.arrayBad (d : Die) (t : Nat) (f : MmaFields) : Option (Nat × Nat) :=
  let x := d.mtile t
  ((x.reads f).findSome? (fun r => if r.2 = 0 then none else d.parityAt t r.1 r.2)).orElse
    (fun _ => d.accBad t (x.readsAcc f))

/-- An array instruction after the parity check of what it reads (R135, R137). -/
def mmaEffect (x : Site) (t : Nat) (tile : MTile) (op : MOp) : Effect :=
  match op with
  | .mma f =>
    match x.die.arrayBad t f with
    | some e => .detected e.1 e.2
    | none => arrayEffect x t tile f
  | _ => .hold

/-- Queue a `DRN`, `ACZ` or `ACL` (R72); one that names the held tile makes it spill (R75). -/
def queueEffect (x : Site) (t : Nat) (tile : MTile) (op : MOp) : Effect :=
  if 4 ≤ (x.die.entries t).length then .hold
  else
    let e : AccEntry := ⟨op, false⟩
    let tile := match tile.hold with
      | some h => if h.names e.tile then tile.displace else tile
      | none => tile
    .done (x.die.setMtile t { tile with work := (x.die.setMtile t tile).liveWork t ++ [.entry e] })

/-- The level that the next word of the program asks for: an array instruction's, else 0 (R82). -/
def MTile.nextLevel (x : MTile) : Nat :=
  let p := x.prog.advance 16
  match decodeM (BitVec.ofNat 128 (wordAt x.sram p.pc 16)) with
  | .ok (.mma f) => f.level f.pair
  | _ => 0

/-- `GAP` (R81, R82): purl fill at a level, which a rise holds like an instruction (R83), or a ramp down and up. -/
def gapEffect (x : Site) (t : Nat) (tile : MTile) : MOp → Effect
  | .gap ramp level len =>
    let on := { tile with busy := tile.busy + len, idle := 0, want := none }
    if ramp then .done (x.die.setMtile t { on with ramp := some ⟨len, 0, tile.level, tile.nextLevel⟩ })
    else if level = 63 then .done (x.die.setMtile t { on with ramp := none, target := tile.level })
    else if x.die.levelReady t level then .done (x.die.setMtile t { on with ramp := none, target := level })
    else .wait (x.die.setMtile t { tile with want := some level })
  | _ => .hold

/-- A queued `DRN` to another scratchpad of the die (R76). -/
def AccEntry.remote (e : AccEntry) : Bool :=
  match e.op with
  | .drn _ _ _ dst _ _ => dst == 1
  | _ => false

/-- `SIG` (R119): signals once every remote write the tile issued earlier has been accepted. -/
def sigEffect (x : Site) (t : Nat) : MOp → Effect
  | .sig e =>
    if (x.die.entries t).any AccEntry.remote ∨ ¬ x.die.noneHeld 1 t then .hold else .done (x.die.signal e)
  | _ => .hold

/-- `LOOP` (R59): the body's first and last word and the increments. -/
def loopEffect (x : Site) (t : Nat) (tile : MTile) : MOp → Effect
  | .loop count body incA incB incAcc =>
    let first := tile.prog.pc + 16
    let l : LoopState := ⟨first, first + 16 * body, count, 0, incA, incB, incAcc⟩
    .done (x.die.setMtile t { tile with prog := { tile.prog with pc := tile.prog.pc, loop := some l } })
  | _ => .hold

/-! ### Rows -/

/-- `MMA` (R61). -/
def execMma (t : MRef) (w : BitVec 128) (s : State) : Out :=
  .next (runM s t.part t.die t.tile w (fun op => match op with | .mma f => !f.vector | _ => false)
    (fun x tile op => mmaEffect x t.tile tile op))

/-- `MMV` (R66). -/
def execMmv (t : MRef) (w : BitVec 128) (s : State) : Out :=
  .next (runM s t.part t.die t.tile w (fun op => match op with | .mma f => f.vector | _ => false)
    (fun x tile op => mmaEffect x t.tile tile op))

/-- `DRN` (R72, R76). -/
def execDrn (t : MRef) (w : BitVec 128) (s : State) : Out :=
  .next (runM s t.part t.die t.tile w (fun op => match op with | .drn .. => true | _ => false)
    (fun x tile op => queueEffect x t.tile tile op))

/-- `ACZ` (R72, R78). -/
def execAcz (t : MRef) (w : BitVec 128) (s : State) : Out :=
  .next (runM s t.part t.die t.tile w (fun op => match op with | .acz .. => true | _ => false)
    (fun x tile op => queueEffect x t.tile tile op))

/-- `ACL` (R72, R78). -/
def execAcl (t : MRef) (w : BitVec 128) (s : State) : Out :=
  .next (runM s t.part t.die t.tile w (fun op => match op with | .acl .. => true | _ => false)
    (fun x tile op => queueEffect x t.tile tile op))

/-- `GAP` (R81, R82). -/
def execGap (t : MRef) (w : BitVec 128) (s : State) : Out :=
  .next (runM s t.part t.die t.tile w (fun op => match op with | .gap .. => true | _ => false)
    (fun x tile op => gapEffect x t.tile tile op))

/-- M-tile `WAIT` (R524): the tile waits until EVENT_WAIT_COMPLETE. -/
def execMtWait (t : MRef) (w : BitVec 128) (s : State) : Out :=
  .next (runM s t.part t.die t.tile w (fun op => match op with | .wait .. => true | _ => false)
    (fun x tile op => match op with
      | .wait e => .done (x.die.setMtile t.tile { tile with prog := { tile.prog with waiting := some e } })
      | _ => .hold))

/-- M-tile `SIG` (R119, R524). -/
def execMtSig (t : MRef) (w : BitVec 128) (s : State) : Out :=
  .next (runM s t.part t.die t.tile w (fun op => match op with | .sig .. => true | _ => false)
    (fun x _ op => sigEffect x t.tile op))

/-- M-tile `LOOP` (R59). -/
def execMtLoop (t : MRef) (w : BitVec 128) (s : State) : Out :=
  .next (runM s t.part t.die t.tile w (fun op => match op with | .loop .. => true | _ => false)
    (fun x tile op => loopEffect x t.tile tile op))

/-- M-tile `END` (R54): issued; the held tile spills (R75). -/
def execMtEnd (t : MRef) (w : BitVec 128) (s : State) : Out :=
  .next (runM s t.part t.die t.tile w (fun op => match op with | .finish => true | _ => false)
    (fun x tile _ => .done (x.die.setMtile t.tile
      { tile.displace with prog := { tile.prog with ended := true, loop := none } })))

/-! ### Accumulator entries, spills and array results -/

/-- Row `r` of tile `a` as a drain writes it: 128 words rounded to FP32, or 128 AX64 words (R76). -/
def drainRow (acc : SMap W64) (a r : Nat) (fp32 : Bool) : List Byte :=
  (List.range 128).flatMap (fun c =>
    let w := accAt acc a (128 * r + c)
    if fp32 then leBytes 4 (ax64ToFp32 w).toNat else leBytes 8 w.toNat)

/-- The rows of a drain with the byte address of each. -/
def drainRows (acc : SMap W64) (a : Nat) (fp32 : Bool) (unit : Nat) : List (Nat × List Byte) :=
  (List.range 128).map (fun r => (64 * (unit + r * (if fp32 then 8 else 16)), drainRow acc a r fp32))

/-- Words of a row as a push carries them: an FP32 row fills half a payload, and what the other half holds is not stated: a free
function of the row, so that equal operands give equal flits (R22; log entry 16). -/
def pushWords (bs : List Byte) : List W32 :=
  bytesToLanes (bs ++ (List.range (1024 - bs.length)).map (Config.drainFill bs))

/-- An accumulator word lies in tile `a`. -/
def inTile (a w : Nat) : Bool := w / tileElems == a

/-- Run the oldest entry of a bank (R72, R76–R78). -/
def entryEffect (x : Site) (t : Nat) (tile : MTile) (e : AccEntry) (clock now : Nat) : Effect :=
  let rest := (x.die.liveWork t).erase (.entry e)
  match e.op with
  | .acz a =>
    .done ((x.die.setMtile t { tile with acc := accUpdate tile.acc a (fun _ => some 0), work := rest }).accWritten t (inTile a))
  | .acl a fp32 addr =>
    match x.die.parityAt t (64 * addr.toNat) (64 * drainUnits fp32) with
    | some b => .detected b.1 b.2
    | none =>
      let at_ (i : Nat) : W64 :=
        if fp32 then fp32ToAx64 (BitVec.ofNat 32 (wordAt tile.sram (64 * addr.toNat + 4 * i) 4))
        else Num.toAx64 (Num.ofAx64 (BitVec.ofNat 64 (wordAt tile.sram (64 * addr.toNat + 8 * i) 8)))
      .done ((x.die.setMtile t { tile with acc := accUpdate tile.acc a (fun i => some (at_ i)), work := rest }).accWritten t
        (inTile a))
  | .drn a fp32 clr dst addr id =>
    match x.die.accBad t (inTile a) with
    | some b => .detected b.1 b.2
    | none =>
      let rows := drainRows tile.acc a fp32 addr.toNat
      let left := if clr then accUpdate tile.acc a (fun _ => some 0) else tile.acc
      if dst = 0 then
        let d := x.die.setMtile t { tile with acc := left, work := rest }
        .done (rows.foldl (fun d r => d.writeMem t r.1 r.2) d)
      else
        let d := x.die.setMtile t { tile with acc := left, work := .entry { e with started := true } :: rest }
        if dst = 1 then
          match d.issueWrites 1 t (a / 8) (if id = 12 then 20 else 8 + id) rows now with
          | none => .fault .faultCredit
          | some d => .done d
        else
          .done { d with pushes := d.pushes ++ rows.zipIdx.map (fun r =>
            ⟨t, a / 8, if fp32 then .fpRow else .axRow, pushWords r.1.2, clock + 3 + r.2⟩) }
  | _ => .hold

/-- The oldest unfinished work of a bank, when it is an entry that has not started (R72). -/
def Die.nextEntry (d : Die) (t bank : Nat) : Option AccEntry :=
  match (d.liveWork t).find? (fun w => w.banks.contains bank) with
  | some (.entry e) => if e.started then none else some e
  | _ => none

/-- The oldest entry of the bank starts once the array instructions into its tile are complete and the bank's earlier entries
and spills have finished (R72). -/
def State.startEntry (s : State) (x : Site) (t bank : Nat) : State :=
  let tile := x.die.mtile t
  match x.die.nextEntry t bank with
  | none => s
  | some e =>
    if x.die.stopped ∨ tile.inFlight e.tile then s
    else s.apply x id (entryEffect x t tile e x.part.run.clock x.part.run.elapsed)

/-- ACCUMULATOR_ENTRY_START (R72). -/
def execAccumulatorEntryStart (t : MRef) (bank : Fin 2) (s : State) : Out :=
  match s.site t.part t.die with
  | none => .next s
  | some x => .next (s.startEntry x t.tile bank)

/-- The first spill of the work whose banks no earlier work takes (R72, R522). -/
def nextSpill (taken : List Nat) : List BankWork → Option Hold
  | [] => none
  | .entry e :: rest => nextSpill (e.tile / 8 :: taken) rest
  | .spill h :: rest =>
    if (BankWork.spill h).banks.any taken.contains then nextSpill ((BankWork.spill h).banks ++ taken) rest else some h

/-- An array instruction into the hold is not complete (R75). -/
def MTile.filling (x : MTile) (h : Hold) : Bool := x.flights.any (fun f => f.cells && f.tiles.any (fun a => h.names a))

/-- A hold written back, each held half to its own tile (R75, R522). -/
def MTile.writeBack (x : MTile) (h : Hold) : MTile :=
  let half (lo : Bool) (e : Nat) : Option W64 :=
    if decide (e % 128 < 64) = lo then some (Sparse.getD 0 h.sums e) else none
  { x with acc := accUpdate (accUpdate x.acc h.left (half true)) h.right (half false) }

/-- The accumulator words that a hold's spill writes (R522). -/
def Hold.writes (h : Hold) (w : Nat) : Bool := if w % 128 < 64 then inTile h.left w else inTile h.right w

/-- The next spill of the tile runs once the last instruction into the hold is complete and its banks' earlier work has
finished (R72, R75). -/
def Die.spillOne (d : Die) (t : Nat) : Die :=
  match nextSpill [] (d.liveWork t) with
  | none => d
  | some h =>
    let x := d.mtile t
    if x.filling h then d
    else (d.setMtile t { x.writeBack h with work := (d.liveWork t).erase (.spill h) }).accWritten t h.writes

/-- SPILL (R75). -/
def execSpill (t : MRef) (s : State) : Out :=
  match s.site t.part t.die with
  | none => .next s
  | some x => .next (s.putDie x (x.die.spillOne t.tile))

/-- The oldest array instruction's results placed in its accumulator tiles (R70). -/
def MTile.landOne (x : MTile) : MTile :=
  match x.flights with
  | [] => x
  | f :: rest =>
    let acc := if f.cells then x.acc
      else f.tiles.foldl (fun a i => accUpdate a i (fun e => Sparse.get? f.values e)) x.acc
    { x with acc, flights := rest }

/-- The accumulator words that the oldest array instruction's results are written to. -/
def MTile.lands (x : MTile) (w : Nat) : Bool :=
  match x.flights with
  | [] => false
  | f :: _ => !f.cells && f.tiles.contains (w / tileElems) && (Sparse.get? f.values (w % tileElems)).isSome

/-- The oldest array instruction's results placed, with the parity of the words written (R70, R135). -/
def Die.landOne (d : Die) (t : Nat) : Die :=
  let x := d.mtile t
  (d.setMtile t x.landOne).accWritten t x.lands

/-- ARRAY_RESULT_READY (R70). -/
def execArrayResultReady (t : MRef) (s : State) : Out :=
  match s.site t.part t.die with
  | none => .next s
  | some x => .next (s.putDie x (x.die.landOne t.tile))

/-- A die whose tile `t` has completed every issued array instruction, turned its hold over to a spill and marked its cells empty
(R75, R79). -/
def Die.settleArrays (d : Die) (t : Nat) : Die :=
  let d := foldRange (d.mtile t).flights.length d (fun d _ => d.landOne t)
  d.setMtile t { (d.mtile t).displace with held := none }

end Sys2Proof.Machine
end

