-- ==== Sys2Proof/Machine/Mesh.lean ====
section
/-! DEFINITION. The mesh, the physical links, flits on their way between routers, and nominal fabric energies
(spec/01_module_overview.md R19, R520, spec/06_fabric_and_patterns.md R149–R151, R164, R178, R353,
spec/16_host_link_and_security.md R474). -/

namespace Sys2Proof.Machine

/-! ### The logical mesh -/

/-- The side a flit enters by when it left by side `o` (N 0, E 1, S 2, W 3). -/
def opposite (o : Nat) : Nat := (o + 2) % 4

/-- The neighbouring position toward side `o`, inside the current mesh (R12, R453). -/
def State.neighbour (s : State) (c r o : Nat) : Option (Nat × Nat) :=
  match o with
  | 0 => if r + 1 < s.meshH then some (c, r + 1) else none
  | 1 => if c + 1 < s.meshW then some (c + 1, r) else none
  | 2 => if 0 < r then some (c, r - 1) else none
  | _ => if 0 < c then some (c - 1, r) else none

/-- Columns that a south or north rim die spans (R19). -/
def Part.span : Part → Nat
  | .gq4_064 => 16
  | .gq4_128 => 8
  | .gq4_256 => 4

/-- The rim die and edge port beyond side `o` of position (c, r) (R19, R306, R520). -/
def State.edgeOf (s : State) (c r o : Nat) : Option (Nat × Nat) :=
  let w := Part.span s.part
  let g := s.row0 + r
  match o with
  | 0 => if s.row0 + s.meshH = s.part.rows then some (8 + c / w, c % w) else none
  | 1 => some (4 + g / 4, g % 4)
  | 2 => if s.row0 = 0 then some (c / w, c % w) else none
  | _ => some (12 + g / 4, g % 4)

/-- The die and input side that edge port `port` of rim `k` faces. -/
def State.facing (s : State) (k port : Nat) : Option (Nat × Nat × Nat) :=
  let w := Part.span s.part
  let i := k % 4
  let row := 4 * i + port
  match k / 4 with
  | 0 => if s.row0 = 0 then some (w * i + port, 0, 2) else none
  | 1 => if s.row0 ≤ row ∧ row < s.row0 + s.meshH then some (s.meshW - 1, row - s.row0, 1) else none
  | 2 => if s.row0 + s.meshH = s.part.rows then some (w * i + port, s.meshH - 1, 0) else none
  | _ => if s.row0 ≤ row ∧ row < s.row0 + s.meshH then some (0, row - s.row0, 3) else none

/-! ### The physical links -/

/-- Group and physical column of a skein's absolute node number (R191). -/
def skeinOf (n : Nat) : Nat × Nat := ((n - 32) / 18, (n - 32) % 18)

/-- The node number is that of a skein that the part carries. -/
def Part.fitsSkein (p : Part) (n : Nat) : Bool :=
  let (g, c) := skeinOf n
  decide (32 ≤ n) && decide (g < p.rows) && decide (c < p.groupSkeins g)

/-- The node number is that of a rim die that the part carries (R19, R191). -/
def Part.fitsRim (p : Part) (n : Nat) : Bool := decide (1 ≤ n) && decide (n ≤ 16) && p.hasRim (n - 1)

/-- Two skeins with a link between them (R150): up to three columns apart in a row, up to two in adjacent rows. -/
def skeinsLinked (a b : Nat) : Bool :=
  let (ga, ca) := skeinOf a
  let (gb, cb) := skeinOf b
  let dc := (ca - cb) + (cb - ca)
  let dr := (ga - gb) + (gb - ga)
  (dr == 0 && decide (1 ≤ dc ∧ dc ≤ 3)) || (dr == 1 && decide (dc ≤ 2))

/-- Rim die `k` has a link to a skein (R19, R150, R520): on the west and east sides to the three columns at that edge of the rows
it spans, on the south and north sides to the physical columns that can serve the logical columns it spans (log entry 100). -/
def Part.rimLinked (p : Part) (k n : Nat) : Bool :=
  let (g, c) := skeinOf n
  let w := Part.span p
  let lo := w * (k % 4)
  let near : Bool := decide (lo ≤ c ∧ c < lo + w + p.budget g)
  match k / 4 with
  | 0 => g == 0 && near
  | 1 => g / 4 == k % 4 && decide (p.groupSkeins g ≤ c + 3)
  | 2 => g + 1 == p.rows && near
  | _ => g / 4 == k % 4 && decide (c ≤ 2)

/-- The edge chain from hub to hub, of the dies that the part carries (R474). -/
def Part.chain (p : Part) : List Nat :=
  0 :: ([1, 0, 12, 13, 14, 15, 8, 9, 10, 11, 7, 6, 5, 4, 3, 2].filter p.hasRim).map rimNode ++ [0]

/-- Two nodes are neighbours on the edge chain; the hub's own links are those of the chain (R19, R474). -/
def Part.chained (p : Part) (a b : Nat) : Bool :=
  ((Part.chain p).zip ((Part.chain p).drop 1)).any (fun e => (e.1 == a && e.2 == b) || (e.1 == b && e.2 == a))

/-- A physical link of the part joins the two nodes (R19, R150, R188, R474). -/
def Part.linked (p : Part) (a b : Nat) : Bool :=
  if Part.fitsSkein p a then
    if Part.fitsSkein p b then skeinsLinked a b else Part.fitsRim p b && Part.rimLinked p (b - 1) a
  else if Part.fitsSkein p b then Part.fitsRim p a && Part.rimLinked p (a - 1) b
  else Part.chained p a b

/-- Fewest links between two skeins (R150). -/
def skeinHops (a b : Nat) : Nat :=
  let (ga, ca) := skeinOf a
  let (gb, cb) := skeinOf b
  let dr := (ga - gb) + (gb - ga)
  let dc := (ca - cb) + (cb - ca)
  dr + ceilDiv (dc - 2 * dr) 3

/-! ### Flits on their way -/

/-- A flit enters an input of die `d`. -/
def Partition.arrive (x : Partition) (d side beat : Nat) (f : Flit) : Partition :=
  let y := x.die d
  x.setDie d { y with inputs := y.inputs ++ [⟨side, beat, f⟩] }

/-- A flit that enters the router at (c, r) by side `side` at `beat`: of a die of the partition, or of another partition's die,
which it crosses (R149, R184). -/
def State.enter (x : Partition) (c r side beat residue : Nat) (f : Flit) : Partition :=
  match x.dieAt c r with
  | some d => x.arrive d side beat f
  | none => { x with crossing := x.crossing ++ [⟨c, r, side, beat, residue % 64, f⟩] }

/-- A flit leaves a router toward side `o`: two beats later it enters the next router or rim edge router (R149). -/
def State.sendOn (s : State) (x : Partition) (c r o beat residue : Nat) (f : Flit) : Partition :=
  match s.neighbour c r o with
  | some (c', r') => State.enter x c' r' (opposite o) (beat + 2) (residue + 2) f
  | none =>
    match s.edgeOf c r o with
    | some (k, port) => { x with edge := x.edge ++ [⟨k, port, beat + 2, f⟩] }
    | none => x

/-- The outputs by which a flit of the leases' holder leaves another partition's router (R178). -/
def crossLinks (leases : List Lease) (c r residue : Nat) : List Nat :=
  (leases.filter (fun l => l.col == c && l.row == r && decide (l.link ≤ 3) && l.residue == residue % 64)).map (·.link)

/-- The flits that entered other partitions' routers before beat `now` of the partition's schedule leave them by the leases of
their residues (R149, R184). -/
def State.crossed (s : State) (x : Partition) (now : Nat) : Partition :=
  if x.crossing.isEmpty then x
  else
    let leases := match x.pattern? with | some q => q.leases | none => []
    (x.crossing.filter (fun k => decide (k.beat < now))).foldl (fun y k =>
      (crossLinks leases k.col k.row k.residue).foldl (fun y o => s.sendOn y k.col k.row o k.beat k.residue k.flit) y)
      { x with crossing := x.crossing.filter (fun k => !decide (k.beat < now)) }

/-- Links that a path may cross. -/
def pathFuel : Nat := 64

/-- A flit leaves output `o` of die `d` in the current beat (R149). -/
def State.leave (s : State) (x : Partition) (d o : Nat) (f : Flit) : Partition :=
  let (c, r) := x.position d
  s.sendOn x c r o x.run.clock x.run.beat f

/-! ### Nominal energies -/

/-- The fabric events of R164's table. -/
inductive FabricEvent where
  | link | output | splice | delivery | routerBeat | tetherHop
  deriving DecidableEq, Repr

/-- Nominal energy of a fabric event, in units of 0.01 nJ (R164). -/
def FabricEvent.energy : FabricEvent → Nat
  | .link => 246
  | .output => 35
  | .splice => 40
  | .delivery => 60
  | .routerBeat => 2
  | .tetherHop => 2

end Sys2Proof.Machine
end

