-- ==== Sys2Proof/Machine/Tick.lean ====
section
/-! DEFINITION. What a beat does by passing (log entry 2): time, wires, schedule counters, activity levels, credits and
token buckets, calibration windows (spec/03_matrix_tiles.md R80–R84, spec/06_fabric_and_patterns.md R194–R200, spec/14_power_and_energy.md R426,
spec/09_stack_memory.md R272, R273, spec/10_streams_prefetch_gather.md R308, spec/12_partitions_and_contexts.md R379). -/

namespace Sys2Proof.Machine

/-! ### Wires -/

/-- A wire after one beat (R194, R196, R201): its history, how long it has been raised without a break (as a whole, and for the
bound of R201, which leaves out round-start holds), the sources that leave it, and the re-entry beats that run out. -/
def Wires.tick (w : Wires) : Wires :=
  let re : Bool := 0 < w.reEntry
  let w := { w with hist := (w.hist <<< 1) ||| (if w.raised then 1 else 0),
                    reHist := (w.reHist <<< 1) ||| (if re then 1 else 0),
                    beats := if w.raised then w.beats + 1 else 0,
                    since := if w.sources.all Source.isRoundStart then none else w.since, reEntry := w.reEntry - 1 }
  let w := w.leaving.foldl (fun w y => w.without y) w
  if re ∧ w.reEntry = 0 then { w with sources := [] } else w

/-! ### Credits and buckets -/

/-- Units of the ledger's exact credit in one µJ (R426): 1,024 shares × 7,000 time units. -/
def creditUnit : Nat := 7168000

/-- Depth of the partition's credit (R426): twice the largest estimate of the running context's pattern. -/
def Partition.depth (x : Partition) : Nat :=
  match x.pattern? with
  | none => 0
  | some q => 2 * creditUnit * (q.estimates.map (·.1)).foldl max 0

/-- Accrual of one beat (R426), under the limit that was in force when the beat before ended. -/
def State.accrue (s : State) (x : Partition) : Partition :=
  { x with credit := min (x.depth : Int) (x.credit + x.share * ((s.beatLimit : Int) - s.overhead) * s.beatTime) }

/-- The bucket of rim `k` after one beat (R308): the owner's remote share of 40 transactions per ns. -/
def State.refillBucket (s : State) (k : Nat) (r : Rim) : Rim :=
  match s.rimOwner k with
  | none => r
  | some (_, x) => { r with tokens := min bucketDepth (r.tokens + 40 * x.split.2.2 * s.beatTime) }

/-! ### Calibration (R272, R273) -/

/-- A slack window of stack index `i` is open in the partition's current beat (R272). -/
def Partition.slackOpen (x : Partition) (q : Pattern) (i : Nat) : Bool :=
  x.run.phase == .round && q.dies.any (fun d => d.cal.any (fun w =>
    w.stack == i && w.table == q.table x.run.entry && decide (w.beat ≤ x.run.beat) && decide (x.run.beat < w.beat + w.len)))

/-- A slack window of rim `k` is open now. -/
def State.slackAt (s : State) (k : Nat) : Bool :=
  match s.rimOwner k with
  | none => false
  | some (_, x) =>
    match x.pattern?, x.stackIndex k with
    | some q, some i => x.slackOpen q i
    | _, _ => false

/-- A rim's calibration after one beat: when the open window opened; a forced one stops the rim 24 beats after its belay rose, and a
calibration begins once no transaction is in flight. -/
def State.calibrationBeat (s : State) (k : Nat) (r : Rim) : Rim :=
  let now := s.time + s.beatTime
  let halted := r.halted || r.forced.any (fun t => decide (t + 24 * s.beatTime ≤ now))
  { r with halted, windowSince := if s.slackAt k then some (r.windowSince.getD s.time) else none,
           calibrating := if halted && r.calibrating.isNone && r.outstanding.isEmpty then some now else r.calibrating }

/-- The most that a forced calibration's belay lasts: 2 µs. -/
def forcedLimit : Nat := 14000

/-- End a rim's calibration: a forced one's belay drops, and what waits for the stack goes on. -/
def State.endCalibration (s : State) (k : Nat) : State :=
  let r := s.rim k
  let s := s.setRim k ({ r with calibrating := none, forced := none, halted := false, lastCalibration := s.time } : Rim).drain
  match s.rimOwner k with
  | none => s
  | some (p, _) => s.dropBoth p (.calibration k)

/-- End the forced calibrations whose belay has lasted as long as it may. -/
def State.endForced (s : State) : State :=
  (s.rims.filter (fun e => e.2.forced.any (fun t => decide (t + forcedLimit ≤ s.time)))).foldl
    (fun t e => t.endCalibration e.1) s

/-! ### The beat -/

/-- Add to a counter of the partition and of its running context (R379). -/
def Partition.countRunning (x : Partition) (i n : Nat) : Partition :=
  match x.running with
  | none => x.countOwn i n
  | some c => x.count c i n

/-- Frozen beats of a `RUN_STEPS` interval (R405). -/
def Partition.addBelay (x : Partition) : Partition :=
  match x.running? with
  | some (c, v) =>
    match v.steps with
    | some q => x.setContext c { v with steps := some { q with belay := q.belay + 1 } }
    | none => x
  | none => x

/-- One frozen beat of a partition (R195, R196, R379); the beats of a switch hold are the partition's alone. -/
def Partition.frozenBeat (x : Partition) (reEntry : Bool) : Partition :=
  let n := x.run.frozenBeats + 1
  let x := { x with run := { x.run with frozenBeats := n },
                    dies := Sparse.mapVals (fun _ d => d.frozenLevels n reEntry) x.dies }
  if x.run.holds.contains .switch then x.countOwn belayBeats 1 else (x.countRunning belayBeats 1).addBelay

/-- One unfrozen beat of a partition (R165, R379); a hold for credit is measured over every such beat, in a round or not (R134). -/
def State.liveBeat (s : State) (x : Partition) : Partition :=
  let x := { x with dies := Sparse.mapVals (fun _ d => d.levels) x.dies,
                    run := { x.run with elapsed := x.run.elapsed + s.beatTime } }
  match x.run.phase, x.pattern? with
  | .round, some q =>
    if x.run.beat < q.length x.run.entry then
      let r := x.run
      let x := s.crossed x (r.clock + 1)
      ({ x with run := { r with beat := r.beat + 1, clock := r.clock + 1, stepBeat := r.stepBeat + 1 } }).countRunning activeBeats 1
    else x
  | _, _ => x

/-- A context has a commanded step that has not completed, and waits for no host transfer (R361). -/
def Context.wantsRun (v : Context) : Bool :=
  v.pattern.isSome && v.steps.isSome && !v.seq.waiting && v.checkpoint.isNone

/-- The partition idles for an eviction (R367, R379): one is under way, and the running context has nothing to run. -/
def Partition.idlesForEviction (x : Partition) : Bool :=
  x.evicting.isSome && x.run.phase != .round && !(x.running?.any (fun e => e.2.wantsRun))

/-- A partition after one beat; beats in which it idles for an eviction count as belay of its own (R379). -/
def State.partitionBeat (s : State) (p : Nat) (x : Partition) : Partition :=
  let x := s.accrue { x with dies := Sparse.mapVals (fun _ d => d.clearSyncs.visibleStores (s.beat + 1)) x.dies }
  if s.frozen p then
    x.frozenBeat ((s.wire p).reHist.getLsbD 23 || (s.wire 16).reHist.getLsbD 23)
  else
    let y := s.liveBeat x
    if x.idlesForEviction then y.countOwn belayBeats 1 else y

/-- The partition lets the clock change (R434): nothing of it runs, or it waits in its hold, and no switch, resync, table phase
or teardown is in progress. -/
def State.clockReady (s : State) (p : Nat) (x : Partition) : Bool :=
  let idle : Bool := match x.running?, x.pattern? with
    | some (_, v), some q => x.run.phase != .round && (!v.wantsRun || v.steps.isNone || q.rounds.isEmpty)
    | _, _ => true
  let held : Bool := x.run.holds.contains .clock && s.frozen p
  (idle || held) && !x.teardown && x.response.resync.isEmpty && !x.run.holds.contains .switch
    && (match x.running? with | some (_, v) => !v.seq.waiting | none => true)

/-- Time of a change of clock point (R434): 20 µs. -/
def clockTime : Nat := 20 * usec

/-- Since when the decided change is under way: every partition lets it. -/
def State.clockUnderWay (s : State) : Option Nat :=
  if s.clockPending && s.partitions.all (fun e => s.clockReady e.1 e.2) then some (s.clockFrom.getD s.time) else none

/-- The module after one beat; before power-good no beat passes (R418, R419). Stage 3 follows stage 2 (R477; log entry 32). -/
def State.tick (s : State) : State :=
  if s.power ≠ .good then s
  else
    let transit := (s.wire 16).freezes
    State.endForced { s with
      time := s.time + s.beatTime, beat := s.beat + 1, beatLimit := s.plim, clockFrom := s.clockUnderWay,
      stage := if s.stage = .link then .background else s.stage,
      transitBeat := if transit then s.transitBeat else s.transitBeat + 1,
      spares := { s.spares with powered := s.spares.powered + s.beatTime },
      partitions := Sparse.mapVals s.partitionBeat s.partitions,
      rims := Sparse.mapVals (fun k r => s.calibrationBeat k (s.refillBucket k r)) s.rims,
      wires := Sparse.mapVals (fun _ w => w.tick) s.wires }

end Sys2Proof.Machine
end

