-- ==== Sys2Proof/Machine/Stack.lean ====
section
/-! DEFINITION. Stack units as a partition reads and writes them: the rim cache,
encryption, spans and translation, and the chunks a context has written (spec/09_stack_memory.md R254–R256, R262, R263,
R267, R274–R277, R287, spec/12_partitions_and_contexts.md R358–R360, R368). -/

namespace Sys2Proof.Machine

/-- Units of one stack (R252): 128 GiB of 64 B. -/
def stackUnits : Nat := 2 ^ 31

/-- Units of 1 MiB. -/
def mibUnits : Nat := 16384

/-- Span size in MiB with `n` slots (R358). -/
def spanMib (n : Nat) : Nat := 64 * ((131072 - 2752 * n) / (64 * n))

/-- Units of one span of the partition. -/
def Partition.spanUnits (x : Partition) : Nat := spanMib x.slots * mibUnits

/-- The slot that a context owns while it is resident or moves. -/
def Context.slot? (v : Context) : Option Nat :=
  match v.place with
  | .resident j => some j
  | .moving j _ => some j
  | .out _ => none

/-! ### Energy (R287) -/

/-- The stack and rim events of R287. -/
inductive StackEvent where
  | read | write | calibration | cacheHit | operation | finalize
  deriving DecidableEq, Repr

/-- Their nominal energy, in units of 0.01 nJ; the write that a `FINALIZE` makes comes on top. -/
def StackEvent.energy : StackEvent → Nat
  | .read => 190
  | .write => 210
  | .calibration => 200000
  | .cacheHit => 30
  | .operation => 55
  | .finalize => 80

/-- Nominal background energy of a stack over `t` units of 1/7 ns, in units of 1/70 nJ: 5.2 W. -/
def stackBackground (t : Nat) : Nat := 52 * t

/-! ### One unit of a rim -/

/-- Set of a unit in the rim cache (R274). -/
def cacheSet (u : Nat) : Nat := u % 262144

/-- The 64 bytes of a unit as the stack holds them; a byte that nothing has written since the key was taken is free
(R263; log entry 3). -/
def Rim.stackBytes (r : Rim) (u : Nat) : List Byte :=
  (List.range 64).map (fun i => (Sparse.get? r.stack (64 * u + i)).getD (Config.stackByte (r.key.getD 0) (64 * u + i)))

/-- The line of the cache that holds a unit. -/
def Rim.line? (r : Rim) (u : Nat) : Option CacheLine := r.cache.find? (fun l => l.unit == u)

/-- What a read of a unit that misses the cache returns: the last write that waits for the unit, else what the stack holds (R268,
R276). -/
def Rim.below (r : Rim) (u : Nat) : List Byte :=
  match (r.writes.filter (fun w => w.unit == u)).getLast? with
  | some w => w.data
  | none => r.stackBytes u

/-- What a read of a unit returns (R276). -/
def Rim.unitBytes (r : Rim) (u : Nat) : List Byte :=
  match r.line? u with
  | some l => l.data
  | none => r.below u

/-- The 64 bytes of a unit as its stack holds them: the plain bytes under the key pair with the unit address as tweak (R262). -/
def Rim.cipherUnit (r : Rim) (u : Nat) : Option (List Byte) :=
  r.key.map (fun k => Config.xtsEncrypt k (BitVec.ofNat 128 u) (r.stackBytes u))

/-! ### The cache -/

/-- Put a line at the most recently used place of its set; the set's least recently used line leaves when more than `ways`
are held, and is written back when dirty (R274, R277). -/
def Rim.insertLine (r : Rim) (ways : Nat) (l : CacheLine) : Rim :=
  let others := r.cache.filter (fun o => o.unit != l.unit)
  let same := others.filter (fun o => cacheSet o.unit == cacheSet l.unit)
  if same.length < ways then { r with cache := l :: others }
  else match same.getLast? with
    | none => { r with cache := l :: others }
    | some old =>
      let r := { r with cache := l :: others.filter (fun o => o.unit != old.unit) }
      if old.dirty then r.sendWrite 8 old.unit old.data else r

/-- A read of a unit: its bytes, and the cache after it (R274, R276). -/
def Rim.readUnit (r : Rim) (ways u : Nat) (cacheable : Bool) : List Byte × Rim :=
  match r.line? u with
  | some l => (l.data, r.insertLine ways l)
  | none =>
    let r := r.drainFor u
    let bs := r.below u
    (bs, if cacheable then r.insertLine ways ⟨u, false, bs⟩ else r)

/-- A write of a whole unit by requester `req` (R274, R276). -/
def Rim.writeUnit (r : Rim) (ways req u : Nat) (cacheable : Bool) (bs : List Byte) : Rim :=
  match r.line? u with
  | some _ => r.insertLine ways ⟨u, true, bs⟩
  | none => if cacheable then r.insertLine ways ⟨u, true, bs⟩ else r.sendWrite req u bs

/-- Write a dirty line back and keep it (R277, R278). -/
def Rim.flushUnit (r : Rim) (u : Nat) : Rim :=
  match r.line? u with
  | some l =>
    if l.dirty then
      ({ r with cache := r.cache.map (fun o => if o.unit == u then { o with dirty := false } else o) } : Rim).sendWrite 8 u l.data
    else r
  | none => r

/-- A remote-path transaction takes a token where one is left (R308). -/
def Rim.takeToken (r : Rim) : Rim := { r with tokens := r.tokens - 700 }

/-! ### Units of a span -/

/-- Ways of the rim's cache in cache mode (R275). -/
def Partition.ways (x : Partition) : Nat := 16 - x.reductionWays

/-- Rim and stack unit of unit `u` of the span that slot `j` owns on stack index `i` (R359); none beyond the partition's
stacks or the span. -/
def Partition.place (x : Partition) (j i u : Nat) : Option (Nat × Nat) :=
  match x.stackRims[i]? with
  | none => none
  | some k => if u < x.spanUnits then some (k, j * x.spanUnits + u) else none

/-- Read unit `u` of stack index `i` of the context's span; a stopped stack delivers no data, and what stands in its place is free
(R265). -/
def State.spanUnit (s : State) (p c i u : Nat) : List Byte × State :=
  match s.partition? p with
  | none => (List.replicate 64 0, s)
  | some x =>
    match (x.context? c).bind Context.slot? with
    | none => (List.replicate 64 0, s)
    | some j =>
      match x.place j i u with
      | none => (List.replicate 64 0, s)
      | some (k, v) =>
        if (s.rim k).thermal = .stopped then s.freeBytes 64
        else
        let (bs, r) := (s.rim k).readUnit x.ways v false
        (bs, (s.setRim k r.takeToken).setPartition p (x.count c stackReadBytes 64))

/-- Note the 64 MiB chunk of a span that a write touches (R368). -/
def Context.touch (v : Context) (i u : Nat) : Context :=
  let e := (i, u / (64 * mibUnits))
  if v.chunks.contains e then v else { v with chunks := v.chunks ++ [e] }

/-- Write unit `u` of stack index `i` of the context's span; a stopped stack takes none (R265). -/
def State.writeSpanUnit (s : State) (p c i u : Nat) (bs : List Byte) : State :=
  match s.partition? p with
  | none => s
  | some x =>
    match x.context? c with
    | none => s
    | some v =>
      match v.slot? with
      | none => s
      | some j =>
        match x.place j i u with
        | none => s
        | some (k, w) =>
          if (s.rim k).thermal = .stopped then s
          else
          let x := (x.setContext c (v.touch i u)).count c stackWriteBytes 64
          (s.setRim k ((s.rim k).writeUnit x.ways 9 w false bs).takeToken).setPartition p x

/-- Read `n` bytes from partition stack address `a` (R254) of the context's span. -/
def State.spanBytes (s : State) (p c a n : Nat) : List Byte × State :=
  let first := a / 64
  let units := if n = 0 then 0 else (a + n - 1) / 64 + 1 - first
  let r := foldRange units (([] : List Byte), s) (fun acc i =>
    let u := first + i
    let (bs, t) := acc.2.spanUnit p c (u / stackUnits) (u % stackUnits)
    (acc.1 ++ bs, t))
  ((r.1.drop (a % 64)).take n, r.2)

/-- Write bytes from partition stack address `a` of the context's span; a unit covered in part keeps its other bytes. -/
def State.writeSpanBytes (s : State) (p c a : Nat) (bs : List Byte) : State :=
  let first := a / 64
  let units := if bs.isEmpty then 0 else (a + bs.length - 1) / 64 + 1 - first
  foldRange units s (fun t i =>
    let u := first + i
    let at_ := 64 * u
    if a ≤ at_ ∧ at_ + 64 ≤ a + bs.length then
      t.writeSpanUnit p c (u / stackUnits) (u % stackUnits) ((bs.drop (at_ - a)).take 64)
    else
      let (old, t) := t.spanUnit p c (u / stackUnits) (u % stackUnits)
      let new := (List.range 64).map (fun j =>
        if a ≤ at_ + j ∧ at_ + j < a + bs.length then bs.getD (at_ + j - a) 0 else old.getD j 0)
      t.writeSpanUnit p c (u / stackUnits) (u % stackUnits) new)

end Sys2Proof.Machine
end

