-- ==== Sys2Proof/Machine/Round.lean ====
section
/-! DEFINITION. Sequencers, sync points, rounds, steps, the response to detected errors, the ledger and the belay line
(spec/04_vector_and_control_tiles.md R111, R112, R524, spec/05_scratchpads.md R137–R145,
spec/06_fabric_and_patterns.md R165–R169, R194–R202, spec/07_recompute_execution.md R205–R219,
spec/08_splice_reduction.md R227, R244–R249, spec/14_power_and_energy.md R425–R430). -/

namespace Sys2Proof.Machine

/-! ### Sequencers -/

/-- The sequencer entry that die `d` stands at, once its beat has come; a stopped die acts on none (R137, R168, R169). -/
def Site.due (x : Site) : Option SeqEntry :=
  match ((x.pat.die x.d).seqs.getD (x.pat.table x.part.run.entry) [])[x.die.seqPos]? with
  | some e => if e.beat ≤ x.part.run.beat ∧ ¬ x.die.stopped ∧ x.part.run.phase = .round then some e else none
  | none => none

/-- The die past its sequencer entry. -/
def Die.pass (d : Die) : Die := { d with seqPos := d.seqPos + 1 }

/-- Start a unit (R54, R88, R169); none when it has not reached `END`. -/
def Die.start (d : Die) (e : SeqEntry) : Option Die :=
  match e.act with
  | 0 =>
    if d.mDone e.unit then
      let t := d.mtile e.unit
      some (d.setMtile e.unit { t with prog := .start e.arg, chain := none, held := none, first := none, want := none })
    else none
  | 1 =>
    if d.vDone e.unit then
      let t := d.vtile e.unit
      some (d.setVtile e.unit { t with prog := .start e.arg })
    else none
  | _ =>
    if d.cDone e.unit then
      let c := d.core e.unit
      some (d.setCore e.unit { c with pc := 64 * e.arg, running := true, started := true, waiting := none })
    else none

/-- SEQUENCER_START (R169). -/
def execSequencerStart (d : DRef) (s : State) : Out :=
  match s.site d.part d.die with
  | none => .next s
  | some x =>
    match x.due with
    | none => .next s
    | some e =>
      if 2 < e.act then .next s
      else match x.die.start e with
        | none => .next (s.softFault d.part .faultBusyStart d.die)
        | some die => .next (s.putDie x die.pass)

/-- SEQUENCER_SIGNAL (R168, R524). -/
def execSequencerSignal (d : DRef) (s : State) : Out :=
  match s.site d.part d.die with
  | none => .next s
  | some x =>
    match x.due with
    | none => .next s
    | some e => if e.act = 3 then .next (s.putDie x (x.die.signal (e.arg % 256)).pass) else .next s

/-- SYNC_POINT (R111): a set flag is cleared; an unset one raises belay until it is set. -/
def execSyncPoint (d : DRef) (s : State) : Out :=
  match s.site d.part d.die with
  | none => .next s
  | some x =>
    match x.due with
    | none => .next s
    | some e =>
      let f := e.arg % 16
      if e.act ≠ 4 then .next s
      else if x.die.ready.getLsbD f then
        .next (s.putDie x { x.die with ready := x.die.ready &&& ~~~ (1#16 <<< f) }.pass)
      else
        .next ((s.putDie x { x.die with syncs := x.die.syncs ++ [(f, s.time)] }.pass).raise (s.wireOf d.part)
          (.sync d.part d.die f))

/-- SYNC_TIMEOUT (R112): a sync-point belay whose flag is not yet set has lasted longer than the sync timeout. -/
def execSyncTimeout (d : DRef) (flag : Fin 16) (s : State) : Out :=
  match s.siteAny d.part d.die with
  | none => .next s
  | some x =>
    if x.die.syncs.any (fun e => e.1 == flag.val && !x.die.ready.getLsbD e.1 && decide (x.pat.syncTimeout * usec < s.time - e.2)) then
      .next ((s.softFault d.part .faultSyncTimeout d.die).dropBoth d.part (.sync d.part d.die flag))
    else .next s

/-! ### The next round -/

/-- The round that follows (R166): its round-sequence entry, its repeat, and whether it begins a step. -/
def Partition.nextRound (x : Partition) (v : Context) (q : Pattern) : Option (Nat × Nat × Bool) :=
  let r := x.run
  let more (n : Nat) : Option (Nat × Nat × Bool) :=
    match v.steps with
    | some c => if c.done + n < c.total then some (0, 0, true) else none
    | none => none
  match r.phase with
  | .round =>
    if r.rep + 1 < (q.rounds.getD r.entry (0, 1)).2 then some (r.entry, r.rep + 1, false)
    else if r.entry + 1 < q.rounds.length then some (r.entry + 1, 0, false)
    else more 1
  | _ =>
    match r.restartAt with
    | some e => some (e, 0, decide (e = 0))
    | none => more 0

/-- The round in progress is the last of its step (R166). -/
def Partition.lastRound (x : Partition) (q : Pattern) : Bool :=
  x.run.phase == .round && decide (q.rounds.length ≤ x.run.entry + 1)
    && decide ((q.rounds.getD x.run.entry (0, 1)).2 ≤ x.run.rep + 1)

/-- The counted estimate of a round at the clock point in force (R425, R427). -/
def State.need (s : State) (q : Pattern) (table : Nat) : Nat :=
  let (est, stk, bg) := q.estimates.getD table (0, 0, 0)
  if s.clockLow then (est - stk) * 3 / 4 + (stk - bg) + bg * 7 / 5 else est

/-- The admission test of R427. -/
def State.admits (s : State) (x : Partition) (need : Nat) : Bool :=
  decide ((need * creditUnit : Nat) ≤ x.credit) && !x.hot && !s.inputGuard

/-- Admit a round: its need leaves the credit (R427, R431). -/
def Partition.admitRound (x : Partition) (need : Nat) : Partition :=
  { x with credit := x.credit - (need * creditUnit : Nat), estSum := x.estSum + need,
           run := { x.run with admitted := true, unreconciled := x.run.unreconciled ++ [need] } }

/-- Resident contexts that are runnable and not running (R361). -/
def Partition.runnable (x : Partition) : List (Nat × Context) :=
  x.contexts.filter (fun e =>
    (match e.2.place with | .resident _ => true | _ => false) && x.running != some e.1 && e.2.wantsRun)

/-- A switch is due (R362): the running context is blocked, or has run for its quantum, and another is runnable. -/
def State.switchDue (s : State) (x : Partition) : Bool :=
  !x.runnable.isEmpty &&
    (match x.running? with
     | none => true
     | some (_, v) => !v.wantsRun || (x.quantum != 0 && decide (x.switchedIn + x.quantum * msec ≤ s.time)))

/-- The events that keep a switch from beginning (R364). -/
def State.switchBarred (s : State) (p : Nat) (x : Partition) : Bool :=
  x.response.due || x.response.restoring || !x.response.resync.isEmpty
    || (match x.running? with | some (_, v) => v.seq.waiting | none => false)
    || ((s.wire p).sources ++ (s.wire 16).sources).any (fun y => match y with | .bindOff k => bit x.stackMask k | _ => false)

/-- The reasons other than credit for which the next round is held (R200, R246, R322, R362, R434). -/
def State.otherHolds (s : State) (p : Nat) (x : Partition) (v : Context) (q : Pattern) (newStep : Bool) :
    List HoldReason :=
  let phaseDone : Bool := x.run.phase != .round && v.seq.phaseStep == some v.step && !v.seq.waiting
  (if s.clockPending then [.clock] else [])
    ++ (if newStep ∧ ¬ x.response.resync.isEmpty then [.resync] else [])
    ++ (if newStep ∧ q.generates ∧ x.run.restartAt.isNone ∧ ¬ phaseDone then [.tablePhase] else [])
    ++ (if s.switchDue x ∧ ¬ s.switchBarred p x then [.switch] else [])

/-- The next step needs a completion entry that is not reserved yet (R387): one besides that of a step in progress. -/
def Partition.wantsEntry (x : Partition) (v : Context) (newStep : Bool) : Bool :=
  match v.steps with
  | some c => newStep && x.run.restartAt.isNone && decide (c.entries < (if x.run.phase = .round then 2 else 1))
  | none => false

/-- Reserve the completion entry of the next step where one is wanted and free. -/
def State.reserveEntry (s : State) (p c : Nat) (newStep : Bool) : Option State :=
  match s.partition? p with
  | none => some s
  | some x =>
    match x.context? c with
    | none => some s
    | some v =>
      if x.wantsEntry v newStep then
        match v.steps with
        | none => some s
        | some q =>
          let r := s.ring q.ring
          if r.free = 0 then none
          else
            let s := s.setRing q.ring { r with reserved := r.reserved + 1 }
            some (s.setPartition p (x.setContext c { v with steps := some { q with entries := q.entries + 1 } }))
      else some s

/-- Hold the next round for each of the reasons. -/
def State.holdFor (s : State) (p : Nat) (rs : List HoldReason) : State := rs.foldl (fun t r => t.holdRound p r) s

/-- Admit the next round of partition `p`. -/
def State.admitRound (s : State) (p need : Nat) : State :=
  match s.partition? p with
  | none => s
  | some x => s.setPartition p (x.admitRound need)

/-- ROUND_ADMISSION (R200, R427): 24 beats before the boundary, or at a boundary where the partition waits, the hub admits the
next round or begins its hold. -/
def execRoundAdmission (p : PartId) (s : State) : Out :=
  match s.partition? p with
  | none => .next s
  | some x =>
    match x.running? with
    | none => .next s
    | some (c, v) =>
      match v.pattern with
      | none => .next s
      | some q =>
        let near : Bool := x.run.phase != .round || decide (q.length x.run.entry ≤ x.run.beat + 24)
        if x.teardown ∨ x.run.admitted ∨ x.run.holds.contains .credit ∨ ¬ near ∨ x.response.due ∨ x.response.restoring then
          .next s
        else match x.nextRound v q with
          | none =>
            if x.lastRound q ∧ ¬ x.response.resync.isEmpty ∧ ¬ x.run.holds.contains .resync then
              .next (s.holdRound p .resync)
            else .next s
          | some (e, _, newStep) =>
            let others := s.otherHolds p x v q newStep
            let need := s.need q (q.table e)
            match s.reserveEntry p c newStep with
            | none => .next (s.holdFor p (others ++ [.ringFull, .credit]))
            | some t =>
              if others.isEmpty ∧ s.admits x need then .next (t.admitRound p need)
              else .next (t.holdFor p (others ++ [.credit]))

/-- Beats of re-entry that follow when a partition's round-start hold drops its wire (R196). -/
def State.reEntryBeats (s : State) (p : Nat) : Nat :=
  let w := s.wire p
  if 63 < w.beats ∧ w.sources.all (fun y => y == .roundStart p) then 32 else 0

/-- HELD_ROUND_ADMIT (R200, R387, R427): every other reason has ended and the test passes; the hub drops the wire, for a
partition of the transit group in the beat that lets the round start at a multiple of 64, the 24 beats to the end of the freeze
and those of re-entry counted. -/
def execHeldRoundAdmit (p : PartId) (s : State) : Out :=
  match s.partition? p with
  | none => .next s
  | some x =>
    match x.running? with
    | none => .next s
    | some (c, v) =>
      match v.pattern with
      | none => .next s
      | some q =>
        if ¬ x.run.holds.contains .credit ∨ x.run.holds.any (fun h => h != .credit && h != .ringFull)
            ∨ (s.inTransitGroup p ∧ (s.transitBeat + 24 + s.reEntryBeats p) % 64 ≠ 0) then .next s
        else match x.nextRound v q with
          | none => .next s
          | some (e, _, newStep) =>
            let need := s.need q (q.table e)
            match s.reserveEntry p c newStep with
            | none => .next s
            | some t =>
              if s.admits x need then
                .next (((t.admitRound p need).releaseRound p .ringFull).releaseRound p .credit)
              else .next s

/-! ### Round start -/

/-- The descriptor list of an engine for a layer, null descriptors filling its last hank (R297, R298). -/
def RimPattern.listOf (r : RimPattern) (layer eng : Nat) : List Descriptor :=
  match r.lists.find? (fun l => l.layer == layer && l.eng == eng) with
  | some l => l.descs ++ List.replicate ((16 - l.descs.length % 16) % 16) Descriptor.null
  | none => []

/-- An engine at the start of a layer (R218): staging discarded, and the layer's descriptors from their first. The checks already
made are of the layer's own pulls and receives (R198). -/
def Engine.begin_ (e : Engine) (list : List Descriptor) : Engine :=
  { Engine.idle with
    list, hanks := e.hanks, indices := e.indices, received := e.received, reserved := e.reserved,
    hankReserved := e.hankReserved, placeWait := e.placeWait, hankWait := e.hankWait,
    pulled := e.pulled, pulls := e.pulls, late := e.late,
    counters := { e.counters with discard := e.counters.discard + 1024 * e.staging.length } }

/-- Begin a layer at the rims of a partition (R218). -/
def State.beginLayer (s : State) (x : Partition) (q : Pattern) (l : Nat) : State :=
  x.stackRims.zipIdx.foldl (fun t e =>
    let r := t.rim e.1
    let engines := (List.range 8).map (fun n =>
      (n, (Sparse.getD Engine.idle r.ctx.engines n).begin_ ((q.rim e.2).listOf l n)))
    t.setRim e.1 { r with ctx := { r.ctx with engines, written := [] } }) s

/-- Refill the counted entries with `RSTART` (R132, R167). -/
def Die.roundRefill (d : Die) : Die :=
  let credits := d.credits.map (fun (c : Nat × Credit) =>
    if c.2.valid ∧ ¬ c.2.sched ∧ c.2.rstart then (c.1, { c.2 with credits := c.2.refill }) else c)
  Die.retryHeld { d with credits }

/-- The scale pointer at the start of a step (R227). -/
def stepScale (base half step : Nat) : Nat := base + half * (step % 2)

/-- A die at the start of a step: draw indices and splice and terminus pointers (R50, R227, R231). -/
def Die.stepStart (d : Die) (q : DiePattern) (step : Nat) : Die :=
  { d with
    m := Sparse.mapVals (fun _ t => { t with prog := { t.prog with started := false } }) d.m,
    v := Sparse.mapVals (fun _ t => { t with draw := 0, prog := { t.prog with started := false } }) d.v,
    splice := q.queues.zipIdx.foldl (fun m e =>
      if e.1.splice then
        let y := Sparse.getD SpliceState.idle m e.2
        Sparse.set m e.2 { y with scale := stepScale e.1.scaleBase e.1.scaleHalf step, summary := 0 }
      else m) d.splice,
    term := q.termini.zipIdx.foldl (fun m e =>
      if e.1.valid then
        let y := Sparse.getD TermState.idle m e.2
        Sparse.set m e.2 { y with scale := stepScale e.1.scaleBase e.1.scaleHalf step, record := 0 }
      else m) d.term,
    records := [] }

/-- What a die records in a layer's first beat (R212, R227). -/
def Die.layerRecord (d : Die) : LayerRecord :=
  { events := d.events, ready := d.ready, credits := d.credits, draws := d.v.map (fun e => (e.1, e.2.draw)),
    splice := d.splice, term := d.term }

/-- A die in the first beat of a round (R167, R212, R227). -/
def Die.roundStart (d : Die) (q : DiePattern) (step : Option Nat) (layer : Option Nat) : Die :=
  let d := { d with landed := [], seqPos := 0, slotDone := none }.roundRefill
  let d := match step with | some n => d.stepStart q n | none => d
  match layer with
  | some l => { d with records := Sparse.set d.records l d.layerRecord }
  | none => d

/-- The check at a block or phase boundary (R208): every tile done or not started, every push queue empty. A die that a
detected error stopped does no work in the step, and is left out (R137; log entry 22). -/
def Die.phaseClear (d : Die) : Bool :=
  d.stopped || (List.range 8).all (fun t => d.mDone t || !(d.mtile t).prog.started)
    && (List.range 12).all (fun v => d.vDone v || !(d.vtile v).prog.started)
    && d.pushes.isEmpty && d.queues.all (fun e => e.2.isEmpty)

/-- Change every die of a partition. -/
def Partition.mapDies (x : Partition) (f : Nat → Die → Die) : Partition :=
  foldRange x.size x (fun y d => y.setDie d (f d (y.die d)))

/-- ROUND_START (R167, R200, R205, R208, R212, R218, R227). -/
def execRoundStart (p : PartId) (s : State) : Out :=
  match s.partition? p with
  | none => .next s
  | some x =>
    match x.running? with
    | none => .next s
    | some (_, v) =>
      match v.pattern with
      | none => .next s
      | some q =>
        let r := x.run
        let over_ : Bool := r.phase != .round || decide (q.length r.entry ≤ r.beat)
        match x.nextRound v q with
        | none => .next s
        | some (e, n, newStep) =>
          if ¬ r.admitted ∨ s.frozen p ∨ ¬ r.holds.isEmpty ∨ ¬ over_ ∨ (r.phase = .round ∧ newStep)
              ∨ (s.inTransitGroup p ∧ s.transitBeat % 64 ≠ 0) then .next s
          else
            let before := q.layerOf r.entry
            let now := q.layerOf e
            let restart := r.restartAt.isSome
            let boundary : Bool := decide (0 < r.rounds) && !restart
              && (before.block != now.block || before.phase != now.phase)
            if boundary ∧ ¬ (List.range x.size).all (fun d => (x.die d).phaseClear) then
              let d := ((List.range x.size).find? (fun d => !(x.die d).phaseClear)).getD 0
              .next (s.softFault p .faultPhase d)
            else
              let layer := if newStep ∨ restart ∨ before.layer ≠ now.layer then some now.layer else none
              let step := if newStep ∧ ¬ restart then some v.step else none
              let x := x.mapDies (fun d y => y.roundStart (q.die d) step layer)
              let x := { x with
                clamps := if step.isSome then 0 else x.clamps,
                unresolved := if step.isSome then 0 else x.unresolved,
                run := { r with phase := .round, entry := e, rep := n, beat := 0, rounds := r.rounds + 1,
                                stepBeat := if step.isSome then 0 else r.stepBeat, admitted := false,
                                restartAt := none } }
              let x := match layer with
                | none => x
                | some l => { x with run := { x.run with
                    layerCounts := Sparse.set (if step.isSome then [] else x.run.layerCounts) l (x.unresolved, x.clamps) } }
              let s := s.setPartition p x
              .next (match layer with | some l => s.beginLayer x q l | none => s)

/-! ### Step end -/

/-- The `RUN_STEPS` in progress of a context, with its ring. -/
def State.stepActive (s : State) (q : StepCommand) : Option Active :=
  (s.ring q.ring).active.find? (fun a => a.entry == q.entry && a.progress == .steps)

/-- Post the completion of a step (R405); the command ends with its last. -/
def State.postStep (s : State) (q : StepCommand) (words : List W32) (last : Bool) : State :=
  match s.stepActive q with
  | none => s
  | some a =>
    if last then s.finish q.ring a .ok 0 words else s.complete q.ring a.opcode a.entry .ok 0 words

/-- STEP_END (R166, R244, R405): the step index advances and the step's completion is posted. -/
def execStepEnd (p : PartId) (s : State) : Out :=
  match s.partition? p with
  | none => .next s
  | some x =>
    match x.running? with
    | none => .next s
    | some (c, v) =>
      match v.pattern, v.steps with
      | some q, some cmd =>
        let r := x.response
        if ¬ x.lastRound q ∨ x.run.beat < q.length x.run.entry ∨ r.due ∨ r.restoring
            ∨ (x.sitsOut ∧ q.strands ≤ r.sitOut.length) then .next s
        else
          let last : Bool := decide (cmd.total ≤ cmd.done + 1)
          let words := stepWords v.step last r.sitOut r.reruns x.unresolved x.clamps cmd.belay (cmd.energy / 1000)
          let steps := if last then none
            else some { cmd with done := cmd.done + 1, entries := cmd.entries - 1, belay := 0, energy := 0 }
          let v := { v with step := v.step + 1, steps, blockedSince := if last then s.time else v.blockedSince }
          let r := { Response.none with streak := r.streak.filter (fun e => r.detected.contains e.1), resync := r.resync }
          let x := { x.setContext c v with
            response := r, run := { x.run with phase := if last then .idle else .boundary } }
          .next ((s.setPartition p x).postStep cmd words last)
      | _, _ => .next s

/-! ### The response to detected errors -/

/-- Sources that a detected error of partition `p` holds (R137, R153). -/
def Source.isDetection (p : Nat) : Source → Bool
  | .detected q _ => q == p
  | .flitCheck q _ => q == p
  | _ => false

/-- Drop every source of the kind on the partition's wire and the transit wire. -/
def State.dropWhere (s : State) (p : Nat) (f : Source → Bool) : State :=
  let go (s : State) (w : Nat) : State := ((s.wire w).sources.filter f).foldl (fun t y => t.drop w y) s
  go (go s p) 16

/-- Every die of a strand that sits out stops until the resync (R141, R244; log entry 23). -/
def Partition.sitOutStrands (x : Partition) : Partition :=
  match x.pattern? with
  | none => x
  | some q =>
    x.mapDies (fun d y => if x.response.resync.contains (q.die d).strand then { y with stopped := true } else y)

/-- ERROR_RESPONSE_DECISION (R139, R141): sit-out drops the belay; re-run keeps the wire raised as a restore hold. -/
def execErrorResponseDecision (p : PartId) (s : State) : Out :=
  match s.partition? p with
  | none => .next s
  | some x =>
    if ¬ x.response.due ∨ ¬ s.frozen p then .next s
    else if x.sitsOut then
      let x := { x with response := { x.response with due := false } }
      .next ((s.setPartition p x.sitOutStrands).dropWhere p (Source.isDetection p))
    else
      let x := { x with response := { x.response with due := false, restoring := true } }
      .next (((s.setPartition p x).raise (s.wireOf p) (.restoreHold p)).dropWhere p (Source.isDetection p))

/-- Restore the persistent regions of die `d` from their sources in the stack region (R140, R209). -/
def State.restoreRegions (s : State) (p c d : Nat) (q : Pattern) : State :=
  ((q.die d).regions.filter (fun g => g.kind == 1)).foldl (fun t g =>
    let (bs, t) := t.spanBytes p c g.src (64 * (g.limit + 1 - g.base))
    match t.partition? p with
    | none => t
    | some x => t.setPartition p (x.setDie d ((x.die d).writeMem g.mem (64 * g.base) bs))) s

/-- The restart point of R143: the round-sequence entry with which the repeated part begins. -/
def Partition.restartEntry (x : Partition) (q : Pattern) : Nat :=
  let l := q.layerOf x.run.entry
  if l.phase = 0 ∨ x.response.marker then 0
  else (q.layers.findIdx? (fun e => e.block == l.block && e.phase == 1)).getD 0

/-- A splice queue with nothing of a slice taken (R225). -/
def SpliceState.atSlice (y : SpliceState) : SpliceState := { y with pushed := [], second := false, flits := 0 }

/-- A die whose tiles have nothing in progress: no program, held write, push or part of a slice. Cores keep their place. -/
def Die.workless (d : Die) : Die :=
  { d with
    v := Sparse.mapVals (fun _ t => { t with prog := .idle }) d.v,
    m := Sparse.mapVals (fun _ t => { t with prog := .idle, flights := [], work := [], hold := none, first := none,
                                             chain := none, held := none, want := none }) d.m,
    held := [], pushes := [], queues := [], splice := Sparse.mapVals (fun _ y => y.atSlice) d.splice, syncs := [],
    stopped := false }

/-- A die with nothing of an aborted run in progress: no work of its tiles, and no flit. -/
def Die.quiet (d : Die) : Die := { d.workless with inputs := [], deliveries := [] }

/-- A die at a restart point (R143, R212, R227): recorded counts, flags, credits, draws and pointers, and nothing of the
aborted beats. -/
def Die.restart (d : Die) (layer : Nat) : Die :=
  match Sparse.get? d.records layer with
  | none => d.quiet
  | some r =>
    let d := d.quiet
    { d with
      events := r.events, ready := r.ready, splice := r.splice, term := r.term,
      credits := d.credits.map (fun (c : Nat × Credit) =>
        match Sparse.get? r.credits c.1 with
        | some o => if c.2.sched then c else (c.1, { c.2 with credits := o.credits })
        | none => c),
      v := Sparse.mapVals (fun n t => { t with draw := Sparse.getD 0 r.draws n }) d.v }

/-- Bytes of a list of units of an SRAM copied from one die to another. -/
def Die.copyUnits (to_ from_ : Die) (mem base units : Nat) : Die :=
  to_.writeMem mem (64 * base) (Mem.readBytes (from_.memory mem) (64 * base) (64 * units))

/-- Die `d` of a sat-out strand with the persistent regions and scale tables of its corresponding die (R246). Its tiles begin the
next step with nothing of the stopped one; its router keeps the flits in it, which belong to other dies or to the next round
(R138, R158). -/
def Die.resyncFrom (d other : Die) (q : DiePattern) : Die :=
  let d := (q.regions.filter (fun g => g.kind == 1)).foldl (fun d g => d.copyUnits other g.mem g.base (g.limit + 1 - g.base)) d
  let d := (q.queues.filter (fun e => e.splice)).foldl (fun d e => d.copyUnits other 20 e.scaleBase (2 * e.scaleHalf)) d
  let d := (q.termini.filter (fun e => e.valid)).foldl (fun d e => d.copyUnits other 20 e.scaleBase (2 * e.scaleHalf)) d
  d.workless

/-- RESYNC (R140, R246, R249): in the hold after a step's last round each sat-out strand takes its persistent state from the
lowest strand that did not sit out; when every strand sat out the job ends. -/
def execResync (p : PartId) (s : State) : Out :=
  match s.partition? p with
  | none => .next s
  | some x =>
    match x.running? with
    | none => .next s
    | some (c, v) =>
      match v.pattern with
      | none => .next s
      | some q =>
        let out := x.response.resync
        let ended : Bool := x.run.phase != .round || (x.lastRound q && decide (q.length x.run.entry ≤ x.run.beat))
        if out.isEmpty ∨ ¬ ended then .next s
        else match (List.range q.strands).find? (fun g => !out.contains g) with
          | none => .next (s.softFault p .strandsExhausted (Config.faultDetail 0).toNat)
          | some good =>
            let dies := (List.range x.size).filter (fun d => out.contains (q.die d).strand)
            let stopped := (List.range x.size).filter (fun d => (x.die d).stopped)
            let s := stopped.foldl (fun t d => t.restoreRegions p c d q) s
            match s.partition? p with
            | none => .next s
            | some x =>
              let x := dies.foldl (fun y d =>
                match (List.range x.size).find? (fun o => (q.die o).strand == good && (q.die o).pos == (q.die d).pos) with
                | some o => y.setDie d ((y.die d).resyncFrom (y.die o) (q.die d))
                | none => y) x
              let x := { x with response := { x.response with resync := [] } }
              .next ((s.setPartition p x).releaseRound p .resync)

/-! ### The ledger -/

/-- LEDGER_WINDOW_END (R429): the window's mean input power and voltage and the overhead, which stays below half the floor
envelope (R466; log entry 109); the guard compares the mean with the limit in force in this beat. -/
def execLedgerWindowEnd (meanW vin overheadW : Nat) (s : State) : Out :=
  if s.power ≠ .good then .next s
  else
    let guard_ := if 105 * s.beatLimit < 100 * meanW then true else if meanW ≤ s.beatLimit then false else s.inputGuard
    .next ({ s with pinW := meanW, vin, overhead := min overheadW (s.part.floorW / 2 - 1), inputGuard := guard_ }).relimit

/-- Charge measured energy in µJ to a partition, and to its running context (R379, R430). -/
def Partition.charge (x : Partition) (uj : Nat) (context : Bool) : Partition :=
  let x := { x with credit := x.credit - (uj * creditUnit : Nat) }
  if context then
    let x := x.countRunning energyUj uj
    match x.running? with
    | some (c, v) =>
      match v.steps with
      | some q => x.setContext c { v with steps := some { q with energy := q.energy + uj } }
      | none => x
    | none => x
  else x.countOwn energyUj uj

/-- Rounds that have ended and wait for reconciliation. -/
def Partition.endedRounds (x : Partition) : Nat :=
  let open_ := (if x.run.admitted then 1 else 0) +
    (match x.run.phase, x.pattern? with
     | .round, some q => if x.run.beat < q.length x.run.entry then 1 else 0
     | _, _ => 0)
  x.run.unreconciled.length - open_

/-- Charge energy measured outside admitted rounds (R379, R430): to the contexts of the saves and restores not yet charged, each up
to its nominal energy (log entry 117), and the rest as `context` says. -/
def Partition.chargeOutside (x : Partition) (uj : Nat) (context : Bool) : Partition :=
  let r := x.switchCost.foldl (fun (acc : Partition × Nat) e =>
    let n := min e.2 acc.2
    (({ acc.1 with credit := acc.1.credit - (n * creditUnit : Nat) } : Partition).count e.1 energyUj n, acc.2 - n)) (x, uj)
  ({ r.1 with switchCost := [] } : Partition).charge r.2 context

/-- RECONCILIATION (R430): an ended round's estimate less its measured energy comes back to the credit; energy measured
outside admitted rounds is subtracted. -/
def execReconciliation (p : PartId) (measuredUj : Nat) (s : State) : Out :=
  match s.partition? p with
  | none => .next s
  | some x =>
    match x.run.unreconciled with
    | need :: rest =>
      if 0 < x.endedRounds then
        let x := { x with credit := x.credit + (need * creditUnit : Nat), measSum := x.measSum + measuredUj,
                          run := { x.run with unreconciled := rest } }
        .next (s.setPartition p (x.charge measuredUj true))
      else .next (s.setPartition p (x.chargeOutside measuredUj (decide (x.run.phase ≠ .idle))))
    | [] => .next (s.setPartition p (x.chargeOutside measuredUj (decide (x.run.phase ≠ .idle))))

/-! ### The belay line -/

/-- DOMAIN_FREEZE (R194, R196): the domain's first frozen beat; each M-tile's level is its held level. -/
def execDomainFreeze (p : PartId) (s : State) : Out :=
  match s.partition? p with
  | none => .next s
  | some x =>
    if x.run.frozen ∨ ¬ s.frozen p then .next s
    else
      .next (s.setPartition p { x with
        run := { x.run with frozen := true, frozenBeats := 0 },
        dies := Sparse.mapVals (fun _ d => { d with
          m := Sparse.mapVals (fun _ t => { t with heldLevel := t.level }) d.m }) x.dies })

/-- DOMAIN_RESUME (R194, R195): the domain's first beat that is not frozen. -/
def execDomainResume (p : PartId) (s : State) : Out :=
  match s.partition? p with
  | none => .next s
  | some x =>
    if ¬ x.run.frozen ∨ s.frozen p then .next s
    else .next (s.setPartition p { x with run := { x.run with frozen := false, frozenBeats := 0 } })

/-- RE_ENTRY (R196): the hub keeps a wire that was raised for more than 63 beats up for 32 beats more. -/
def execReEntry (wire : Wire) (s : State) : Out :=
  let w := s.wire wire
  if w.sources = [.reEntry] ∧ w.reEntry = 0 then .next (s.setWire wire { w with reEntry := 32 }) else .next s

/-- The absolute node that a source stands at; none for the hub's own (R201). -/
def State.sourceNode (s : State) : Source → Option Nat
  | .detected p d | .sync p d _ => (s.partition? p).map (fun x => s.dieNode x d)
  | .flitCheck _ n => some n
  | .staging k _ | .place k _ _ | .bindOff k | .calibration k => some (rimNode k)
  | .restoreHold _ | .roundStart _ | .reEntry | .teardown _ => none

/-- BELAY_TIMEOUT (R201): 50 ms of continuous raise, round-start holds left out; the lowest node of a source is reported. -/
def execBelayTimeout (wire : Wire) (s : State) : Out :=
  let w := s.wire wire
  match w.since with
  | none => .next s
  | some t =>
    if s.time - t ≤ 50 * msec then .next s
    else
      let nodes := w.sources.filterMap s.sourceNode
      .next (s.hardFault .hwBelayTimeout (nodes.foldl min (nodes.headD 0)) 0)

end Sys2Proof.Machine
end

