-- ==== Sys2Proof/Machine/Fabric.lean ====
section
/-! DEFINITION. Routers, crossings, splice addition, termini, the tether network and the loss of links and dies
(spec/06_fabric_and_patterns.md R146–R163, R188–R193, spec/08_splice_reduction.md, spec/15_reliability_and_sparing.md
R443, R446, spec/01_module_overview.md R19, R520). -/

namespace Sys2Proof.Machine

/-! ### Splice addition -/

/-- Nibble `q` of the excess word. -/
def excAt (e : BitVec 16) (q : Nat) : Nat := bits e.toNat (4 * q + 3) (4 * q)

/-- For each block the larger of two excesses. -/
def excMax (a b : BitVec 16) : BitVec 16 :=
  BitVec.ofNat 16 (foldRange 4 0 (fun n q => n + max (excAt a q) (excAt b q) * 16 ^ q))

/-- The splice addition of R228; none when a valid operand is no BSI flit (R229). -/
def spliceAdd (a i : Flit) : Option Flit :=
  if (a.valid ∧ ¬ a.bsi) ∨ (i.valid ∧ ¬ i.bsi) then none
  else
    let v := a.valid || i.valid
    let word (k : Nat) : W32 :=
      if a.valid ∧ i.valid then bsiAdd (lane a.payload k) (lane i.payload k)
      else if a.valid then lane a.payload k
      else if i.valid then lane i.payload k
      else 0
    some { valid := v, bsi := v, count := (if a.valid then a.count else 0) + (if i.valid then i.count else 0),
           ovr := a.ovr ||| i.ovr, exc := excMax a.exc i.exc, payload := mkLanes word }

/-! ### Slot entries -/

/-- The local injection of an entry (R138, R156, R161, R162): the flit, the die with its queue moved on, and whether the
queue was empty. -/
def Die.inject (d : Die) (q : Nat) : Flit × Die × Bool :=
  if d.stopped then (.zero, d, false)
  else match Sparse.getD [] d.queues q with
    | f :: rest => (f, { d with queues := Sparse.setD [] d.queues q rest }, false)
    | [] => (.zero, d, true)

/-- What an output of a slot entry carries: none when idle, else the flit and whether a splice addition failed (R155–R157,
R163, R229). -/
def slotOutput (word o : Nat) (input : Nat → Flit) (inj : Flit) : Option (Flit × Bool) :=
  match slotSource word o with
  | 0 => none
  | 5 => if o < 4 then some (inj, false) else none
  | c =>
    if 5 < c then none
    else if slotAdds word o then
      match spliceAdd (input (c - 1)) inj with
      | some f => some (f, false)
      | none => some (.zero, true)
    else some (input (c - 1), false)

/-- SLOT_ENTRY (R155–R163): one beat of a die's router. -/
def execSlotEntry (d : DRef) (s : State) : Out :=
  match s.site d.part d.die with
  | none => .next s
  | some x =>
    let run := x.part.run
    if run.phase ≠ .round ∨ x.pat.length run.entry ≤ run.beat ∨ x.die.slotDone = some run.clock then .next s
    else
      let word := x.pat.slot x.d (x.pat.table run.entry) run.beat
      let input (side : Nat) : Flit :=
        ((x.die.inputs.find? (fun a => a.side == side && a.beat == run.clock)).map (·.flit)).getD .zero
      let (inj, die, under) := if slotInjects word then x.die.inject (slotInjection word) else (.zero, x.die, false)
      if under then .next (s.softFault d.part .faultUnderrun d.die)
      else
        let outs := (List.range 5).filterMap (fun o => (slotOutput word o input inj).map (fun f => (o, f)))
        if outs.any (fun e => e.2.2) then .next (s.softFault d.part .faultSplice d.die)
        else
          let die := { die with inputs := die.inputs.filter (fun a => decide (run.clock < a.beat)),
                                slotDone := some run.clock }
          let y := outs.foldl (fun y e =>
            if e.1 = 4 then
              let z := y.die x.d
              y.setDie x.d { z with deliveries := z.deliveries ++ [⟨run.clock + 3, slotLanding word, e.2.1⟩] }
            else s.leave y x.d e.1 e.2.1) (x.part.setDie x.d die)
          .next (s.setPartition d.part y)

/-! ### Deliveries -/

/-- Current unit of landing pointer `l` (R160): `BASE` plus the units landed since it last returned there. -/
def Die.landingAt (d : Die) (g : Landing) (l : Nat) : Nat := g.base + Sparse.getD 0 d.landed l

/-- The pointer past one delivery (R160). -/
def Die.advanceLanding (d : Die) (g : Landing) (l : Nat) : Die :=
  let n := Sparse.getD 0 d.landed l + 16
  { d with landed := Sparse.setD 0 d.landed l (if g.limit < g.base + n then 0 else n) }

/-- Write a delivered flit at unit `u`: a remote write of the fabric (R131); a zero flit writes nothing (R234). -/
def Die.deliver (d : Die) (mem u : Nat) (f : Flit) (now : Nat) : Option Die :=
  if f.valid then d.issueWrite 0 0 0 mem (64 * u) (wordBytes f.payload) now else some d

/-- A flit that lands for a terminus (R233, R241): first-pass flits land through the pointer; second-pass flits are taken
without advancing it. -/
def Die.landTerminus (d : Die) (g : Landing) (l k : Nat) (t : Terminus) (f : Flit) (clock now : Nat) : Option Die :=
  let y := Sparse.getD TermState.idle d.term k
  let past (y : TermState) : TermState :=
    { y with second := false, firstFlits := [], secondFlits := [], record := (y.record + 1) % t.recSlots,
             scale := y.scale + 4 }
  if y.second then
    let flits := y.secondFlits ++ [f]
    let y := { y with secondFlits := flits }
    let y := if t.p2 ≤ flits.length then
        past { y with whole := y.whole ++ [⟨true, clock, y.base, y.firstFlits, flits, y.record, y.scale⟩] }
      else y
    some { d with term := Sparse.set d.term k y }
  else
    let u := d.landingAt g l
    let base := if y.firstFlits.isEmpty then u else y.base
    let flits := y.firstFlits ++ [(f.valid, f.count, f.ovr, f.exc)]
    let y := { y with base, firstFlits := flits }
    let y := if 64 ≤ flits.length then
        let y := { y with whole := y.whole ++ [⟨false, clock, base, flits, [], y.record, y.scale⟩] }
        if t.p2 = 0 then past y else { y with second := true }
      else y
    (d.deliver g.mem u f now).map (fun d => { d.advanceLanding g l with term := Sparse.set d.term k y })

/-- A flit lands as the first of a slice whose four scale units do not lie wholly within the step's half of the terminus's scale
table (R227, R231). -/
def TermState.outOfHalf (y : TermState) (t : Terminus) (step : Nat) : Bool :=
  !y.second && y.firstFlits.isEmpty && decide (stepScale t.scaleBase t.scaleHalf step + t.scaleHalf < y.scale + 4)

/-- FABRIC_DELIVERY (R151, R160, R231, R234): the oldest delivery of the die whose beat has come. -/
def execFabricDelivery (d : DRef) (s : State) : Out :=
  match s.site d.part d.die with
  | none => .next s
  | some x =>
    match x.die.deliveries with
    | [] => .next s
    | e :: rest =>
      if x.part.run.clock < e.beat then .next s
      else
        let g := x.pat.landing x.d e.land
        let die := { x.die with deliveries := rest }
        let beyond : Bool := match x.pat.terminusOf x.d e.land with
          | some (k, t) => (Sparse.getD TermState.idle x.die.term k).outOfHalf t x.context.step
          | none => false
        if beyond then .next (s.softFault d.part .faultSplice d.die) else
        let done := match x.pat.terminusOf x.d e.land with
          | some (k, t) => die.landTerminus g e.land k t e.flit x.part.run.clock x.part.run.elapsed
          | none => (die.deliver g.mem (die.landingAt g e.land) e.flit x.part.run.elapsed).map
              (fun d => d.advanceLanding g e.land)
        match done with
        | some die => .next (s.putDie x die)
        | none => .next (s.softFault d.part .faultCredit d.die)

/-! ### Push queues -/

/-- Flits that a push queue holds (R161). -/
def queueFlits : Nat := 8

/-- The 64 numbers of block `q` of flit `f` of a slice, from its pushes: rows 2f and 2f + 1 in AX64, or register f in FP32
(R225). -/
def sliceBlock (ps : List Push) (ax : Bool) (f q : Nat) : List Num :=
  if ax then
    let row := (ps.getD (2 * f + q / 2) ⟨0, 0, .axRow, [], 0⟩).data
    (List.range 64).map (fun i =>
      let c := 64 * (q % 2) + i
      Num.ofAx64 (BitVec.ofNat 64 ((lane row (2 * c)).toNat + 2 ^ 32 * (lane row (2 * c + 1)).toNat)))
  else
    let reg := (ps.getD f ⟨0, 0, .reg 0, [], 0⟩).data
    (List.range 64).map (fun i => Num.ofFp32 (lane reg (64 * q + i)))

/-- A flit of four converted blocks (R226). -/
def spliceFlit (blocks : List (List BsiResult)) : Flit :=
  let over_ (q : Nat) : Bool := (blocks.getD q []).any (·.overrun)
  let exc (q : Nat) : Nat := ((blocks.getD q []).map (·.excess)).foldl max 0
  { valid := true, bsi := true, count := 1,
    ovr := BitVec.ofNat 4 (foldRange 4 0 (fun n q => n + (if over_ q then 2 ^ q else 0))),
    exc := BitVec.ofNat 16 (foldRange 4 0 (fun n q => n + exc q * 16 ^ q)),
    payload := mkLanes (fun i => (((blocks.getD (i / 64) [])[i % 64]?).map (·.value)).getD 0) }

/-- Byte `b` of the 256 bytes from a die-buffer unit. -/
def Die.bufferByte (d : Die) (unit b : Nat) : Nat := (Mem.read d.buffer (64 * unit + b)).toNat

/-- The blocks that an overrun summary selects for `P2` flits (R240). -/
def selectedBlocks (summary : Nat → Nat) (p2 : Nat) : List Nat :=
  ((List.range 256).filter (fun b => summary b != 0)).take (4 * p2)

/-- Flit `f` of a first pass (R225, R226). -/
def Die.firstFlit (d : Die) (g : SpliceQueue) (y : SpliceState) (ax : Bool) (ps : List Push) (f : Nat) : Flit :=
  spliceFlit ((List.range 4).map (fun q =>
    (sliceBlock ps ax 0 q).map (toBsi (d.bufferByte y.scale (4 * f + q)) g.h)))

/-- The `P2` flits of a second pass (R240). -/
def Die.secondFlits (d : Die) (g : SpliceQueue) (y : SpliceState) (ax : Bool) (ps : List Push) : List Flit :=
  let summary := d.bufferByte (g.sumBase + 16 * y.summary)
  let sel := selectedBlocks summary g.p2
  (List.range g.p2).map (fun j => spliceFlit ((List.range 4).map (fun q =>
    match sel[4 * j + q]? with
    | some b => (sliceBlock ps ax (b / 4) (b % 4)).map (toBsi (min 255 (d.bufferByte y.scale b + summary b)) g.h)
    | none => List.replicate 64 ⟨0, false, 0⟩)))

/-- The pointers after a slice (R227). -/
def SpliceState.nextSlice (y : SpliceState) (g : SpliceQueue) : SpliceState :=
  { pushed := [], second := false, flits := 0, scale := y.scale + 4,
    summary := if g.p2 = 0 then y.summary else (y.summary + 1) % g.sumSlots }

/-- Take one push into a splice queue (R225–R227, R238, R240): the queue's new state and the flits that enter it. -/
def Die.spliceTake (d : Die) (g : SpliceQueue) (y : SpliceState) (e : Push) : SpliceState × List Flit :=
  let ax := e.queue < 8
  let ps := y.pushed ++ [e]
  if y.second then
    if (if ax then 128 else 64) ≤ ps.length then (y.nextSlice g, d.secondFlits g y ax ps)
    else ({ y with pushed := ps }, [])
  else if ax ∧ ps.length < 2 then ({ y with pushed := ps }, [])
  else
    let f := d.firstFlit g y ax ps y.flits
    let y := { y with pushed := [], flits := y.flits + 1 }
    let y := if y.flits < 64 then y else if g.p2 = 0 then y.nextSlice g else { y with second := true, flits := 0 }
    (y, [f])

/-- The kinds of push a splice queue accepts (R225). -/
def Push.spliceKind (e : Push) : Bool := if e.queue < 8 then e.kind == .axRow else e.kind == .reg 0

/-- The scale units of a slice lie within the step's half (R227). -/
def SpliceState.inHalf (y : SpliceState) (g : SpliceQueue) (step : Nat) : Bool :=
  decide (y.scale + 4 ≤ stepScale g.scaleBase g.scaleHalf step + g.scaleHalf)

/-- The first word with bad parity of the die-buffer units that a splice queue reads when it takes a push: the slice's scales, and
for a second pass the summary (R135, R226, R240). -/
def Die.spliceBad (d : Die) (g : SpliceQueue) (y : SpliceState) : Option (Nat × Nat) :=
  (d.parityAt 20 (64 * y.scale) 256).orElse (fun _ =>
    if y.second then d.parityAt 20 (64 * (g.sumBase + 16 * y.summary)) 256 else none)

/-- The oldest push of a queue, at the far end of the crossing (R135, R161, R225–R227, R240): a push that a full queue does not take
stays there and holds its tile's pushes; second-pass flits enter the queue together (R225), and those beyond its eight places hold
them likewise. -/
def State.takePush (s : State) (x : Site) (queue : Nat) (e : Push) : State :=
  let q := Sparse.getD [] x.die.queues queue
  let die := { x.die with pushes := x.die.pushes.erase e }
  let g := x.pat.spliceQueue x.d queue
  if g.splice then
    let y := Sparse.getD SpliceState.idle x.die.splice queue
    let starts : Bool := !y.second && y.flits == 0 && y.pushed.isEmpty
    if ¬ e.spliceKind ∨ (starts ∧ ¬ y.inHalf g x.context.step) then s.softFault x.p .faultSplice x.d
    else match die.spliceBad g y with
    | some b => s.apply x id (.detected b.1 b.2)
    | none =>
      let (y, fs) := die.spliceTake g y e
      if queueFlits < q.length + min fs.length queueFlits then s
      else s.putDie x { die with splice := Sparse.set die.splice queue y,
                                 queues := Sparse.setD [] die.queues queue (q ++ fs) }
  else if queueFlits ≤ q.length then s
  else s.putDie x { die with queues := Sparse.setD [] die.queues queue (q ++ [.plain e.data]) }

/-- PUSH_ARRIVAL (R151, R161): the oldest push of a queue leaves the crossing once its beat has come. -/
def execPushArrival (d : DRef) (queue : Fin 20) (s : State) : Out :=
  match s.site d.part d.die with
  | none => .next s
  | some x =>
    match x.die.pushes.find? (fun e => e.queue == queue.val) with
    | none => .next s
    | some e => if x.part.run.clock < e.beat then .next s else .next (s.takePush x queue e)

/-! ### Termini -/

/-- The first-pass excess of block `b`, 0 where it did not overrun (R232). -/
def TermSlice.excess (t : TermSlice) (b : Nat) : Nat :=
  match t.firstFlits[b / 4]? with
  | some (true, _, ovr, exc) => if ovr.getLsbD (b % 4) then max 1 (excAt exc (b % 4)) else 0
  | _ => 0

/-- The first-pass flit of block `b` was valid. -/
def TermSlice.validBlock (t : TermSlice) (b : Nat) : Bool :=
  match t.firstFlits[b / 4]? with
  | some (v, _) => v
  | none => false

/-- The integers of block `b` at the slice's landing positions; zeros for an invalid flit (R233). -/
def Die.blockInts (d : Die) (mem : Nat) (t : TermSlice) (b : Nat) : List W32 :=
  if t.validBlock b then
    (List.range 64).map (fun i => BitVec.ofNat 32 (wordAt (d.memory mem) (64 * t.base + 256 * b + 4 * i) 4))
  else List.replicate 64 0

/-- What becomes of a block (R232, R241). -/
structure BlockEnd where
  final : Nat
  resolved : Bool
  unresolved : Bool
  k2 : Nat
  deriving DecidableEq, Repr

/-- A next-step scale before its clamp: floor(log2 m) + final − 30 + h (R235). -/
def nextRaw (m final h : Nat) : Nat :=
  let v : Int := (m.log2 : Int) + final - 30 + h
  (max 0 (min 255 v)).toNat

/-- The next-step scale of a block (R235). -/
def nextScale (ints : List W32) (s1 k1 h : Nat) (e : BlockEnd) : Nat :=
  let m := ((ints.filter (fun w => w != bsiMarker)).map (fun w => w.toInt.natAbs)).foldl max 0
  if ints.contains bsiMarker ∨ ints.all (fun w => w == 0) then s1
  else if e.unresolved then min 255 (s1 + k1 + e.k2)
  else if e.resolved then max e.final (nextRaw m e.final h)
  else nextRaw m e.final h

/-- The status byte of a block (R232). -/
def blockStatus (ints : List W32) (k1 : Nat) (e : BlockEnd) : Nat :=
  (if k1 = 0 then 0 else 1) + (if e.resolved then 2 else 0) + (if e.unresolved then 4 else 0)
    + (if ints.contains bsiMarker then 8 else 0) + (if ints.all (fun w => w == 0) then 16 else 0)

/-- Write a slice's complete record (R232): final scales, counts, status, next-step scales and summary. -/
def Die.writeRecord (d : Die) (mem : Nat) (t : Terminus) (y : TermSlice) (ends : Nat → BlockEnd) : Die :=
  let u := 64 * (t.recBase + 32 * y.record)
  let ints := (List.range 256).map (fun b => d.blockInts mem y b)
  let byte (f : Nat → Nat) : List Byte := (List.range 256).map (fun b => BitVec.ofNat 8 (f b))
  let counts := (List.range 64).flatMap (fun f =>
    leBytes 4 (match y.firstFlits[f]? with | some (true, n, _) => n | _ => 0))
  let s1 := d.bufferByte y.scale
  d.writeMem mem u (byte (fun b => (ends b).final) ++ counts
    ++ byte (fun b => blockStatus (ints.getD b []) (y.excess b) (ends b))
    ++ byte (fun b => nextScale (ints.getD b []) (s1 b) (y.excess b) t.h (ends b))
    ++ byte y.excess ++ List.replicate 768 0)

/-- Write a record's first-pass fields: the scales the pass used, counts, `OVR1` and the summary (R233). -/
def Die.writeFirst (d : Die) (mem : Nat) (t : Terminus) (y : TermSlice) : Die :=
  let u := 64 * (t.recBase + 32 * y.record)
  let byte (f : Nat → Nat) : List Byte := (List.range 256).map (fun b => BitVec.ofNat 8 (f b))
  let counts := (List.range 64).flatMap (fun f =>
    leBytes 4 (match y.firstFlits[f]? with | some (true, n, _) => n | _ => 0))
  let d := d.writeMem mem u (byte (d.bufferByte y.scale) ++ counts ++ byte (fun b => if y.excess b = 0 then 0 else 1))
  d.writeMem mem (u + 1024) (byte y.excess ++ List.replicate 768 0)

/-- The first whole pass of a terminus that waits, of the kind asked for, its four beats over. -/
def Site.wholePass (x : Site) (k : Nat) (second : Bool) : Option (Terminus × TermState × TermSlice) :=
  match (x.pat.die x.d).termini[k]? with
  | none => none
  | some t =>
    let y := Sparse.getD TermState.idle x.die.term k
    match y.whole with
    | z :: _ => if z.second = second ∧ z.beat + 4 ≤ x.part.run.clock then some (t, y, z) else none
    | [] => none

/-- The first word with bad parity that the record of a slice is made from (R135, R232, R233): the slice's scales, and where the
record is completed the slice as it landed. -/
def Die.recordBad (d : Die) (mem : Nat) (z : TermSlice) (whole : Bool) : Option (Nat × Nat) :=
  (d.parityAt 20 (64 * z.scale) 256).orElse (fun _ => if whole then d.parityAt mem (64 * z.base) 65536 else none)

/-- Count unresolved blocks of the step (R242). -/
def Partition.addUnresolved (x : Partition) (n : Nat) : Partition := { x with unresolved := x.unresolved + n }

/-- TERMINUS_FIRST_PASS (R233): the record's first-pass fields, and `EVT1`; with `P2` 0 the whole record, and `EVT2`. -/
def execTerminusFirstPass (d : DRef) (term : Fin 32) (s : State) : Out :=
  match s.site d.part d.die with
  | none => .next s
  | some x =>
    match x.wholePass term false with
    | none => .next s
    | some (t, y, z) =>
      let mem := (x.pat.landing x.d t.land).mem
      let die := { x.die with term := Sparse.set x.die.term term { y with whole := y.whole.drop 1 } }
      match x.die.recordBad mem z (t.p2 == 0) with
      | some b => .next (s.apply x id (.detected b.1 b.2))
      | none =>
      if t.p2 = 0 then
        let s1 := die.bufferByte z.scale
        let ends (b : Nat) : BlockEnd := ⟨s1 b, false, decide (z.excess b ≠ 0), 0⟩
        let n := ((List.range 256).filter (fun b => z.excess b != 0)).length
        let die := ((die.writeRecord mem t z ends).signal t.evt1).signal t.evt2
        .next (s.setPartition d.part ((x.part.setDie x.d die).addUnresolved n))
      else .next (s.putDie x ((die.writeFirst mem t z).signal t.evt1))

/-- How a block ends after the second pass (R241): packed at place `i` of the selected blocks. -/
def TermSlice.resolve (z : TermSlice) (t : Terminus) (s1 : Nat → Nat) (b : Nat) : BlockEnd :=
  let k1 := z.excess b
  if k1 = 0 then ⟨s1 b, false, false, 0⟩
  else
    match (selectedBlocks z.excess t.p2).findIdx? (fun a => a == b) with
    | none => ⟨s1 b, false, true, 0⟩
    | some i =>
      match z.secondFlits[i / 4]?, z.firstFlits[b / 4]? with
      | some f, some (_, n, _) =>
        let again : Bool := f.valid && f.ovr.getLsbD (i % 4)
        if f.valid ∧ ¬ again ∧ f.count = n then ⟨min 255 (s1 b + k1), true, false, 0⟩
        else ⟨s1 b, false, true, if again then excAt f.exc (i % 4) else 0⟩
      | _, _ => ⟨s1 b, false, true, 0⟩

/-- Write the packed blocks that resolved over their places in the slice (R241). -/
def Die.writeResolved (d : Die) (mem : Nat) (z : TermSlice) (t : Terminus) (ends : Nat → BlockEnd) : Die :=
  (selectedBlocks z.excess t.p2).zipIdx.foldl (fun d e =>
    if (ends e.1).resolved then
      match z.secondFlits[e.2 / 4]? with
      | some f => d.writeMem mem (64 * z.base + 256 * e.1) (wordBytes ((f.payload.drop (64 * (e.2 % 4))).take 64))
      | none => d
    else d) d

/-- TERMINUS_SECOND_PASS (R241, R242): resolved blocks, the complete record, and `EVT2`. -/
def execTerminusSecondPass (d : DRef) (term : Fin 32) (s : State) : Out :=
  match s.site d.part d.die with
  | none => .next s
  | some x =>
    match x.wholePass term true with
    | none => .next s
    | some (t, y, z) =>
      let mem := (x.pat.landing x.d t.land).mem
      let die := { x.die with term := Sparse.set x.die.term term { y with whole := y.whole.drop 1 } }
      match x.die.recordBad mem z true with
      | some b => .next (s.apply x id (.detected b.1 b.2))
      | none =>
      let ends := z.resolve t (die.bufferByte z.scale)
      let n := ((List.range 256).filter (fun b => (ends b).unresolved)).length
      let die := (((die.writeResolved mem z t ends).writeRecord mem t z ends).signal t.evt2)
      .next (s.setPartition d.part ((x.part.setDie x.d die).addUnresolved n))

/-! ### Check failures and losses -/

/-- The round-sequence place and beat that lie `k` beats on (R149, R158), at most one round ahead. -/
def Pattern.onward (q : Pattern) (k e n b : Nat) : Nat × Nat × Nat :=
  let l := q.length e
  if b + k < l then (e, n, b + k)
  else
    let b := b + k - l
    if n + 1 < (q.rounds.getD e (0, 1)).2 then (e, n + 1, b)
    else if e + 1 < q.rounds.length then (e + 1, 0, b) else (0, 0, b)

/-- The dies to which a flit that enters the router at (c, r) by side `side` is to be delivered, or at which it is to be added
(R153): it is followed by the slot tables of the partition's dies and the leases of other partitions' links. `place` is the
round-sequence place and beat in which it enters. -/
def State.consumers (s : State) (x : Partition) (q : Pattern) : Nat → Nat → Nat → Nat → Nat × Nat × Nat → List Nat
  | 0, _, _, _, _ => []
  | n + 1, c, r, side, place =>
    let on (o : Nat) : List Nat :=
      match s.neighbour c r o with
      | some (c', r') => s.consumers x q n c' r' (opposite o) (q.onward 2 place.1 place.2.1 place.2.2)
      | none => []
    match x.dieAt c r with
    | some d =>
      let word := q.slot d (q.table place.1) place.2.2
      let named := (List.range 5).filter (fun o => slotSource word o == side + 1)
      let here : Bool := named.any (fun o => o == 4 || slotAdds word o)
      (if here then [d] else []) ++ (named.filter (fun o => o < 4 && !slotAdds word o)).flatMap on
    | none => (crossLinks q.leases c r place.2.2).flatMap on

/-- The number of a side. -/
def Side.index : Side → Nat
  | .N => 0 | .E => 1 | .S => 2 | .W => 3

/-- The absolute nodes at the two ends of the link that ends at side `side` of the router at (c, r) (R154, R191). -/
def State.linkAt (s : State) (c r side : Nat) : Nat × Nat :=
  (s.skeinNode c r,
   match s.neighbour c r side with
   | some (c', r') => s.skeinNode c' r'
   | none => match s.edgeOf c r side with | some (k, _) => rimNode k | none => 0)

/-- A number for a link, whichever end names it first. -/
def linkNumber (a b : Nat) : Nat := 512 * min a b + max a b

/-- The flit that a failing check meets (R153): the partition with its flit made a zero flit, the link by which the flit came, and
the dies that would consume it; none where no flit enters that input in this beat. -/
def State.checkedFlit (s : State) (x : Partition) (q : Pattern) : CheckPlace → Option (Partition × (Nat × Nat) × List Nat)
  | .die d port =>
    let side := Side.index port
    let y := x.die d
    let here (a : Arrival) : Bool := a.side == side && a.beat == x.run.clock
    let (c, r) := x.position d
    if x.size ≤ d.val ∨ ¬ y.inputs.any here ∨ y.slotDone = some x.run.clock then none
    else some (x.setDie d { y with inputs := y.inputs.map (fun a => if here a then { a with flit := .zero } else a) },
      s.linkAt c r side, (s.consumers x q pathFuel c r side (x.run.entry, x.run.rep, x.run.beat)).dedup)
  | .crossed col row port =>
    let side := Side.index port
    let here (a : Crossing) : Bool := a.col == col.val && a.row == row.val && a.side == side && a.beat == x.run.clock
    if ¬ x.crossing.any here then none
    else some ({ x with crossing := x.crossing.map (fun a => if here a then { a with flit := .zero } else a) },
      s.linkAt col row side, (s.consumers x q pathFuel col row side (x.run.entry, x.run.rep, x.run.beat)).dedup)
  | .edge rim port =>
    let here (a : EdgeArrival) : Bool := a.rim == rim.val && a.port == port.val && a.beat == x.run.clock
    if ¬ x.edge.any here then none
    else some ({ x with edge := x.edge.map (fun a => if here a then { a with flit := .zero } else a) },
      (match s.facing rim port with
       | some (c, r, _) => (rimNode rim, s.skeinNode c r)
       | none => (rimNode rim, 0)), [])

/-- A flit check failure for which a partition's response falls due; one whose flit no die would consume is counted for none
(R153; log entry 99). -/
def State.responseDue (s : State) (p : Nat) : State :=
  match s.partition? p with
  | none => s
  | some x => s.setPartition p { x with response := { x.response with due := true } }

/-- Failed checks of a link within the last second, this one included (R154). -/
def State.linkFails (s : State) (link : Nat) : List Nat :=
  (Sparse.getD [] s.linkFailures link).filter (fun t => decide (s.time ≤ t + second)) ++ [s.time]

/-- FLIT_CHECK_FAILURE (R153, R154): the flit that enters in this beat goes on as a zero flit, belay is raised, and every die that
would consume it takes a detected error. A link's fourth failure within 1 s loses the link. -/
def execFlitCheckFailure (p : PartId) (at_ : CheckPlace) (s : State) : Out :=
  match s.partition? p with
  | none => .next s
  | some x =>
    match x.pattern? with
    | none => .next s
    | some q =>
      if x.teardown ∨ s.frozen p then .next s
      else match s.checkedFlit x q at_ with
        | none => .next s
        | some (y, (a, b), who) =>
          let fails := s.linkFails (linkNumber a b)
          let t := { s.setPartition p y with linkFailures := Sparse.set s.linkFailures (linkNumber a b) fails }
          let t := (t.raise (s.wireOf p) (.flitCheck p a)).responseDue p
          let t := who.foldl (fun t k => t.detectedError p k none (.flitCheck p a)) t
          .next (if 4 ≤ fails.length then t.hardFault .hwLinkLoss a b else t)

/-- LINK_LOSS (R154): a link that joins the two nodes has lost lane lock: a hardware fault. -/
def execLinkLoss (a b : Node) (s : State) : Out :=
  if s.stage ≠ .ready ∨ ¬ Part.linked s.part a b then .next s else .next (s.hardFault .hwLinkLoss a b)

/-- TETHER_WORD_CHECK_FAILURE (R443): the word is dropped, and its tether link counts as lost. The packets on their way go with the
jobs that the fault ends (log entry 101). -/
def execTetherWordCheckFailure (a b : Node) (s : State) : Out :=
  if s.stage ≠ .ready ∨ ¬ Part.linked s.part a b then .next s else .next (s.hardFault .hwLinkLoss a b)

/-! ### Tether packets -/

/-- Packets that a core's receive queue and a gather engine's index buffer hold (R110, R288). -/
def rxDepth : Nat := 64

def indexDepth : Nat := 4096

/-- Hand a packet to its endpoint (R108, R110, R189, R301); none when the endpoint has no room. A sequencer, a stream engine and a
rim controller take a pattern's packet without effect (log entry 24); no pattern's packet has the hub's scope (R190). -/
def State.deliverPacket (s : State) (p : Nat) (x : Partition) (dest : Nat) (k : Packet) : Option State :=
  let ep := bits dest 4 0
  let i := bits dest 13 5
  match bits dest 15 14 with
  | 0 =>
    if 15 < ep then some (s.setPartition p x)
    else
      let die := x.die i
      let c := die.core ep
      match c.waiting with
      | some (.packet rd) =>
        some (s.setPartition p (x.setDie i (die.setCore ep { c.setReg rd k.word with waiting := none })))
      | _ =>
        if rxDepth ≤ c.rx.length then none
        else some (s.setPartition p (x.setDie i (die.setCore ep { c with rx := c.rx ++ [k] })))
  | 1 =>
    if 4 ≤ ep ∧ ep ≤ 7 then
      match x.stackRims[i]? with
      | none => some (s.setPartition p x)
      | some rim =>
        let r := s.rim rim
        let e := Sparse.getD Engine.idle r.ctx.engines ep
        if indexDepth ≤ e.indices.length then none
        else
          let e := { e with indices := e.indices ++ [k] }
          some ((s.setRim rim { r with ctx := { r.ctx with engines := Sparse.set r.ctx.engines ep e } }).setPartition p x)
    else some (s.setPartition p x)
  | _ => some (s.setPartition p x)

/-- Fewest links from the die that sends a packet to its destination (R150, R188): the routes are firmware's. -/
def State.tetherHops (s : State) (x : Partition) (src dest : Nat) : Nat :=
  let from_ := s.dieNode x (bits src 13 5)
  let i := bits dest 13 5
  if bits dest 15 14 = 0 then skeinHops from_ (s.dieNode x i)
  else
    let k := x.stackRims.getD i 0
    let near := ((List.range 320).filter (fun n => Part.fitsSkein s.part n && Part.rimLinked s.part k n)).map (skeinHops from_)
    near.foldl min (near.headD 0) + 1

/-- Beats that a packet takes at least (R151, R193): 3 per hop plus 4, and 2 more into a core's receive queue (log entry 102). -/
def State.tetherBeats (s : State) (x : Partition) (src dest : Nat) : Nat :=
  3 * s.tetherHops x src dest + 4 + (if bits dest 15 14 = 0 then 2 else 0)

/-- TETHER_DELIVERY (R151, R193, R301): the packet at a position of the network is delivered, no sooner than its way takes; packets
of one sender to one endpoint stay in order, and a full queue withholds its packet (R192). What else decides an order is timing (log entry 120). -/
def execTetherDelivery (p : PartId) (position : Nat) (s : State) : Out :=
  match s.partition? p with
  | none => .next s
  | some x =>
    match x.tether[position]? with
    | none => .next s
    | some (dest, sent, k) =>
      if s.beat < sent + s.tetherBeats x k.src dest
          ∨ (x.tether.take position).any (fun e => e.1 == dest && e.2.2.src == k.src) then .next s
      else
        match s.deliverPacket p { x with tether := x.tether.eraseIdx position } dest k with
        | some t => .next t
        | none => .next s

end Sys2Proof.Machine
end

