-- ==== Sys2Proof/Machine/Cache.lean ====
section
/-! DEFINITION. The rim-cache operations, error correction, refresh, scrub and calibration
(spec/09_stack_memory.md R258–R273, R278–R286, spec/02_number_formats.md R39–R47). -/

namespace Sys2Proof.Machine

/-! ### Operations on one unit -/

/-- Element `i` of `size` bytes of a 64-byte unit. -/
def unitElem (size : Nat) (bs : List Byte) (i : Nat) : Nat := leNat ((bs.drop (size * i)).take size)

/-- Element `i` is enabled: bit `i` for 32-bit elements, bit `2i` for 64-bit elements (R294). -/
def elemEnabled (size mask i : Nat) : Bool := bit mask (i * (size / 4))

/-- Apply `f` to the enabled elements of a unit and an operand (R278). -/
def elementwise (size mask : Nat) (f : Nat → Nat → Nat) (old operand : List Byte) : List Byte :=
  (List.range (64 / size)).flatMap (fun i =>
    let a := unitElem size old i
    leBytes size (if elemEnabled size mask i then f a (unitElem size operand i) else a))

/-- Signed minimum or maximum of two `n`-bit patterns. -/
def signedPick (n : Nat) (low : Bool) (a b : Nat) : Nat :=
  let less : Bool := decide (signed n a ≤ signed n b)
  if less = low then a else b

/-- Sum of two BSI32 integers in the rim (R41, R42, R281; log entry 25). -/
def bsiCacheAdd (a b : W32) : W32 :=
  if a = bsiMarker ∨ b = bsiMarker then bsiMarker
  else if (a.toInt + b.toInt).natAbs < 2 ^ 31 then a + b
  else Config.bsiWide a b

/-- What a code of R278 does to two elements, with the element size in bytes; none for codes that work on no cached unit. -/
def opElements (op : Nat) : Option (Nat × (Nat → Nat → Nat)) :=
  match op with
  | 0x1 => some (4, fun a b => (a + b) % 2 ^ 32)
  | 0x2 => some (8, fun a b => (a + b) % 2 ^ 64)
  | 0x3 => some (4, signedPick 32 true)
  | 0x4 => some (4, signedPick 32 false)
  | 0x5 => some (4, min)
  | 0x6 => some (4, max)
  | 0x7 => some (8, signedPick 64 true)
  | 0x8 => some (8, signedPick 64 false)
  | 0x9 => some (4, fun a b => (bsiCacheAdd (BitVec.ofNat 32 a) (BitVec.ofNat 32 b)).toNat)
  | _ => none

/-- Note the read that fills a line for an operation on a unit that the cache does not hold: requester 8 (R269, R274). -/
def Rim.filling (r : Rim) (u : Nat) : Rim :=
  if (r.line? u).isSome then r else { r with outstanding := r.outstanding ++ [⟨u, 8, true⟩] }

/-- A read-modify-write of a unit in the cache (R276, R278). -/
def Rim.modifyUnit (r : Rim) (ways u : Nat) (f : List Byte → List Byte) : Rim :=
  let (bs, r) := (r.filling u).readUnit ways u true
  r.insertLine ways ⟨u, true, f bs⟩

/-! ### Reduction lines -/

/-- The frame of target unit `t` with `r` reduction ways (R282): 65,536 per way. -/
def frameOf (r t : Nat) : Nat := ((t / 65536) % r) * 65536 + t % 65536

/-- The way and the four lines of the way that hold the reduction line of target unit `t` (R282). -/
def frameLines (r t : Nat) : Nat × List Nat :=
  (16 - r + (t / 65536) % r, (List.range 4).map (fun n => 4 * (t % 65536) + n))

/-- The control line of an open frame (R283). -/
def Frame.control (f : Frame) : BitVec 512 :=
  BitVec.ofNat 512 (1 + (if f.limit then 2 else 0) + (f.w % 512).toNat * 2 ^ 2 + f.count * 2 ^ 16 + f.tag * 2 ^ 64
    + ((f.flags.zipIdx.map (fun e => e.1.toNat * 2 ^ (4 * e.2))).foldl (· + ·) 0) * 2 ^ 128)

/-- The 256 bytes of the four lines of a frame (R282): the 16 accumulators of 12 bytes, then the control line; zeros where no line
is open. -/
def frameBytes (f : Option Frame) : List Byte :=
  match f with
  | none => List.replicate 256 0
  | some f => ((List.range 16).flatMap (fun i => leBytes 12 (f.acc.getD i 0 % 2 ^ 96).toNat)) ++ leBytes 64 f.control.toNat

/-- A window that an exact-float add may name (R44): −192 to 64. -/
def windowOk (w : Int) : Bool := decide (-192 ≤ w) && decide (w ≤ 64)

/-- A freshly opened line (R44). -/
def Frame.opened (t : Nat) (w : Int) : Frame :=
  { tag := t, w, count := 0, limit := false, acc := List.replicate 16 0, flags := List.replicate 16 0 }

/-- A 96-bit two's-complement number. -/
def wrap96 (v : Int) : Int :=
  let n := v % 2 ^ 96
  if n < 2 ^ 95 then n else n - 2 ^ 96

/-- One element after an exact-float add (R45). -/
def frameElem (w a : Int) (flags : BitVec 4) (x : W32) : Int × BitVec 4 :=
  match Num.ofFp32 x with
  | .nan => (a, flags ||| 8)
  | .inf neg => (a, flags ||| (if neg then 4 else 2))
  | .fin n m e =>
    let (v, sat) := lineAddend w n m e
    (wrap96 (a + v), if sat then flags ||| 1 else flags)

/-- An add operation on an open line (R45, R46). -/
def Frame.add (f : Frame) (operand : List Byte) (mask : Nat) : Frame :=
  let elem (i : Nat) : Int × BitVec 4 :=
    let a := f.acc.getD i 0
    let g := f.flags.getD i 0
    if bit mask i then frameElem f.w a g (BitVec.ofNat 32 (unitElem 4 operand i)) else (a, g)
  let full : Bool := f.count == 2 ^ 32 - 1
  { f with
    count := if full then f.count else f.count + 1, limit := f.limit || full,
    acc := (List.range 16).map (fun i => (elem i).1), flags := (List.range 16).map (fun i => (elem i).2) }

/-- The value that `FINALIZE` gives an element (R47); a negative sum that rounds to zero is −0 (log entry 103). -/
def Frame.value (f : Frame) (i : Nat) : W32 :=
  let g := f.flags.getD i 0
  let a := f.acc.getD i 0
  if g.getLsbD 3 ∨ (g.getLsbD 1 ∧ g.getLsbD 2) ∨ f.limit then Num.toFp32 .nan
  else if g.getLsbD 1 then Num.toFp32 (.inf false)
  else if g.getLsbD 2 then Num.toFp32 (.inf true)
  else Num.toFp32 (.fin (decide (a < 0)) a.natAbs f.w)

/-- Elements of a line with `CLAMP` set (R286). -/
def Frame.clamped (f : Frame) : Nat := (f.flags.filter (fun g => g.getLsbD 0)).length

/-- An exact-float add at a rim with `r` reduction ways (R284); none is the software fault, which a window outside R44's range takes
too (log entry 107). -/
def Rim.xfadd (k : Rim) (r t : Nat) (w : Int) (operand : List Byte) (mask : Nat) : Option Rim :=
  if r = 0 ∨ ¬ windowOk w then none
  else
    let i := frameOf r t
    match Sparse.get? k.ctx.frames i with
    | none => some { k with ctx := { k.ctx with frames := Sparse.set k.ctx.frames i ((Frame.opened t w).add operand mask) } }
    | some f =>
      if f.tag = t ∧ f.w = w then
        some { k with ctx := { k.ctx with frames := Sparse.set k.ctx.frames i (f.add operand mask) } }
      else none

/-- Finalize a target (R285): the rim and the clamped elements; none is the software fault. -/
def Rim.finalize (k : Rim) (r ways t : Nat) : Option (Rim × Nat) :=
  let i := frameOf r t
  let open_ := if r = 0 then none else Sparse.get? k.ctx.frames i
  match open_ with
  | none => some (k.writeUnit ways 8 t true (List.replicate 64 0), 0)
  | some f =>
    if f.tag = t then
      let bs := (List.range 16).flatMap (fun e => leBytes 4 (f.value e).toNat)
      let k := k.writeUnit ways 8 t true bs
      some ({ k with ctx := { k.ctx with frames := Sparse.erase k.ctx.frames i } }, f.clamped)
    else none

/-- One rim-cache operation on stack unit `u` (R278): the rim and the elements clamped. `FLUSH`, like the others, holds the
line after it. -/
def Rim.operate (k : Rim) (r u op : Nat) (w : Int) (operand : List Byte) (mask : Nat) : Option (Rim × Nat) :=
  let ways := 16 - r
  match op with
  | 0xA => (k.xfadd r u w operand mask).map (fun k => (k, 0))
  | 0xB => k.finalize r ways u
  | 0xC => some (((k.filling u).readUnit ways u true).2.flushUnit u, 0)
  | _ =>
    match opElements op with
    | some (size, f) => some (k.modifyUnit ways u (fun old => elementwise size mask f old operand), 0)
    | none => some (k, 0)

/-- The rim issues nothing while its stack calibrates or is stopped (R265, R273). -/
def Rim.paused (k : Rim) : Bool := k.halted || k.thermal == .stopped

/-- The controller has room for what an operation on unit `u` issues: the fill of a line that the cache does not hold (R267). -/
def Rim.fits (k : Rim) (u op : Nat) : Bool := op == 0xA || op == 0xB || (k.line? u).isSome || k.accepts 8 u

/-- The context whose span holds stack unit `u`, with the unit's place in the span. -/
def Partition.tenant (x : Partition) (u : Nat) : Option (Nat × Context) :=
  x.contexts.find? (fun e => (e.2.slot?).elim false (fun j => decide (u / x.spanUnits = j)))

/-- Note that unit `u` of rim `k` is written, for the eviction copy of its context (R368). -/
def Partition.noteWrite (x : Partition) (k u : Nat) : Partition :=
  match x.tenant u, x.stackIndex k with
  | some (c, v), some i => x.setContext c (v.touch i (u % x.spanUnits))
  | _, _ => x

/-- Perform a rim-cache operation at stack unit `u` of rim `k` (R268, R278–R286): the step's clamp count and the counters with
it. -/
def State.rimOperation (s : State) (k u op : Nat) (w : Int) (operand : List Byte) (mask : Nat) : State :=
  match s.rimOwner k with
  | none => s
  | some (p, x) =>
    if (s.rim k).paused ∨ ¬ (s.rim k).fits u op then s
    else match (s.rim k).operate x.reductionWays u op w operand mask with
      | none => s.softFault p .faultReductionLine (Config.faultDetail (rimNode k)).toNat
      | some (r, n) =>
        let x := ({ x with clamps := x.clamps + n }.noteWrite k u).countRunning stackWriteBytes 64
        (s.setRim k r).setPartition p x

/-- The 64 bytes of an operand. -/
def operandBytes (v : BitVec 512) : List Byte := leBytes 64 v.toNat

/-- IADD32 (R278). -/
def execIadd32 (rim : RimId) (unit : BitVec 31) (operand : BitVec 512) (mask : BitVec 16) (s : State) : Out :=
  .next (s.rimOperation rim unit.toNat 0x1 0 (operandBytes operand) mask.toNat)

/-- IADD64 (R278). -/
def execIadd64 (rim : RimId) (unit : BitVec 31) (operand : BitVec 512) (mask : BitVec 16) (s : State) : Out :=
  .next (s.rimOperation rim unit.toNat 0x2 0 (operandBytes operand) mask.toNat)

/-- IMIN32 (R278). -/
def execImin32 (rim : RimId) (unit : BitVec 31) (operand : BitVec 512) (mask : BitVec 16) (s : State) : Out :=
  .next (s.rimOperation rim unit.toNat 0x3 0 (operandBytes operand) mask.toNat)

/-- IMAX32 (R278). -/
def execImax32 (rim : RimId) (unit : BitVec 31) (operand : BitVec 512) (mask : BitVec 16) (s : State) : Out :=
  .next (s.rimOperation rim unit.toNat 0x4 0 (operandBytes operand) mask.toNat)

/-- UMIN32 (R278). -/
def execUmin32 (rim : RimId) (unit : BitVec 31) (operand : BitVec 512) (mask : BitVec 16) (s : State) : Out :=
  .next (s.rimOperation rim unit.toNat 0x5 0 (operandBytes operand) mask.toNat)

/-- UMAX32 (R278). -/
def execUmax32 (rim : RimId) (unit : BitVec 31) (operand : BitVec 512) (mask : BitVec 16) (s : State) : Out :=
  .next (s.rimOperation rim unit.toNat 0x6 0 (operandBytes operand) mask.toNat)

/-- IMIN64 (R278). -/
def execImin64 (rim : RimId) (unit : BitVec 31) (operand : BitVec 512) (mask : BitVec 16) (s : State) : Out :=
  .next (s.rimOperation rim unit.toNat 0x7 0 (operandBytes operand) mask.toNat)

/-- IMAX64 (R278). -/
def execImax64 (rim : RimId) (unit : BitVec 31) (operand : BitVec 512) (mask : BitVec 16) (s : State) : Out :=
  .next (s.rimOperation rim unit.toNat 0x8 0 (operandBytes operand) mask.toNat)

/-- BSIADD (R41, R42, R278, R281). -/
def execBsiadd (rim : RimId) (unit : BitVec 31) (operand : BitVec 512) (mask : BitVec 16) (s : State) : Out :=
  .next (s.rimOperation rim unit.toNat 0x9 0 (operandBytes operand) mask.toNat)

/-- XFADD (R44–R46, R284). -/
def execXfadd (rim : RimId) (unit : BitVec 31) (operand : BitVec 512) (mask : BitVec 16) (window : BitVec 9)
    (s : State) : Out :=
  .next (s.rimOperation rim unit.toNat 0xA window.toInt (operandBytes operand) mask.toNat)

/-- FINALIZE (R47, R285, R286). -/
def execFinalize (rim : RimId) (unit : BitVec 31) (s : State) : Out :=
  .next (s.rimOperation rim unit.toNat 0xB 0 [] 0)

/-- FLUSH (R277, R278). -/
def execFlush (rim : RimId) (unit : BitVec 31) (s : State) : Out :=
  .next (s.rimOperation rim unit.toNat 0xC 0 [] 0)

/-! ### Transactions and errors -/

/-- Count and record a correction (R261). -/
def Rim.noteCorrection (k : Rim) (u symbols now : Nat) : Rim :=
  let c := channelOf u
  { k with corrected := Sparse.setD 0 k.corrected c ((Sparse.getD 0 k.corrected c + 1) % 2 ^ 48),
           corrections := (⟨u, symbols, now⟩ :: k.corrections).take 16 }

/-- Replace the bytes of span unit `u` in the flits of staging that read it and satisfy `f`. -/
def Engine.spoil (e : Engine) (f : Staged → Bool) (u : Nat) (bs : List Byte) : Engine :=
  { e with staging := e.staging.map (fun t =>
      match f t, t.units.findIdx? (fun v => v == u) with
      | true, some i => { t with data := t.data.take (64 * i) ++ bs ++ t.data.drop (64 * i + 64) }
      | _, _ => t) }

/-- A detected error that the rim cannot correct (R260, R261): recorded with the marker 0xFF, no line of the cache keeps what the
read would have filled it with, and a hardware fault. -/
def State.uncorrectable (s : State) (k u : Nat) (fill : Bool) : State :=
  let r := s.rim k
  let cache := if fill then r.cache.filter (fun l => l.unit != u) else r.cache
  (s.setRim k { r with cache, uncorrectable := some ⟨u, 0xFF, s.timeUs⟩ }).hardFault .hwStackUe (rimNode k) 0

/-- Work waits for pseudo-channel `c`. -/
def Rim.busy (r : Rim) (c : Nat) : Bool := r.readWaits c || r.writes.any (fun w => channelOf w.unit == c)

/-- A pseudo-channel pays the refresh commands it owes when 8 are owed or nothing waits for it (R270, R271). -/
def Rim.payRefresh (r : Rim) (c : Nat) : Rim :=
  if 8 ≤ Sparse.getD 0 r.refreshOwed c ∨ ¬ r.busy c then { r with refreshOwed := Sparse.setD 0 r.refreshOwed c 0 } else r

/-- The rim after a read has completed: the writes that waited for it drain (R256), and refresh that was put off is paid. -/
def Rim.completed (r : Rim) (t : Transaction) : Rim :=
  ({ r with outstanding := r.outstanding.erase t } : Rim).drain.payRefresh (channelOf t.unit)

/-- Free bytes in place of what a read should have brought: in staging, and in the line it filled. -/
def Rim.misread (r : Rim) (t : Transaction) (span : Nat) (bs : List Byte) : Rim :=
  let cache := if t.fill then r.cache.map (fun l => if l.unit = t.unit then { l with data := bs } else l) else r.cache
  let spoil (n : Nat) (e : Engine) : Engine := if n = t.req then e.spoil (fun g => g.complete.isNone) (t.unit % span) bs else e
  { r with cache, ctx := { r.ctx with engines := Sparse.mapVals spoil r.ctx.engines } }

/-- Units of the owner's span, or of the stack where no partition owns it. -/
def State.spanAt (s : State) (k : Nat) : Nat := match s.rimOwner k with | some (_, x) => x.spanUnits | none => stackUnits

/-- An accepted read completes with a number of wrong symbols (R258–R261): up to 3 are corrected, 4 or 5 detected, and beyond that
neither is guaranteed. What a correction writes back is what the model holds. -/
def State.readCompletes (s : State) (k : Nat) (t : Transaction) (symbols : Nat) : State :=
  let r := (s.rim k).completed t
  if symbols = 0 then s.setRim k r
  else if symbols ≤ 3 then s.setRim k (r.noteCorrection t.unit symbols s.timeUs)
  else if symbols ≤ 5 then (s.setRim k r).uncorrectable k t.unit t.fill
  else if Config.eccDetects s.fresh then ({ s with fresh := s.fresh + 1 }.setRim k r).uncorrectable k t.unit t.fill
  else
    let (bs, s) := { s with fresh := s.fresh + 1 }.freeBytes 64
    s.setRim k (r.misread t (s.spanAt k) bs)

/-! ### Refresh and scrub -/

/-- REFRESH (R270, R271): a refresh command falls due; the channel pays what it owes when 8 are owed or nothing waits. -/
def execRefresh (rim : RimId) (channel : Fin 64) (s : State) : Out :=
  let r := s.rim rim
  if s.power ≠ .good then .next s
  else .next (s.setRim rim
    (({ r with refreshOwed := Sparse.setD 0 r.refreshOwed channel (Sparse.getD 0 r.refreshOwed channel + 1) } : Rim).payRefresh
      channel))

/-- Time of one scrub pass (R271): 10 min. -/
def passTime : Nat := 600 * second

/-- Scrub is behind a pass over every unit in 10 min (R271). -/
def State.scrubBehind (s : State) (r : Rim) : Bool :=
  decide (r.scrubbed.length * passTime < (s.time - r.passStart) * stackUnits)

/-- SCRUB_OWED (R271). -/
def execScrubOwed (rim : RimId) (s : State) : Out :=
  let r := s.rim rim
  if s.scrubBehind r ∧ r.lastScrub + second ≤ s.time then .next (s.setRim rim { r with scrubOwed := true })
  else .next s

/-- The time of 100 transaction slots of a pseudo-channel (R252, R271): 160 ns. -/
def hundredSlots : Nat := 1120

/-- Scrub has its turn at pseudo-channel `c` (R270): nothing waits there, or scrub is owed and has had none of the last 100 slots. -/
def State.scrubTurn (s : State) (r : Rim) (c : Nat) : Bool :=
  !r.busy c || (r.scrubOwed && (Sparse.get? r.scrubSlots c).all (fun t => decide (t + hundredSlots ≤ s.time)))

/-- The rim after a scrub of unit `u`: a pass ends when it has read every unit (R271; log entry 108). -/
def State.scrubNoted (s : State) (r : Rim) (u : Nat) : Rim :=
  let seen := if r.scrubbed.contains u then r.scrubbed else u :: r.scrubbed
  let whole : Bool := decide (stackUnits ≤ seen.length)
  let r := { r.payRefresh (channelOf u) with
    scrubbed := if whole then [] else seen, passStart := if whole then r.passStart + passTime else r.passStart,
    scrubSlots := Sparse.set r.scrubSlots (channelOf u) s.time, lastScrub := s.time }
  { r with scrubOwed := r.scrubOwed && s.scrubBehind r }

/-- SCRUB (R258, R260, R261, R270, R271): a unit is read and corrected data written back. -/
def execScrub (rim : RimId) (unit : BitVec 31) (symbols : Fin 73) (s : State) : Out :=
  let u := unit.toNat
  let r := s.rim rim
  if s.power ≠ .good ∨ r.paused ∨ ¬ s.scrubTurn r (channelOf u) then .next s
  else
    let r := s.scrubNoted r u
    if symbols.val = 0 then .next (s.setRim rim r)
    else if symbols.val ≤ 3 then .next (s.setRim rim (r.noteCorrection u symbols s.timeUs))
    else if symbols.val ≤ 5 then .next ((s.setRim rim r).uncorrectable rim u false)
    else if Config.eccDetects s.fresh then
      .next (({ s with fresh := s.fresh + 1 }.setRim rim r).uncorrectable rim u false)
    else
      let (bs, s) := { s with fresh := s.fresh + 1 }.freeBytes 64
      .next (s.setRim rim (r.store u bs))

/-! ### Calibration -/

/-- Duration of a calibration (R273): 1.5 µs. -/
def calibrationTime : Nat := 10500

/-- The slack window now open at rim `k` opened at least 50 ms after the last calibration (R273). -/
def State.windowDue (s : State) (k : Nat) : Bool :=
  let r := s.rim k
  s.slackAt k && decide (r.lastCalibration + 50 * msec ≤ r.windowSince.getD s.time)

/-- No pattern runs on the partition that owns rim `k`. -/
def State.patternless (s : State) (k : Nat) : Bool :=
  match s.rimOwner k with
  | none => true
  | some (_, x) => x.pattern?.isNone || x.run.phase == .idle

/-- CALIBRATION (R273): in the first slack window that opens at least 50 ms after the last, or while no pattern runs on the owning
partition. The rim issues nothing, and the calibration begins when no transaction is in flight. -/
def execCalibration (rim : RimId) (s : State) : Out :=
  let r := s.rim rim
  if (s.windowDue rim ∨ s.patternless rim) ∧ s.power = .good ∧ ¬ r.paused then
    .next (s.setRim rim { r with halted := true, calibrating := if r.outstanding.isEmpty then some s.time else none })
  else .next s

/-- FORCED_CALIBRATION (R273): 100 ms without calibration; belay rises 24 beats ahead of the beat in which the rim stops issuing. -/
def execForcedCalibration (rim : RimId) (s : State) : Out :=
  let r := s.rim rim
  if r.paused ∨ r.forced.isSome ∨ s.time < r.lastCalibration + 100 * msec ∨ s.power ≠ .good then .next s
  else
    let s := s.setRim rim { r with forced := some s.time }
    match s.rimOwner rim with
    | none => .next s
    | some (p, _) => .next (s.raise (s.wireOf p) (.calibration rim))

/-- CALIBRATION_COMPLETE (R273): 1.5 µs after it began; a forced calibration's belay drops. -/
def execCalibrationComplete (rim : RimId) (s : State) : Out :=
  match (s.rim rim).calibrating with
  | none => .next s
  | some t => if s.time < t + calibrationTime then .next s else .next (s.endCalibration rim)

end Sys2Proof.Machine
end

