-- ==== Sys2Proof/Machine/Streams.lean ====
section
/-! DEFINITION. Stream and gather engines, staging, rim edge tables, bind-off, and the end of a restore hold
(spec/10_streams_prefetch_gather.md R288–R312, R525, spec/07_recompute_execution.md R212, R217–R219). -/

namespace Sys2Proof.Machine

/-! ### Where an engine stands -/

/-- An engine of a rim with the running context that it works for: partition, context, slot, stack index, rim, engine number,
pattern. -/
structure EngSite where
  p : Nat
  x : Partition
  c : Nat
  j : Nat
  i : Nat
  k : Nat
  r : Rim
  n : Nat
  e : Engine
  q : Pattern
  deriving DecidableEq, Repr

/-- The engine named, where a running context with a pattern holds its rim's stack. -/
def State.engSite (s : State) (k n : Nat) : Option EngSite :=
  match s.rimOwner k with
  | none => none
  | some (p, x) =>
    match x.running? with
    | none => none
    | some (c, v) =>
      match v.slot?, v.pattern, x.stackIndex k with
      | some j, some q, some i =>
        let r := s.rim k
        some ⟨p, x, c, j, i, k, r, n, Sparse.getD Engine.idle r.ctx.engines n, q⟩
      | _, _, _ => none

/-- The rim with its engine put back. -/
def EngSite.rim (y : EngSite) : Rim := { y.r with ctx := { y.r.ctx with engines := Sparse.set y.r.ctx.engines y.n y.e } }

def State.putEngine (s : State) (y : EngSite) : State := (s.setRim y.k y.rim).setPartition y.p y.x

/-- The partition's fault at this engine (R413; log entry 26). -/
def State.engineFault (s : State) (y : EngSite) (st : Status) : State :=
  s.softFault y.p st (Config.faultDetail (rimNode y.k)).toNat

/-- The list with what a sequence passes over from place `a` on skipped (R525). -/
def settle (list : List Descriptor) (a : Nat) (skip : Descriptor → Bool) : Nat :=
  a + ((list.drop a).takeWhile skip).length

/-- The place of the fetch sequence: past the consume sequence's descriptors, and past its own that hold no flit. -/
def Engine.fetchPlace (e : Engine) : Nat :=
  if 0 < e.fetchFlit then e.fetchAt else settle e.list e.fetchAt (fun d => d.consumes || (d.fetches && d.flits == 0))

/-- The place of the consume sequence. -/
def Engine.usePlace (e : Engine) : Nat :=
  if 0 < e.useFlit then e.useAt else settle e.list e.useAt (fun d => d.fetches || (d.consumes && d.flits == 0))

/-- The descriptor at place `a`, once its hank has been read from the store (R297). -/
def Engine.at? (e : Engine) (a : Nat) : Option Descriptor := if a < e.read then e.list[a]? else none

/-- The fetch sequence past one flit of descriptor `d` at place `a`. -/
def Engine.fetched (e : Engine) (d : Descriptor) (a : Nat) : Engine :=
  if e.fetchFlit + 1 < d.flits then { e with fetchAt := a, fetchFlit := e.fetchFlit + 1 }
  else { e with fetchAt := a + 1, fetchFlit := 0, fetchIdx := [] }

/-- The consume sequence past one flit of descriptor `d` at place `a`. -/
def Engine.used (e : Engine) (d : Descriptor) (a : Nat) : Engine :=
  if e.useFlit + 1 < d.flits then { e with useAt := a, useFlit := e.useFlit + 1 }
  else { e with useAt := a + 1, useFlit := 0, useIdx := [] }

/-- The engine holds a fetch descriptor not finished, or a consume descriptor not finished. -/
def Engine.outstanding (e : Engine) : Bool :=
  decide (e.fetchPlace < e.list.length) || decide (e.usePlace < e.list.length)

/-! ### Pieces -/

/-- The first span unit of a piece at integer unit address `b`, when every unit of it lies within the fence, the rim's stack
and the span (R303, R359). -/
def EngSite.fenced (y : EngSite) (d : Descriptor) (b : Int) : Option Nat :=
  let last := b + d.pieceUnits - 1
  let lo : Int := y.i * stackUnits
  if (d.fenceLo : Int) ≤ b ∧ last ≤ d.fenceHi ∧ lo ≤ b ∧ last < lo + y.x.spanUnits then some (b - lo).toNat else none

/-- The pieces of flit `f` of a descriptor, a piece that fails its check as none (R296, R300). -/
def EngSite.pieces (y : EngSite) (d : Descriptor) (f : Nat) (idx : List W32) : List (Option Nat) :=
  let n := d.piecesPerFlit
  if d.kind ≤ 3 then (List.range n).map (fun i => y.fenced d (d.pieceAt (n * f + i)))
  else ((List.range n).filter (fun i => n * f + i < d.count * d.n0)).map (fun i =>
    let p := n * f + i
    y.fenced d (d.rowPieceAt (idx.getD (p / d.n0) 0).toNat (p % d.n0)))

/-- The units of the pieces before the first that fails. -/
def pieceList (d : Descriptor) (ps : List (Option Nat)) : List Nat :=
  ((ps.takeWhile Option.isSome).filterMap id).flatMap (fun u => (List.range d.pieceUnits).map (fun i => u + i))

/-- Indices that flit `f` of an indexed descriptor needs (R300). -/
def Descriptor.rowsNeeded (d : Descriptor) (f : Nat) : Nat :=
  min d.count ((min (d.piecesPerFlit * (f + 1)) (d.count * d.n0) + d.n0 - 1) / d.n0)

/-! ### One unit -/

/-- The stack unit of span unit `u`. -/
def EngSite.phys (y : EngSite) (u : Nat) : Nat := y.j * y.x.spanUnits + u

/-- A read of span unit `u` can go on now: the cache holds it, or the controller accepts it (R267, R276, R288). -/
def EngSite.canRead (y : EngSite) (u : Nat) : Bool := (y.r.line? (y.phys u)).isSome || y.r.accepts y.n (y.phys u)

/-- Read span unit `u` (R263, R276, R305, R379): a unit that the layer's writes have touched reads a free value. `n` is the
next free value; a unit that the cache does not hold is a transaction. -/
def EngSite.readOne (y : EngSite) (n u : Nat) (cache : Bool) : List Byte × EngSite × Nat :=
  let v := y.phys u
  let held := (y.r.line? v).isSome
  let (bs, r) := y.r.readUnit y.x.ways v cache
  let r := if held then r else { r with outstanding := r.outstanding ++ [⟨v, y.n, cache⟩] }
  let y := { y with r, x := y.x.count y.c stackReadBytes 64 }
  if r.ctx.written.contains v then ((List.range 64).map (fun i => Config.freeByte (n + i)), y, n + 64) else (bs, y, n)

/-- An engine of the site's rim. -/
def EngSite.engine (y : EngSite) (m : Nat) : Engine := if m = y.n then y.e else Sparse.getD Engine.idle y.r.ctx.engines m

/-- Staging of the rim holds a flit that reads span unit `u`. -/
def EngSite.stagedHere (y : EngSite) (u : Nat) : Bool := (List.range 8).any (fun m => (y.engine m).staging.any (fun t => t.units.contains u))

/-- Free bytes in every flit of staging that reads span unit `u` (R305). -/
def EngSite.spoilStaged (y : EngSite) (n u : Nat) : EngSite :=
  let bs := (List.range 64).map (fun i => Config.freeByte (n + i))
  let spoil (e : Engine) : Engine := e.spoil (fun _ => true) u bs
  { y with e := spoil y.e, r := { y.r with ctx := { y.r.ctx with engines := Sparse.mapVals (fun _ e => spoil e) y.r.ctx.engines } } }

/-- Write a span unit for a write stream or scatter (R276, R305, R368, R379): a flit that staging has read of the unit in the layer
holds a free value from here on. `n` is the next free value. -/
def EngSite.writeOne (y : EngSite) (n u : Nat) (cache : Bool) (bs : List Byte) : EngSite × Nat :=
  let v := y.phys u
  let r := y.r.writeUnit y.x.ways y.n v cache bs
  let r := { r with ctx := { r.ctx with written := if r.ctx.written.contains v then r.ctx.written else r.ctx.written ++ [v] } }
  let y := { y with r, x := (y.x.noteWrite y.k v).count y.c stackWriteBytes 64 }
  if y.stagedHere u then (y.spoilStaged n u, n + 64) else (y, n)

/-- Apply a rim-cache operation at a span unit (R278–R286); none is its software fault. -/
def EngSite.operateOne (y : EngSite) (d : Descriptor) (u : Nat) (operand : List Byte) : Option EngSite :=
  let v := y.phys u
  (y.r.operate y.x.reductionWays v d.op d.w operand d.mask).map (fun e =>
    let x := (y.x.noteWrite y.k v).count y.c stackWriteBytes 64
    { y with r := e.1, x := { x with clamps := x.clamps + e.2 } })

/-! ### Indices (R301) -/

/-- What a request for indices meets. -/
inductive Indices where
  | ready (xs : List W32) (y : EngSite) (n : Nat)
  | waits
  | fails

/-- Read the index words of one unit of the stack list, not past COUNT; the read waits where the controller does not accept it. -/
def EngSite.indexUnit (y : EngSite) (n : Nat) (d : Descriptor) (have_ : List W32) : Indices :=
  let u : Int := (d.idxBase : Int) + (have_.length / 16 : Nat) - (y.i * stackUnits : Nat)
  if u < 0 ∨ (y.x.spanUnits : Int) ≤ u then .fails
  else if ¬ y.canRead u.toNat then .waits
  else
    let (bs, y, n) := y.readOne n u.toNat false
    let words := (List.range 16).map (fun i => BitVec.ofNat 32 (unitElem 4 bs i))
    .ready (have_ ++ words.take (d.count - have_.length)) y n

/-- Indices until `need` of them are held: from the stack, or from the buffer's packets of the sender named. A flit touches at
most 16 rows, so at most two units of the list. -/
def EngSite.indicesFor (y : EngSite) (n : Nat) (d : Descriptor) (have_ : List W32) (need : Nat) : Indices :=
  if need ≤ have_.length then .ready have_ y n
  else if d.idxTether then
    let mine (k : Packet) : Bool := k.src == coreNode d.idxDie d.idxCore
    let more := need - have_.length
    let got := (y.e.indices.filter mine).take more
    if got.length < more then .waits
    else .ready (have_ ++ got.map (·.payload)) { y with e := { y.e with indices := got.foldl List.erase y.e.indices } } n
  else
    match y.indexUnit n d have_ with
    | .ready xs y n => if need ≤ xs.length then .ready xs y n else y.indexUnit n d xs
    | r => r

/-! ### Fetching -/

/-- Flits of read or gather staging that an engine may hold (R288). -/
def stagingPlaces (eng : Nat) : Nat := if eng < 4 then 8192 else 2048

/-- An engine asks for a staging place: its fetch sequence stands at a descriptor of its kind and its own places are not all taken. -/
def Engine.asksPlace (e : Engine) (eng : Nat) : Bool :=
  (e.at? e.fetchPlace).any (fun d => d.kind == 1) && decide (e.staging.length < stagingPlaces eng)

/-- The place of a requester in the order of grants of a rim cycle (R269). -/
def grantOrder (cycle req : Nat) : Nat := (req + 11 - 7 * cycle % 11) % 11

/-- A place of the pool is free for the engine in rim cycle `cycle` (R288, R290): the last free places go to the stream engines that
ask in the order of grants. -/
def EngSite.poolRoom (y : EngSite) (cycle : Nat) : Bool :=
  let pool := ((List.range 4).map (fun m => (y.engine m).staging.length)).foldl (· + ·) 0
  let before := ((List.range 4).filter (fun m =>
    m != y.n && (y.engine m).asksPlace m && decide (grantOrder cycle m < grantOrder cycle y.n))).length
  decide (pool + before < 16384)

/-- Room in staging for one more flit (R288, R290). -/
def EngSite.room (y : EngSite) (cycle : Nat) : Bool :=
  decide (y.e.staging.length < stagingPlaces y.n) && (decide (4 ≤ y.n) || y.poolRoom cycle)

/-- The bytes of the flit's `i`-th unit have been read. -/
def Staged.fill (t : Staged) (i : Nat) (bs : List Byte) : Staged :=
  { t with data := t.data.take (64 * i) ++ bs ++ t.data.drop (64 * i + 64), waiting := t.waiting.filter (fun j => j != i) }

/-- Issue the reads of a flit that wait, in order; those that the controller does not accept go on waiting, and others pass them
(R267, R310). -/
def EngSite.issue (y : EngSite) (n : Nat) (t : Staged) : Staged × EngSite × Nat :=
  t.waiting.foldl (fun (acc : Staged × EngSite × Nat) i =>
    let (t, y, n) := acc
    let u := t.units.getD i 0
    if y.canRead u then
      let (bs, y, n) := y.readOne n u t.cache
      (t.fill i bs, { y with e := { y.e with counters := { y.e.counters with fetched := y.e.counters.fetched + 64 } } }, n)
    else (t, y, n)) (t, y, n)

/-- A flit of staging whose reads all wait. -/
def Staged.unread (us : List Nat) (cache : Bool) : Staged :=
  ⟨List.replicate flitBytes 0, us, cache, List.range us.length, none⟩

/-- Stage one flit from its units: the engine site after it, and the next free value. -/
def EngSite.stage (y : EngSite) (n : Nat) (us : List Nat) (cache : Bool) : EngSite × Nat :=
  let (t, y, n) := y.issue n (.unread us cache)
  ({ y with e := { y.e with staging := y.e.staging ++ [t] } }, n)

/-- Issue again the reads that wait in the engine's queue, oldest flit first. -/
def EngSite.retry (y : EngSite) (n : Nat) : EngSite × Nat :=
  foldRange y.e.staging.length (y, n) (fun acc i =>
    match acc.1.e.staging[i]? with
    | none => acc
    | some t =>
      let (t, y, n) := acc.1.issue acc.2 t
      ({ y with e := { y.e with staging := y.e.staging.set i t } }, n))

/-- The reads that wait in an engine's queue, issued as far as the controller accepts them (R267). -/
def State.retryReads (s : State) (k n : Nat) : State :=
  match s.engSite k n with
  | none => s
  | some y =>
    if y.r.paused ∨ y.e.staging.all (fun t => t.waiting.isEmpty) then s
    else
      let (y, m) := y.retry s.fresh
      { s with fresh := m }.putEngine y

/-- The fetch sequence may continue past descriptor `d` while it waits for a hank (R304): the next flit of run-ahead. A flit cut
short by a piece that fails its check is the last. -/
def EngSite.runAheadFlit (y : EngSite) (a : Nat) : Option (Descriptor × Nat) :=
  match y.e.at? a, (if a = 0 then none else y.e.list[a - 1]?) with
  | some h, some d =>
    let cut : Bool := 0 < y.e.runAhead && y.e.staging.getLast?.any (fun t => decide (t.units.length < 16))
    if h.kind = 7 ∧ y.e.hanks.isEmpty ∧ d.kind = 1 ∧ d.chain ∧ y.e.runAhead < d.runahead ∧ ¬ cut then
      some (d, d.count + y.e.runAhead)
    else none
  | _, _ => none

/-- Stage the next flit of run-ahead, up to the first piece that fails its check (R304). -/
def State.fetchAhead (s : State) (y : EngSite) (a : Nat) : State :=
  match y.runAheadFlit a with
  | none => s
  | some (d, f) =>
    let us := pieceList d (y.pieces d f [])
    if us.isEmpty ∨ ¬ y.room s.beat then s
    else
      let (y, m) := y.stage s.fresh us d.cache
      { s with fresh := m }.putEngine { y with e := { y.e with runAhead := y.e.runAhead + 1 } }

/-- One flit of the fetch sequence, for a descriptor of the kind asked for (R289–R296, R300–R304). -/
def State.fetchFlit (s : State) (k n kind : Nat) : State :=
  match s.engSite k n with
  | none => s
  | some y =>
    let a := y.e.fetchPlace
    match y.e.at? a with
    | none => s
    | some d =>
      if y.r.paused then s
      else if ¬ d.allowed n then s.engineFault y .faultFence
      else if d.kind = 7 ∧ kind = 1 then s.fetchAhead y a
      else if d.kind ≠ kind ∨ ¬ y.room s.beat then s
      else
        match (if d.kind = 4 then y.indicesFor s.fresh d y.e.fetchIdx (d.rowsNeeded y.e.fetchFlit)
               else .ready [] y s.fresh) with
        | .waits => s
        | .fails => s.engineFault y .faultFence
        | .ready xs y m =>
          let ps := y.pieces d y.e.fetchFlit xs
          if ps.any Option.isNone then s.engineFault y .faultFence
          else
            let (y, m) := y.stage m (pieceList d ps) d.cache
            { s with fresh := m }.putEngine { y with e := ({ y.e with fetchIdx := xs }).fetched d a }

/-- READ_STREAM (R263, R267, R290, R296, R303, R304, R525): the reads that wait go on, and the next flit of a kind 1 descriptor, or
of its run-ahead, is staged. -/
def execReadStream (e : EngRef) (s : State) : Out := .next ((s.retryReads e.rim e.eng).fetchFlit e.rim e.eng 1)

/-- GATHER (R267, R300, R301, R303, R525): the reads that wait go on, and the next flit of a kind 4 descriptor is staged. -/
def execGather (e : EngRef) (s : State) : Out := .next ((s.retryReads e.rim e.eng).fetchFlit e.rim e.eng 4)

/-! ### Consuming -/

/-- The 64 bytes of a payload that go to its `i`-th unit. -/
def Flit.unit (f : Flit) (i : Nat) : List Byte := wordBytes ((f.payload.drop (16 * i)).take 16)

/-- What the `i`-th unit of a flit does: an operation of a `FINALIZE` or `FLUSH` descriptor, nothing for a zero flit, else a write or
an operation with the unit's bytes (R295, R296, R300, R307); none is the fault of a reduction line. -/
def EngSite.takeUnit (y : EngSite) (n : Nat) (d : Descriptor) (f : Flit) (i u : Nat) : Option (EngSite × Nat) :=
  if d.flitless then (y.operateOne d u []).map (fun z => (z, n))
  else if ¬ f.valid then some (y, n)
  else if d.kind = 2 ∨ d.kind = 5 then some (y.writeOne n u d.cache (f.unit i))
  else (y.operateOne d u (f.unit i)).map (fun z => (z, n))

/-- The controller accepts what a unit of a flit issues (R267, R288). -/
def EngSite.canTake (y : EngSite) (d : Descriptor) (f : Flit) (u : Nat) : Bool :=
  let v := y.phys u
  if ¬ d.flitless ∧ ¬ f.valid then true
  else if d.kind = 2 ∨ d.kind = 5 then d.cache || (y.r.line? v).isSome || y.r.accepts y.n v
  else y.r.fits v d.op

/-- Take a flit to its units: those that the controller does not accept wait, and others pass them (R267). The places taken so far
come with the site and the next free value. -/
def EngSite.take (y : EngSite) (n : Nat) (d : Descriptor) (us : List Nat) (f : Flit) : Option (EngSite × Nat × List Nat) :=
  us.zipIdx.foldl (fun acc e => acc.bind (fun (g : EngSite × Nat × List Nat) =>
    if g.2.2.contains e.2 ∨ ¬ g.1.canTake d f e.1 then some g
    else (g.1.takeUnit g.2.1 d f e.2 e.1).map (fun z => (z.1, z.2, g.2.2 ++ [e.2])))) (some (y, n, y.e.useDone))

/-- One flit of the consume sequence, for a descriptor of a kind asked for (R289, R295, R296, R300, R303, R307). -/
def State.useFlit (s : State) (k n : Nat) (kinds : List Nat) : State :=
  match s.engSite k n with
  | none => s
  | some y =>
    let a := y.e.usePlace
    match y.e.at? a with
    | none => s
    | some d =>
      if y.r.paused then s
      else if ¬ d.allowed n then s.engineFault y .faultFence
      else if ¬ kinds.contains d.kind then s
      else if ¬ d.flitless ∧ y.e.received.isEmpty then s
      else
        match (if d.kind = 5 ∨ d.kind = 6 then y.indicesFor s.fresh d y.e.useIdx (d.rowsNeeded y.e.useFlit)
               else .ready [] y s.fresh) with
        | .waits => s
        | .fails => s.engineFault y .faultFence
        | .ready xs y m =>
          let ps := y.pieces d y.e.useFlit xs
          let us := pieceList d ps
          match y.take m d us (y.e.received.headD .zero) with
          | none => s.engineFault y .faultReductionLine
          | some (z, m, done) =>
            let e := { z.e with useIdx := xs }
            let e := if done.length < us.length then { e with useDone := done }
              else ({ e with useDone := [], received := if d.flitless then e.received else e.received.drop 1 }).used d a
            let t := { s with fresh := m }.putEngine { z with e }
            if ps.any Option.isNone then t.engineFault y .faultFence else t

/-- WRITE_STREAM (R296, R303, R307). -/
def execWriteStream (e : EngRef) (s : State) : Out := .next (s.useFlit e.rim e.eng [2])

/-- OPERATION_STREAM (R295, R296, R303, R307): a received flit, or 16 units of a `FINALIZE` or `FLUSH` descriptor. -/
def execOperationStream (e : EngRef) (s : State) : Out := .next (s.useFlit e.rim e.eng [3])

/-- SCATTER (R300, R301, R303, R307). -/
def execScatter (e : EngRef) (s : State) : Out := .next (s.useFlit e.rim e.eng [5])

/-- INDEXED_OPERATION (R295, R300, R303, R307). -/
def execIndexedOperation (e : EngRef) (s : State) : Out := .next (s.useFlit e.rim e.eng [6])

/-! ### Lists and hanks -/

/-- HANK_READ (R297): the next 16 descriptors of the layer's list. -/
def execHankRead (e : EngRef) (s : State) : Out :=
  match s.engSite e.rim e.eng with
  | none => .next s
  | some y =>
    if y.e.read < y.e.list.length then .next (s.putEngine { y with e := { y.e with read := y.e.read + 16 } }) else .next s

/-- Pass a null descriptor in each sequence that stands at one (R295, R525). -/
def Engine.skipNull (e : Engine) : Engine :=
  let null (a : Nat) : Bool := (e.at? a).any (fun d => d.kind == 0)
  let f := e.fetchPlace
  let u := e.usePlace
  let e := if null f then { e with fetchAt := f + 1 } else e
  if null u then { e with useAt := u + 1 } else e

/-- A sequence stands at a null descriptor that the tables do not allow (R303). -/
def Engine.badNull (e : Engine) (eng : Nat) : Bool :=
  [e.fetchPlace, e.usePlace].any (fun a => (e.at? a).any (fun d => d.kind == 0 && !d.allowed eng))

/-- NULL_DESCRIPTOR (R295, R303, R525). -/
def execNullDescriptor (e : EngRef) (s : State) : Out :=
  match s.engSite e.rim e.eng with
  | none => .next s
  | some y =>
    if y.e.badNull e.eng then .next (s.engineFault y .faultFence)
    else .next (s.putEngine { y with e := y.e.skipNull })

/-- The 16 descriptors of a hank flit as numbers; a zero flit holds nulls (R307). -/
def Flit.hankWords (f : Flit) : List Nat :=
  if f.valid then (List.range 16).map (fun i => leNat (f.unit i)) else List.replicate 16 0

/-- A reserved bit is set in a descriptor (R294). -/
def descriptorStray (v : Nat) : Bool := strayBits v descriptorFields

/-- A descriptor of a hank that came from the mesh: kind 7 is none there (R299), and reads as a reserved kind. -/
def hankDescriptor (d : Descriptor) : Descriptor := if d.kind = 7 then { d with kind := 15 } else d

/-- Run-ahead flits that a hank's first descriptor keeps, up to the first that lacks a piece or names another (R304). -/
def EngSite.kept (y : EngSite) (d h : Descriptor) : Nat :=
  if h.kind = 1 ∧ h.piece = d.piece ∧ h.cache = d.cache ∧ d.kind = 1 then
    ((List.range (min y.e.runAhead h.count)).takeWhile (fun f =>
      (y.e.staging[y.e.staging.length - y.e.runAhead + f]?).any (fun t => t.units.length == 16) && (List.range d.piecesPerFlit).all (fun i =>
        d.pieceAt (d.piecesPerFlit * (d.count + f) + i) == h.pieceAt (d.piecesPerFlit * f + i)))).length
  else 0

/-- Take the oldest hank in place of the kind 7 descriptor at place `a` (R299, R304, R525). -/
def EngSite.takeHank (y : EngSite) (a : Nat) (hank : List Descriptor) (rest : List (List Descriptor)) : EngSite :=
  let e := y.e
  let keep := match (if a = 0 then none else e.list[a - 1]?), hank.head? with
    | some d, some h => if e.fetchPlace = a then y.kept d h else 0
    | _, _ => 0
  let lost := e.runAhead - keep
  let whole : Bool := hank.head?.any (fun h => decide (h.count ≤ keep))
  let list := e.list.take a ++ hank ++ e.list.drop (a + 1)
  let fetch := if e.fetchPlace = a then
      if keep = 0 then (a, 0) else if whole then (a + 1, 0) else (a, keep)
    else (e.fetchAt, e.fetchFlit)
  { y with e := { e with
      list, hanks := rest, read := e.read + 15, taken := e.taken ++ [a + 16], fetchAt := fetch.1, fetchFlit := fetch.2,
      staging := e.staging.take (e.staging.length - lost), runAhead := 0,
      counters := { e.counters with discard := e.counters.discard + flitBytes * lost } } }

/-- Flits of staging that a pull may take: those that are not run-ahead (R289, R304). -/
def Engine.sure (e : Engine) : List Staged := e.staging.take (e.staging.length - e.runAhead)

/-- Put an engine back whose late pulls' flits may have become complete (R291, R310): each that has counts its lag, and when none is
left the belay drops from the next beat. -/
def State.settleLate (s : State) (y : EngSite) : State :=
  let e := y.e
  let met (l : Nat × Nat × Nat) : Bool := (e.sure[l.1 - e.pulled]?).any (fun t => t.complete.isSome)
  let lags := (e.late.filter met).map (fun l => s.beat - l.2.1 + 1)
  let late := e.late.filter (fun l => !met l)
  let c := e.counters
  let s' := s.putEngine { y with e := { e with
    late, counters := { c with lagSum := lags.foldl (· + ·) c.lagSum, maxLag := lags.foldl max c.maxLag } } }
  if late.isEmpty ∧ ¬ e.late.isEmpty then s'.dropLater y.p (.staging y.k y.n) else s'

/-- HANK_WAIT (R299, R304, R525): a sequence stands at a kind 7 descriptor and a hank has arrived. -/
def State.takeHank (s : State) (k n : Nat) : State :=
  match s.engSite k n with
  | none => s
  | some y =>
    let at7 (a : Nat) : Bool := (y.e.at? a).any (fun d => d.kind == 7)
    let a := if at7 y.e.fetchPlace then y.e.fetchPlace else y.e.usePlace
    match y.e.hanks with
    | [] => s
    | hank :: rest => if at7 a then s.settleLate (y.takeHank a hank rest) else s

def execHankWait (e : EngRef) (s : State) : Out := .next (s.takeHank e.rim e.eng)

/-! ### Edge entries -/

/-- The edge entries of a rim in the beat that lies `k` beats on. -/
def EngSite.edgesAt (y : EngSite) (k : Nat) : List EdgeEntry :=
  let (e, _, b) := y.q.onward k y.x.run.entry y.x.run.rep y.x.run.beat
  (((y.q.rim y.i).edges.getD (y.q.table e) []).filter (fun g => g.beat == b))

/-- The edge entries of the first 24 beats of the round that comes next while none is in progress. -/
def EngSite.startEdges (y : EngSite) : List EdgeEntry :=
  match (y.x.running?).bind (fun e => y.x.nextRound e.2 y.q) with
  | some (e, _, _) => ((y.q.rim y.i).edges.getD (y.q.table e) []).filter (fun g => decide (g.beat < 24))
  | none => []

/-- The entry has moved its flit in the current beat. -/
def EngSite.doneNow (y : EngSite) (g : EdgeEntry) : Bool :=
  y.r.ctx.edgeDone.1 == y.x.run.clock && y.r.ctx.edgeDone.2.contains (g.port, g.receive)

/-- The entry moves a flit of the engine in a direction, as a hank or not. -/
def EngSite.mine (y : EngSite) (receive hank : Bool) (g : EdgeEntry) : Bool :=
  g.eng == y.n && g.receive == receive && (!receive || g.hank == hank)

/-- Entries of an engine of one direction in the beats from now to 24 beats on that have not moved their flits; before a round, those
of its first 24 beats. -/
def EngSite.coming (y : EngSite) (receive hank : Bool) : Nat :=
  if y.x.run.phase ≠ .round then (y.startEdges.filter (y.mine receive hank)).length
  else
  ((List.range 25).map (fun k => ((y.edgesAt k).filter (fun g => y.mine receive hank g && !(k == 0 && y.doneNow g))).length)).foldl (· + ·) 0

/-- The entry for the beat 24 beats on names this engine; before a round, an entry of its first 24 beats. -/
def EngSite.named (y : EngSite) (receive hank : Bool) : Bool :=
  (if y.x.run.phase = .round then y.edgesAt 24 else y.startEdges).any (y.mine receive hank)

/-- The partition is in a round and its domain does not freeze. -/
def State.live (s : State) (y : EngSite) : Bool :=
  !s.frozen y.p && y.x.run.phase == .round && decide (y.x.run.beat < y.q.length y.x.run.entry)

/-- A check 24 beats ahead of an edge entry may fall in this beat: in a live round, or while the next round's start is awaited, for
its first 24 beats (R198). -/
def State.checks (s : State) (y : EngSite) : Bool := s.live y || y.x.run.phase != .round

/-- STAGING_PULL_CHECK (R291, R198, R199): a flit that is not complete raises belay; one that is adds its lead. -/
def execStagingPullCheck (e : EngRef) (s : State) : Out :=
  match s.engSite e.rim e.eng with
  | none => .next s
  | some y =>
    if ¬ s.checks y ∨ ¬ y.named false false ∨ y.coming false false ≤ y.e.pulls then .next s
    else
      let g := y.e
      let c := g.counters
      match (g.sure[g.pulls]?).bind (·.complete) with
      | some t =>
        let lead := s.beat - t
        .next (s.putEngine { y with e := { g with
          pulls := g.pulls + 1, counters := { c with leadSum := c.leadSum + lead, minLead := min c.minLead lead } } })
      | none =>
        .next ((s.putEngine { y with e := { g with
          pulls := g.pulls + 1, late := g.late ++ [(g.pulled + g.pulls, s.beat, s.time)],
          counters := { c with late := c.late + 1 } } }).raise (s.wireOf y.p) (.staging y.k y.n))

/-- A read of the engine of span unit `u` is in flight. -/
def EngSite.flying (y : EngSite) (u : Nat) : Bool := y.r.outstanding.any (fun t => t.unit == y.phys u && t.req == y.n)

/-- STAGING_FLIT_COMPLETE (R291, R310): the oldest flit in staging with none of its units waiting or in flight is complete; when no
late pull is left the belay drops from the next beat. -/
def execStagingFlitComplete (e : EngRef) (s : State) : Out :=
  match s.engSite e.rim e.eng with
  | none => .next s
  | some y =>
    let g := y.e
    let ready (t : Staged) : Bool := t.complete.isNone && t.waiting.isEmpty && t.units.all (fun u => !y.flying u)
    match g.staging.findIdx? ready with
    | none => .next s
    | some i =>
      let staging := g.staging.zipIdx.map (fun t => if t.2 = i then { t.1 with complete := some s.beat } else t.1)
      .next (s.settleLate { y with e := { g with staging } })

/-- STAGING_HANK_TIMEOUT (R293): a late pull waits for a hank or an index that has not been delivered, for longer than the
sync timeout. -/
def execStagingHankTimeout (e : EngRef) (s : State) : Out :=
  match s.engSite e.rim e.eng with
  | none => .next s
  | some y =>
    let late : Bool := y.e.late.any (fun l => decide (y.q.syncTimeout * usec < s.time - l.2.2))
    let waits : Bool :=
      match y.e.at? y.e.fetchPlace with
      | some d =>
        (d.kind == 7 && y.e.hanks.isEmpty)
          || (d.kind == 4 && d.idxTether && (match y.indicesFor s.fresh d y.e.fetchIdx (d.rowsNeeded y.e.fetchFlit) with
              | .waits => true
              | _ => false))
      | none => false
    if late ∧ waits then .next ((s.engineFault y .faultHank).dropBoth y.p (.staging y.k y.n)) else .next s

/-- Write-staging flits of a rim (R288). -/
def writePlaces : Nat := 4096

/-- Write-staging places taken or reserved at a rim (R292). -/
def EngSite.placesTaken (y : EngSite) : Nat :=
  ((List.range 8).map (fun m => (y.engine m).received.length + (y.engine m).reserved)).foldl (· + ·) 0

/-- Hank places taken or reserved: a taken hank frees its place when its last descriptor has been reached by both sequences
(R292). -/
def Engine.hankPlaces (e : Engine) : Nat :=
  e.hanks.length + e.hankReserved + (e.taken.filter (fun t => decide (min e.fetchPlace e.usePlace + 1 < t))).length

/-- RECEIVE_PLACE_CHECK (R292): a place is reserved for the receive, or belay is raised until one frees. -/
def execReceivePlaceCheck (e : EngRef) (hank : Bool) (s : State) : Out :=
  match s.engSite e.rim e.eng with
  | none => .next s
  | some y =>
    let g := y.e
    let known := if hank then g.hankReserved + g.hankWait else g.reserved + g.placeWait
    if ¬ s.checks y ∨ ¬ y.named true hank ∨ y.coming true hank ≤ known then .next s
    else if hank then
      if g.hankPlaces < 4 then .next (s.putEngine { y with e := { g with hankReserved := g.hankReserved + 1 } })
      else .next ((s.putEngine { y with e := { g with hankWait := g.hankWait + 1 } }).raise (s.wireOf y.p)
        (.place y.k y.n true))
    else if y.placesTaken < writePlaces then
      .next (s.putEngine { y with e := { g with reserved := g.reserved + 1 } })
    else .next ((s.putEngine { y with e := { g with placeWait := g.placeWait + 1 } }).raise (s.wireOf y.p)
      (.place y.k y.n false))

/-- STAGING_PLACE_FREE (R292): a place has freed and is reserved for a receive that waits in belay. -/
def execStagingPlaceFree (e : EngRef) (hank : Bool) (s : State) : Out :=
  match s.engSite e.rim e.eng with
  | none => .next s
  | some y =>
    let g := y.e
    if hank then
      if g.hankWait = 0 ∨ 4 ≤ g.hankPlaces then .next s
      else
        let s := s.putEngine { y with e := { g with hankReserved := g.hankReserved + 1, hankWait := g.hankWait - 1 } }
        if g.hankWait = 1 then .next (s.dropLater y.p (.place y.k y.n true)) else .next s
    else if g.placeWait = 0 ∨ writePlaces ≤ y.placesTaken then .next s
    else
      let s := s.putEngine { y with e := { g with reserved := g.reserved + 1, placeWait := g.placeWait - 1 } }
      if g.placeWait = 1 then .next (s.dropLater y.p (.place y.k y.n false)) else .next s

/-- Note that a port has moved its flit in this beat. -/
def EngSite.noteEdge (y : EngSite) (g : EdgeEntry) : EngSite :=
  let old := y.r.ctx.edgeDone
  let ports := if old.1 = y.x.run.clock then old.2 else []
  { y with r := { y.r with ctx := { y.r.ctx with edgeDone := (y.x.run.clock, ports ++ [(g.port, g.receive)]) } } }

/-- The entry of a port in the current beat that comes next: earlier ports of its engine have moved theirs (R306). -/
def State.edgeNow (s : State) (rim port : Nat) (receive : Bool) : Option (EngSite × EdgeEntry) :=
  match s.engSite rim 0 with
  | none => none
  | some z =>
    match (z.edgesAt 0).find? (fun g => g.port == port && g.receive == receive) with
    | none => none
    | some g =>
      match s.engSite rim g.eng with
      | none => none
      | some y =>
        let before : Bool := (y.edgesAt 0).any (fun h =>
          h.eng == g.eng && h.receive == receive && decide (h.port < port) && !y.doneNow h)
        if s.live y ∧ g.eng ≤ 7 ∧ ¬ y.doneNow g ∧ ¬ before then some (y, g) else none

/-- RIM_EDGE_PULL (R289, R291, R304, R306, R310): the engine's next flit leaves for the mesh; a flit of run-ahead is none until its
hank has come. -/
def execRimEdgePull (rim : RimId) (port : Fin 16) (s : State) : Out :=
  match s.edgeNow rim port false with
  | none => .next s
  | some (y, g) =>
    match y.e.staging with
    | t :: rest =>
      if t.complete.isNone ∨ rest.length < y.e.runAhead then .next s
      else
        let c := y.e.counters
        let e := { y.e with
          staging := rest, pulled := y.e.pulled + 1, pulls := y.e.pulls - 1,
          counters := { c with useful := c.useful + flitBytes, pulls := c.pulls + 1 } }
        let y := ({ y with e } : EngSite).noteEdge g
        let x := match s.facing rim port with
          | some (c, r, side) =>
            State.enter y.x c r side (y.x.run.clock + 2) (y.x.run.beat + 2) (.plain (bytesToLanes t.data))
          | none => y.x
        .next (s.putEngine { y with x })
    | [] => .next s

/-- RIM_EDGE_RECEIVE (R289, R292, R299, R306, R307): the flit that reaches the rim edge router goes to write staging or the hank
buffer. A reserved bit in a hank's descriptor refuses the hank (R11, R294; log entry 28). -/
def execRimEdgeReceive (rim : RimId) (port : Fin 16) (s : State) : Out :=
  match s.edgeNow rim port true with
  | none => .next s
  | some (y, g) =>
    let now := y.x.run.clock
    let here (a : EdgeArrival) : Bool := a.rim == rim.val && a.port == port.val
    let f := ((y.x.edge.find? (fun a => here a && a.beat == now)).map (·.flit)).getD .zero
    let x := { y.x with edge := y.x.edge.filter (fun a => !(here a && decide (a.beat ≤ now))) }
    let y := ({ y with x } : EngSite).noteEdge g
    if g.hank then
      if y.e.hankReserved = 0 ∧ 4 ≤ y.e.hankPlaces then .next s
      else if f.hankWords.any descriptorStray then .next ((s.putEngine y).engineFault y .reservedNonzero)
      else
        let hank := f.hankWords.map (fun v => hankDescriptor (Descriptor.ofNat v))
        .next (s.putEngine { y with e := { y.e with hanks := y.e.hanks ++ [hank], hankReserved := y.e.hankReserved - 1 } })
    else if y.e.reserved = 0 ∧ writePlaces ≤ y.placesTaken then .next s
    else .next (s.putEngine { y with e := { y.e with received := y.e.received ++ [f], reserved := y.e.reserved - 1 } })

/-! ### Bind-off (R217, R311) -/

/-- The three conditions of R217 at a rim. -/
def State.boundOff (s : State) (k : Nat) : Bool :=
  let r := s.rim k
  r.outstanding.isEmpty && r.writes.all (fun w => decide (8 ≤ w.req)) && r.ctx.engines.all (fun e =>
    !e.2.outstanding && e.2.received.isEmpty && e.2.staging.all (fun t => t.waiting.isEmpty))

/-- The round in progress is the last of its layer (R217). -/
def Partition.lastOfLayer (x : Partition) (q : Pattern) : Bool :=
  let r := x.run
  decide ((q.rounds.getD r.entry (0, 1)).2 ≤ r.rep + 1)
    && (decide (q.rounds.length ≤ r.entry + 1) || (q.layerOf r.entry).layer != (q.layerOf (r.entry + 1)).layer)

/-- Flits that the engine's descriptors have still to receive. -/
def Engine.owed (e : Engine) : Nat :=
  let rest := (e.list.drop e.usePlace).filter (fun d => d.consumes && !d.flitless)
  let begun : Bool := (e.list[e.usePlace]?).any (fun d => d.consumes && !d.flitless)
  (rest.map (·.flits)).foldl (· + ·) 0 - (if begun then e.useFlit else 0)

/-- An engine holds a descriptor that waits for flits (R311). -/
def Engine.starved (e : Engine) : Bool := decide (e.received.length < e.owed)

/-- BIND_OFF_CHECK (R217, R311). -/
def execBindOffCheck (rim : RimId) (s : State) : Out :=
  match s.engSite rim 0 with
  | none => .next s
  | some y =>
    let left := y.q.length y.x.run.entry - y.x.run.beat
    if ¬ s.live y ∨ 24 < left ∨ ¬ y.x.lastOfLayer y.q then .next s
    else if y.r.ctx.engines.any (fun e => e.2.starved) then .next (s.engineFault y .faultBindOff)
    else if s.boundOff rim then .next s
    else .next (s.raise (s.wireOf y.p) (.bindOff rim))

/-- BIND_OFF_RELEASE (R217): all three conditions hold; the belay drops in the beat after. -/
def execBindOffRelease (rim : RimId) (s : State) : Out :=
  match s.rimOwner rim with
  | none => .next s
  | some (p, _) =>
    if s.holdsWire p (.bindOff rim) ∧ s.boundOff rim then .next (s.dropLater p (.bindOff rim)) else .next s

/-! ### Committing what was received, and the end of a restore hold -/

/-- Every read in flight completes, and every write that waits drains. -/
def Rim.complete (r : Rim) : Rim := ({ r with outstanding := [] } : Rim).drainAll

/-- One move of an engine's consume sequence, whatever stands there; the rim completes what it has accepted (R312). -/
def State.commitStep (s : State) (k n : Nat) : State :=
  let s := s.setRim k (s.rim k).complete
  match s.engSite k n with
  | none => s
  | some y =>
    let s := s.putEngine { y with e := ({ y.e with read := y.e.list.length }).skipNull }
    match (y.e.list[y.e.usePlace]?).map (·.kind) with
    | some 0 => s
    | some 7 => s.takeHank k n
    | some _ => s.useFlit k n [2, 3, 5, 6]
    | none => s

/-- Moves that bring every received flit of an engine to the stack. -/
def Engine.commitMoves (e : Engine) : Nat :=
  e.received.length + e.list.length + 17 * e.hanks.length
    + ((e.list.filter (fun d => d.flitless)).map (·.flits)).foldl (· + ·) 0

/-- Commit the received flits of an engine (R212, R312). -/
def State.commitEngine (s : State) (k n : Nat) : State :=
  foldRange (Sparse.getD Engine.idle (s.rim k).ctx.engines n).commitMoves s (fun t _ =>
    if (Sparse.getD Engine.idle (t.rim k).ctx.engines n).received.isEmpty then t else t.commitStep k n)

/-- A rim that calibrates holds received flits that it cannot commit yet (R212, R273). -/
def State.commitWaits (s : State) (x : Partition) : Bool :=
  x.stackRims.any (fun k => (s.rim k).halted && (s.rim k).ctx.engines.any (fun e => !e.2.received.isEmpty))

/-- Commit the write staging of a partition's rims. -/
def State.commitRims (s : State) (x : Partition) : State :=
  x.stackRims.foldl (fun t k => foldRange 8 t (fun t n => t.commitEngine k n)) s

/-- An engine at a restart point (R212): staging and hanks discarded, and nothing reserved. -/
def Engine.restart (e : Engine) : Engine :=
  { Engine.idle with
    indices := e.indices,
    counters := { e.counters with discard := e.counters.discard + flitBytes * e.staging.length } }

/-- The dies of a partition at its restart point, and its next round the one there (R143, R212). -/
def Partition.atRestart (x : Partition) (q : Pattern) : Partition :=
  let e := x.restartEntry q
  let x := x.mapDies (fun _ d => d.restart (q.layerOf e).layer)
  let counts := Sparse.getD (x.unresolved, x.clamps) x.run.layerCounts (q.layerOf e).layer
  { x with
    edge := [], crossing := [], unresolved := counts.1, clamps := counts.2,
    response := { x.response with restoring := false, marker := false, reruns := x.response.reruns + 1 },
    run := { x.run with phase := .boundary, restartAt := some e, admitted := false, beat := 0, holds := [] } }

/-- The rims of a partition at a restart point (R212). -/
def State.restartRims (s : State) (x : Partition) : State :=
  x.stackRims.foldl (fun t k =>
    let r := t.rim k
    t.setRim k { r.complete with ctx := { r.ctx with engines := Sparse.mapVals (fun _ g => g.restart) r.ctx.engines } }) s

/-- A partition whose stopped dies go on between two steps, a table phase among them: nothing of a step is repeated, and the phase,
whose result is the same each time, goes on to its end (R326). -/
def Partition.resumed (x : Partition) : Partition :=
  { x.mapDies (fun _ d => if d.stopped then { d with stopped := false } else d) with
    response := { x.response with restoring := false, marker := false } }

/-- RESTORE_HOLD_RELEASE (R139, R140, R143, R212, R326, R430): the stopped dies' persistent regions are restored, received flits
committed (a rim that calibrates first ends that), the partition stands at its restart point, and the hold ends. Between steps no
beat is repeated. -/
def execRestoreHoldRelease (p : PartId) (s : State) : Out :=
  match s.partition? p with
  | none => .next s
  | some x =>
    match x.running? with
    | none => .next s
    | some (c, v) =>
      match v.pattern with
      | none => .next s
      | some q =>
        if ¬ x.response.restoring ∨ s.commitWaits x then .next s
        else
          let stopped := (List.range x.size).filter (fun d => (x.die d).stopped)
          let s := stopped.foldl (fun t d => t.restoreRegions p c d q) (s.commitRims x)
          match s.partition? p with
          | none => .next s
          | some x =>
            if x.run.phase = .round then .next (((s.setPartition p (x.atRestart q)).restartRims x).dropAll p x)
            else .next ((s.setPartition p x.resumed).dropBoth p (.restoreHold p))

/-! ### The remote path (R308) -/

/-- An engine has a request waiting at the controller. -/
def Engine.asks (e : Engine) (eng : Nat) : Bool :=
  e.staging.any (fun t => !t.waiting.isEmpty) || !e.received.isEmpty
    || ((e.at? e.fetchPlace).any (fun d => d.fetches) && decide (e.staging.length < stagingPlaces eng))

/-- A stream or gather engine of the rim has a request waiting. -/
def Rim.enginesAsk (r : Rim) : Bool := r.ctx.engines.any (fun e => e.2.asks e.1)

/-- Rim `k` admits `n` remote-path transactions now: it is not paused, and the bucket holds their tokens, or as many as it can, or
no engine waits (R265, R273, R308; log entry 106). -/
def State.remoteAdmits (s : State) (k n : Nat) : Bool :=
  let r := s.rim k
  !r.paused && (decide (min (700 * n) bucketDepth ≤ r.tokens) || !r.enginesAsk)

/-- The rims admit a transfer of `n` bytes at partition stack address `a`. -/
def State.remoteReady (s : State) (p a n : Nat) : Bool :=
  match s.partition? p with
  | none => true
  | some x =>
    match x.stackRims[a / (64 * stackUnits)]? with
    | none => true
    | some k => n == 0 || s.remoteAdmits k (ceilDiv n 64)

end Sys2Proof.Machine
end

