-- ==== Sys2Proof/Machine/Sparing.lean ====
section
/-! DEFINITION. Spare groups, the current logical mesh, heartbeats, die loss and diagnosis
(spec/15_reliability_and_sparing.md R446–R455). -/

namespace Sys2Proof.Machine

/-! ### Skeins and groups -/

/-- Set bits of an 18-bit set. -/
def count18 (v : BitVec 18) : Nat := ((List.range 18).filter (fun i => v.getLsbD i)).length

/-- Group `g` can serve a logical row (R448, R453). -/
def State.groupServes (s : State) (g : Nat) : Bool := decide (count18 (s.retiredIn g) ≤ s.part.budget g)

/-- Height and first group of the current mesh (R453): the tallest whole block, the southernmost of its height. -/
def State.deriveMesh (s : State) : Option (Nat × Nat) :=
  [16, 8, 4].findSome? (fun h =>
    ((List.range (s.part.rows / h)).find? (fun k => (List.range h).all (fun r => s.groupServes (k * h + r)))).map
      (fun k => (h, k * h)))

/-- The mesh fields from the spare record (R453); an empty mesh has no column and no row. -/
def State.remesh (s : State) : State :=
  match s.deriveMesh with
  | some (h, r) => { s with meshW := 16, meshH := h, row0 := r }
  | none => { s with meshW := 0, meshH := 0, row0 := 0 }

/-- The skein serves a logical position of the current mesh (R446, R448). -/
def State.serves (s : State) (n : Nat) : Bool :=
  let (g, c) := skeinOf n
  decide (s.row0 ≤ g) && decide (g < s.row0 + s.meshH) && (List.range 16).any (fun i => s.physicalColumn g i == c)

/-- Retire a skein (R449). -/
def State.retire (s : State) (n : Nat) : State :=
  let (g, c) := skeinOf n
  { s with spares := { s.spares with retired := Sparse.set s.spares.retired g (s.retiredIn g ||| (1#18 <<< c)) } }

/-- Mark a rim die lost (R449). -/
def State.loseRim (s : State) (k : Nat) : State :=
  { s with spares := { s.spares with rimLost := s.spares.rimLost ||| (1#16 <<< k) } }

/-- Retire or mark lost a die that fails its test. -/
def State.failDie (s : State) (n : Nat) : State :=
  if Part.fitsSkein s.part n then s.retire n else if Part.fitsRim s.part n then s.loseRim (n - 1) else s

/-- Rim `k`'s span borders a die of the current mesh (R19, R454). -/
def State.borders (s : State) (k : Nat) : Bool :=
  decide (0 < s.meshH) &&
    (match k / 4 with
     | 0 => s.row0 == 0
     | 2 => s.row0 + s.meshH == s.part.rows
     | _ => (List.range 4).any (fun i => decide (s.row0 ≤ 4 * (k % 4) + i) && decide (4 * (k % 4) + i < s.row0 + s.meshH)))

/-- A stack that a stack mask may name (R352, R454). -/
def State.stackUsable (s : State) (k : Nat) : Bool := s.part.hasRim k && !s.spares.rimLost.getLsbD k && s.borders k

/-! ### Teardown -/

/-- Begin the teardown of a partition (R375, R376): it leaves the transit group, and its own wire is raised until the teardown
is complete. -/
def State.beginTeardown (s : State) (p : Nat) : State :=
  match s.partition? p with
  | none => s
  | some x => ((s.dropAll p x).setPartition p { x with teardown := true }).raise p (.teardown p)

/-- End every job of a partition as killed; its steps complete with the status (R371, R375). -/
def State.killJobs (s : State) (p : Nat) (x : Partition) (st : Status) : State :=
  x.contexts.foldl (fun t e => t.endJob p e.1 .killed st 0 false) s

/-- Note the leases of a partition that is to be torn down: they are released when its teardown is complete (R376). -/
def State.holdLeases (s : State) (p : Nat) (x : Partition) : State :=
  s.setPartition p { x with heldLeases := x.patterns.flatMap (·.leases) }

/-- Kill the jobs of a partition and end its commands (R375, R395). -/
def State.stopPartition (s : State) (p : Nat) (x : Partition) (st : Status) (by_ : Option (Nat × Nat)) : State :=
  ((s.holdLeases p x).killJobs p x st).endCommands p st by_

/-! ### Heartbeats and die loss -/

/-- HEARTBEAT (R446): every skein and rim die that does not answer has missed one more, and every other none. -/
def execHeartbeat (silent : List Node) (s : State) : Out :=
  if s.stage ≠ .ready then .next s
  else
    let nodes := (List.range 320).filter (fun n => silent.contains n && (Part.fitsSkein s.part n || Part.fitsRim s.part n))
    .next { s with heartbeats := nodes.map (fun n => (n, min 3 (Sparse.getD 0 s.heartbeats n + 1))) }

/-- DIE_LOSS (R446): a fault for a skein that serves a logical position and for a rim die; a spare skein is retired. -/
def execDieLoss (n : Node) (cause : LossCause) (s : State) : Out :=
  let (g, c) := skeinOf n
  let lost : Bool := cause != .heartbeats || decide (3 ≤ Sparse.getD 0 s.heartbeats n)
  if s.stage ≠ .ready ∨ ¬ lost then .next s
  else if Part.fitsRim s.part n then
    if s.spares.rimLost.getLsbD (n - 1) then .next s else .next (s.hardFault .hwDieLoss n 0)
  else if ¬ Part.fitsSkein s.part n ∨ (s.retiredIn g).getLsbD c then .next s
  else if s.serves n then .next (s.hardFault .hwDieLoss n 0)
  else .next (s.retire n)

/-! ### Diagnosis -/

/-- 24 h of powered time. -/
def dayTime : Nat := 24 * 3600 * second

/-- Step 3 of R450: a skein named by an R145 fault that passes its test is retired at its second within 24 h of powered time,
and otherwise the fault's time is recorded. -/
def State.noteRepeat (s : State) (n : Nat) : State :=
  let again : Bool := match Sparse.get? s.spares.faultAt n with
    | some t => decide (s.spares.powered ≤ t + dayTime)
    | none => false
  if again then s.retire n
  else { s with spares := { s.spares with faultAt := Sparse.set s.spares.faultAt n s.spares.powered } }

/-- Unused spare budget of a skein's group. -/
def State.spareLeft (s : State) (n : Nat) : Nat := s.part.budget (skeinOf n).1 - count18 (s.retiredIn (skeinOf n).1)

/-- Step 4 of R450: which end of a lost link whose ends both pass is given up (R451). -/
def State.loseLink (s : State) (a b : Nat) : State :=
  let skein (n : Nat) : Bool := Part.fitsSkein s.part n
  if skein a ∧ skein b then
    if s.spareLeft b < s.spareLeft a then s.retire a
    else if s.spareLeft a < s.spareLeft b then s.retire b
    else s.retire (max a b)
  else if skein a then s.retire a
  else if skein b then s.retire b
  else if a = 0 then s.failDie b
  else if b = 0 then s.failDie a
  else s

/-- The dies that a fault names as its source, or the ends of a lost link. -/
def sourceEnds (e : Status × Nat × Nat) : List Nat := if e.1 = .hwLinkLoss then [e.2.1, e.2.2] else [e.2.1]

/-- Every source of a diagnosis (R450, steps 1–4): the dies that fail their tests are given up first, then the skeins of repeated
R145 faults, then an end of each lost link whose ends both pass. -/
def State.diagnose (s : State) (failed : List Nat) : State :=
  let bad (n : Nat) : Bool := failed.contains n
  let links := ((s.diagSources.filter (fun e => e.1 == .hwLinkLoss)).map (fun e => (min e.2.1 e.2.2, max e.2.1 e.2.2))).dedup
  let repeats := (s.diagSources.filter (fun e => e.1 == .hwSramRepeat && Part.fitsSkein s.part e.2.1)).map (fun e => e.2.1)
  let t := ((s.diagSources.flatMap sourceEnds).filter bad).foldl (fun t n => t.failDie n) s
  let t := (repeats.filter (fun n => !bad n)).foldl (fun t n => t.noteRepeat n) t
  (links.filter (fun l => !bad l.1 && !bad l.2)).foldl (fun t l => t.loseLink l.1 l.2) t

/-- A partition keeps its groups when the mesh's first group moves: its rows in the new mesh, or none when a group or a stack of
it is not usable (R454; log entry 29). -/
def Partition.moved (x : Partition) (s : State) (oldRow0 : Nat) : Option Partition :=
  let g := oldRow0 + x.row0
  if s.row0 ≤ g ∧ g + x.height ≤ s.row0 + s.meshH ∧ x.stackRims.all (fun k => s.stackUsable k) then
    some { x with row0 := g - s.row0 }
  else none

/-- DIAGNOSIS (R450–R454): `failed` names the dies whose built-in test fails. -/
def execDiagnosis (failed : List Node) (s : State) : Out :=
  if ¬ s.diag then .next s
  else
    let before := s.spares
    let t := (s.diagnose failed).remesh
    let changed : Bool := t.spares.retired != before.retired || t.spares.rimLost != before.rimLost
    let t := { t with diag := false, diagSources := [], meshValid := true, heartbeats := [],
                      spares := { t.spares with remaps := if changed then t.spares.remaps + 1 else t.spares.remaps } }
    .next (t.partitions.foldl (fun u e =>
      if e.2.teardown then u
      else match e.2.moved t s.row0 with
        | some x => u.setPartition e.1 x
        | none => (u.stopPartition e.1 e.2 .noPartition none).beginTeardown e.1) t)

end Sys2Proof.Machine
end

