-- ==== Sys2Proof/Machine/Power.lean ====
section
/-! DEFINITION. Supply, temperature, the power limit's inputs, the clock points and the protection pins
(spec/14_power_and_energy.md R418–R422, R428, R433–R441, spec/09_stack_memory.md R264, R265, spec/17_contacts_and_windows.md
R497, R500, R506). -/

namespace Sys2Proof.Machine

/-! ### Powering down and up -/

/-- What survives without die power (R418, R440, R449, R483–R485, R493): the fuses, the flash with its slots and spare record,
what lies outside the module, and the model's own counters. -/
def State.unpowered (s : State) (how : Power) : State :=
  { State.reset with
    part := s.part, converters := s.converters, perst := s.perst, emerg := s.emerg, power := how,
    pwrgd := if how = .removed then .highZ else .low,
    thermtripN := if how = .tripped then .low else .highZ,
    envelope := s.part.floorW, plim := s.part.floorW, beatLimit := s.part.floorW,
    firmware := s.firmware, activeSlot := s.activeSlot, keyRevoked := s.keyRevoked, minSvn := s.minSvn,
    bootCount := s.bootCount, serial := s.serial, spares := s.spares, hostMem := s.hostMem, messages := s.messages,
    keyNumber := s.keyNumber, fresh := s.fresh, pending := s.pending }

/-- A thermal trip (R437). -/
def State.trip (s : State) : State := s.unpowered .tripped

/-- POWER_GOOD (R419, R476, R500): time starts at 0 and PWRGD rises. -/
def execPowerGood (s : State) : Out :=
  if s.power ≠ .waiting ∧ s.power ≠ .inputOut ∧ s.power ≠ .removed ∨ s.emerg then .next s
  else .next ({ s.unpowered .good with pwrgd := .high, converters := 0xFFFF }).relimit

/-- INPUT_OUT_OF_RANGE (R419): the module powers down as EMERG_OFF_N does, and waits for power-good. -/
def execInputOutOfRange (s : State) : Out :=
  if s.power = .good ∨ s.power = .emergency then .next (s.unpowered .inputOut) else .next s

/-- POWER_LOSS (R418). -/
def execPowerLoss (s : State) : Out := .next (s.unpowered .removed)

/-- EMERG_OFF_N (R440). -/
def execEmergOffN (s : State) : Out :=
  if s.power = .good then .next { s.unpowered .emergency with emerg := true } else .next { s with emerg := true }

/-- EMERG_OFF_RELEASE (R440): the module runs cast-on from its start. -/
def execEmergOffRelease (s : State) : Out :=
  if ¬ s.emerg then .next s
  else if s.power = .emergency then
    .next ({ s.unpowered .good with emerg := false, pwrgd := .high }).relimit
  else .next { s with emerg := false }

/-- CONVERTER_FAULT (R420, R421). -/
def execConverterFault (i : Fin 16) (s : State) : Out :=
  if s.part.converters ≤ i.val then .next s
  else .next ({ s with converters := s.converters &&& ~~~ (1#16 <<< i.val) }).relimit

/-! ### THROT_N -/

/-- THROT_N_ASSERT (R439): the floor limits, and every positive credit becomes zero. -/
def execThrotNAssert (s : State) : Out :=
  if s.power ≠ .good ∨ s.perst ∨ s.throt then .next s
  else
    .next ({ s with
      throt := true, throtAt := s.time,
      partitions := Sparse.mapVals (fun _ x => { x with credit := min x.credit 0 }) s.partitions }).relimit

/-- THROT_N_RELEASE (R422, R439): at least 1 ms after it was accepted; a stored envelope takes effect. -/
def execThrotNRelease (s : State) : Out :=
  if ¬ s.throt ∨ s.time < s.throtAt + msec then .next s
  else .next ({ s with throt := false, envelope := s.storedEnvelope.getD s.envelope, storedEnvelope := none }).relimit

/-! ### Temperatures -/

/-- Thresholds in 1/16 °C. -/
def celsius (t : Int) : Int := 16 * t

/-- A reading of a stack sensor: the nearest quarter degree, half-way up (R264). -/
def stackReading (sensor : Int) : Int := (sensor + 2) / 4 * 4

/-- The partition and die index whose skein is node `n`. -/
def State.dieAtNode (s : State) (n : Nat) : Option (Nat × Nat) :=
  s.partitions.findSome? (fun e =>
    ((List.range e.2.size).find? (fun d => s.dieNode e.2 d == n)).map (fun d => (e.1, d)))

/-- Every stack of the partition reads below 101 °C and every die below 100 °C (R428). -/
def State.cooled (s : State) (x : Partition) : Bool :=
  x.stackRims.all (fun k => decide ((s.rim k).temperature < celsius 101))
    && (List.range x.size).all (fun d => decide (Sparse.getD 0 s.junctions (s.dieNode x d) < celsius 100))

/-- The hot hold of a partition after a sample (R428). -/
def State.rehot (s : State) (p : Nat) (hot : Bool) : State :=
  match s.partition? p with
  | none => s
  | some x => s.setPartition p { x with hot := hot || (x.hot && !s.cooled x) }

/-- The thermal step of a rim after a reading (R265). -/
def Rim.thermalStep (r : Rim) (t : Int) : Rim :=
  let b92 := if t < celsius 92 then r.below92 + 1 else 0
  let b97 := if t < celsius 97 then r.below97 + 1 else 0
  let cap50 : Bool := decide (celsius 100 ≤ t) || (r.thermal == .cap50 && decide (b97 < 10))
  let cap75 : Bool := cap50 || decide (celsius 95 ≤ t) || (r.thermal != .none && decide (b92 < 10))
  let thermal : Thermal := if r.thermal = .stopped then .stopped else if cap50 then .cap50 else if cap75 then .cap75 else .none
  { r with temperature := t, thermal, below92 := min 10 b92, below97 := min 10 b97 }

/-- STACK_TEMPERATURE_SAMPLE (R264, R265, R428, R437): the sensor's value in 1/16 °C. -/
def execStackTemperatureSample (rim : RimId) (sensor : Int) (s : State) : Out :=
  if s.power ≠ .good ∨ ¬ s.part.hasRim rim then .next s
  else
    let t := stackReading sensor
    let r := s.rim rim
    if celsius 110 ≤ t then .next s.trip
    else
      let stop : Bool := decide (celsius 105 ≤ t) && r.thermal != .stopped
      let r := r.thermalStep t
      let r := if stop then { r with thermal := .stopped, outstanding := [], writes := [] } else r
      let s := s.setRim rim r
      let s := match s.rimOwner rim with
        | some (p, _) => s.rehot p (decide (celsius 103 ≤ t))
        | none => s
      let s := s.relimit
      .next (if stop then s.hardFault .hwStackTemp (rimNode rim) 0 else s)

/-- DIE_TEMPERATURE_SAMPLE (R428, R437, R506): the junction of a skein, a rim die or the hub, in 1/16 °C. -/
def execDieTemperatureSample (n : Node) (junction : Int) (s : State) : Out :=
  if s.power ≠ .good then .next s
  else if celsius 115 ≤ junction then .next s.trip
  else
    let s := { s with junctions := Sparse.set s.junctions n junction }
    match s.dieAtNode n with
    | none => .next s
    | some (p, _) => .next (s.rehot p (decide (celsius 105 ≤ junction))).relimit

/-- COOLANT_SAMPLE (R421, R436, R437). -/
def execCoolantSample (inlet outlet : Int) (s : State) : Out :=
  if s.power ≠ .good then .next s
  else if celsius 70 ≤ outlet then .next s.trip
  else .next ({ s with coolantIn := inlet, coolantOut := outlet }).relimit

/-- CONVERTER_TEMPERATURE_SAMPLE (R437): whole degrees. -/
def execConverterTemperatureSample (i : Fin 16) (degrees : Int) (s : State) : Out :=
  if s.power = .good ∧ i.val < s.part.converters ∧ 125 ≤ degrees then .next s.trip else .next s

/-! ### The clock points (R433, R434) -/

/-- Number of the feature `LOW_CLOCK` (R399). -/
def featLowClock : Nat := 11

/-- CLOCK_POINT_DECISION (R433). -/
def execClockPointDecision (s : State) : Out :=
  let down : Bool := !s.clockLow && s.features.getLsbD featLowClock
    && (match s.belowSince with | some t => decide (t + 10 * msec ≤ s.time) | none => false)
  let up : Bool := s.clockLow && (!s.features.getLsbD featLowClock
    || (match s.aboveSince with | some t => decide (t + 100 * msec ≤ s.time) | none => false))
  if s.power = .good ∧ (down ∨ up) then .next { s with clockPending := true } else .next s

/-- CLOCK_CHANGE (R434): every die and rim together, 20 µs after every partition lets it; rounds are admitted again. -/
def execClockChange (s : State) : Out :=
  if ¬ s.clockPending ∨ ¬ s.partitions.all (fun e => s.clockReady e.1 e.2)
      ∨ ¬ s.clockFrom.any (fun t => decide (t + clockTime ≤ s.time)) then .next s
  else
    let s := { s with clockLow := !s.clockLow, clockPending := false, clockFrom := none }
    .next (s.partitions.foldl (fun t e => t.releaseRound e.1 .clock) s)

end Sys2Proof.Machine
end

