-- ==== Sys2Proof/Machine/Rings.lean ====
section
/-! DEFINITION. Command rings: watching, pickup, the BAR0 window and interrupts (spec/13_flauri_commands.md R381–R393, R416,
spec/17_contacts_and_windows.md R510, R511, R514, spec/16_host_link_and_security.md R480, R492). -/

namespace Sys2Proof.Machine

/-! ### Entries -/

/-- A 64-byte command entry (R389) as the `order`-th of its ring. -/
def Picked.ofBytes (bs : List Byte) (order : Nat) : Picked :=
  let v := leNat bs
  { opcode := bits v 15 0, order, late := false,
    entry := {
      tag := BitVec.ofNat 16 (bits v 31 16), part := BitVec.ofNat 4 (bits v 35 32), ctx := BitVec.ofNat 6 (bits v 45 40),
      irq := bit v 46, fence := bit v 47, len := BitVec.ofNat 32 (bits v 95 64), addr := BitVec.ofNat 64 (bits v 191 128),
      param := (List.range 10).map (fun i => BitVec.ofNat 32 (bits v (223 + 32 * i) (192 + 32 * i))),
      reserved := bits v 39 36 != 0 || bits v 63 48 != 0 || bits v 127 96 != 0 } }

/-- The table phase of a step has begun in a context (R320, R406). -/
def Context.tooLate (v : Context) (step : Nat) : Bool := decide (step < v.step) || v.seq.phaseStep == some step

/-- A command that takes effect at a table phase is picked up in or after that phase's first beat (R320). -/
def State.pickedLate (s : State) (c : Picked) : Bool :=
  let e := c.entry
  let step? := if c.opcode = 0x0120 then some (paramAt e 2) else if c.opcode = 0x0121 then some (paramAt e 3) else none
  match step?, (s.partition? e.part.toNat).bind (fun x => x.context? e.ctx.toNat) with
  | some n, some v => v.tooLate n
  | _, _ => false

/-- Show `CMD_CONS` in the control block (R382). -/
def State.showCons (s : State) (k : Nat) : State :=
  let r := s.ring k
  s.hostWrite (r.ctrl + 64) (leBytes 4 r.cmdCons.toNat)

/-- Pick up the next command of a ring, where one waits and a completion entry is free (R383, R387). -/
def State.pickOne (s : State) (k : Nat) : State :=
  let r := s.ring k
  if r.state ≠ .running ∨ r.cmdCons = r.cmdProd ∨ r.free = 0 then s
  else
    let c := Picked.ofBytes (s.hostBytes (r.cmd + 64 * (r.cmdCons.toNat % r.size)) 64) r.seen
    let c := { c with late := s.pickedLate c }
    (s.setRing k { r with picked := r.picked ++ [c], reserved := r.reserved + 1, seen := r.seen + 1, cmdCons := r.cmdCons + 1 }).showCons k

/-- A turn: at most one command of each ring, the admin ring first, then the partition rings in ascending number (R392). -/
def State.pickTurn (s : State) : State := s.rings.foldl (fun t e => t.pickOne e.1) s

/-- Pick up in `n` turns. -/
def State.pickUp (s : State) : Nat → State
  | 0 => s
  | n + 1 => s.pickTurn.pickUp n

/-- Most commands that wait in one ring. -/
def State.mostWaiting (s : State) : Nat := (s.rings.map (fun e => (e.2.cmdProd - e.2.cmdCons).toNat)).foldl max 0

/-- The module answers on the link: stage 2 to 4, the link up (R477, R480). -/
def State.answers (s : State) : Bool :=
  s.power == .good && s.linkUp && (s.stage == .link || s.stage == .background || s.stage == .ready)

/-- Read a ring's watched line (R383, R385, R387, R388): an overrun stops the ring; otherwise every command up to `CMD_PROD` is
picked up while completion entries are free, and waiting completions and events are posted. -/
def State.readWatched (s : State) (k : Nat) : State :=
  let r := s.ring k
  if r.state ≠ .running ∨ ¬ s.answers then s
  else
    let prod := BitVec.ofNat 32 (leNat (s.hostBytes r.ctrl 4))
    let cons := BitVec.ofNat 32 (leNat (s.hostBytes (r.ctrl + 8) 4))
    let waiting := (prod - r.cmdCons).toNat
    let s := (s.setRing k { r with cplCons := cons }).drainUnposted k
    if r.size < waiting then
      let s := s.postEvent k ⟨.ringOverrun, 0, []⟩
      s.setRing k { s.ring k with state := .overrun }
    else
      let s := s.setRing k { s.ring k with cmdProd := prod }
      (s.pickUp s.mostWaiting).drainEvents k

/-- WATCHED_LINE_INVALIDATE (R383, R384): host writes become globally visible, and the module rereads the watched line. -/
def execWatchedLineInvalidate (ring : RingId) (writes : List HostWrite) (s : State) : Out :=
  .next ((writes.foldl (fun t w => t.hostWrite w.addr w.data) s).readWatched (ringNumber ring))

/-! ### Starting a ring -/

/-- A ring whose bases and size are legal (R381). -/
def ringLegal (ctrl cmd cpl size : Nat) : Bool :=
  ctrl % 128 == 0 && cmd % 4096 == 0 && cpl % 4096 == 0 && decide (6 ≤ size) && decide (size ≤ 16)

/-- Start a ring at index 0 (R386, R514); what was picked up of an earlier start of it runs on (R385). -/
def State.startRing (s : State) (k ctrl cmd cpl size : Nat) : State :=
  let r := s.ring k
  let s := s.setRing k { r with
    state := .running, ctrl, cmd, cpl, sizeLog2 := size, cmdCons := 0, cmdProd := 0, cplProd := 0, cplCons := 0 }
  s.hostWrite (ctrl + 64) (List.replicate 4 0 ++ List.replicate 4 0 ++ List.replicate 4 0)

/-- A write of 1 to `RING.ENABLE` (R514). -/
def State.enableAdmin (s : State) : State :=
  let r := s.ring 0
  if ¬ s.answers ∨ r.state = .running then s
  else if ringLegal r.ctrl r.cmd r.cpl r.sizeLog2 then s.startRing 0 r.ctrl r.cmd r.cpl r.sizeLog2
  else s.setRing 0 { r with state := .refused }

/-- RING_ENABLE (R514). -/
def execRingEnable (s : State) : Out := .next s.enableAdmin

/-! ### BAR0 -/

/-- Replace the dword at byte `o` of a number of `n` dwords. -/
def setDword (v o x : Nat) : Nat :=
  let lo := v % 2 ^ (8 * o)
  let hi := v / 2 ^ (8 * o + 32)
  lo + (x % 2 ^ 32) * 2 ^ (8 * o) + hi * 2 ^ (8 * o + 32)

/-- Unmasking a vector whose pending bit is set sends its message (PRESUMED: PCI Express MSI-X; log entry 10). -/
def State.unmask (s : State) (v : Nat) (masked : Bool) : State :=
  let x := s.vector v
  if ¬ masked ∧ x.pending then (s.setVector v { x with masked := false, pending := false }).interrupt v
  else s.setVector v { x with masked }

/-- One 4-byte write at an offset of BAR0 (R510, R511). -/
def State.writeDword (s : State) (o x : Nat) : State :=
  let r := s.ring 0
  let ring (r : Ring) : State := if (s.ring 0).state = .running then s else s.setRing 0 r
  if 0x200 ≤ o ∧ o < 0x208 then ring { r with ctrl := setDword r.ctrl (o - 0x200) x }
  else if 0x208 ≤ o ∧ o < 0x210 then ring { r with cmd := setDword r.cmd (o - 0x208) x }
  else if 0x210 ≤ o ∧ o < 0x218 then ring { r with cpl := setDword r.cpl (o - 0x210) x }
  else if o = 0x218 then ring { r with sizeLog2 := x % 32 }
  else if o = 0x21C then (if bit x 0 then s.enableAdmin else s)
  else if 0x1000 ≤ o ∧ o < 0x1110 then
    let v := (o - 0x1000) / 16
    let e := s.vector v
    match (o - 0x1000) % 16 / 4 with
    | 0 => s.setVector v { e with address := BitVec.ofNat 64 (setDword e.address.toNat 0 x) }
    | 1 => s.setVector v { e with address := BitVec.ofNat 64 (setDword e.address.toNat 4 x) }
    | 2 => s.setVector v { e with data := BitVec.ofNat 32 x }
    | _ => s.unmask v (bit x 0)
  else s

/-- BAR0_WRITE (R511): a naturally aligned write of 4 or 8 bytes; any other is ignored. -/
def execBar0Write (offset : BitVec 16) (wide : Bool) (value : W64) (s : State) : Out :=
  let o := offset.toNat
  if ¬ s.answers ∨ o % (if wide then 8 else 4) ≠ 0 then .next s
  else
    let s := s.writeDword o (value.toNat % 2 ^ 32)
    .next (if wide then s.writeDword (o + 4) (value.toNat / 2 ^ 32) else s)

/-- The 10 µs of R416. -/
def holdOffTime : Nat := 10 * usec

/-- MSI_X_COALESCE_EXPIRY (R416): one message covers what came inside the hold-off. -/
def execMsiXCoalesceExpiry (vector : Fin 17) (s : State) : Out :=
  let x := s.vector vector
  match x.holdOff with
  | none => .next s
  | some t =>
    if s.time < t + holdOffTime then .next s
    else
      let s := s.setVector vector { x with holdOff := none, covered := false }
      .next (if x.covered then s.interrupt vector else s)

/-- LINK_RETRAIN (R480, R492): every job is kept, the stream is insecure, and every watched line is read again. -/
def execLinkRetrain (s : State) : Out :=
  if ¬ s.linkUp ∨ s.power ≠ .good then .next s
  else
    let s := { s with ide := { s.ide with secure := false } }
    .next (s.rings.foldl (fun t e => t.readWatched e.1) s)

end Sys2Proof.Machine
end

