-- ==== Sys2Proof/Machine/CastOn.lean ====
section
/-! DEFINITION. Cast-on, resets, firmware images and the IDE stream's events (spec/16_host_link_and_security.md R469–R485,
R490–R493, spec/15_reliability_and_sparing.md R449, spec/17_contacts_and_windows.md R497, R512). -/

namespace Sys2Proof.Machine

/-! ### Firmware images (R482, R483) -/

/-- Bytes `a` to `a + n - 1` of a list, short where it ends. -/
def slice (bs : List Byte) (a n : Nat) : List Byte := (bs.drop a).take n

/-- The little-endian number in bytes `a` to `a + n - 1`. -/
def field (bs : List Byte) (a n : Nat) : Nat := leNat (slice bs a n)

/-- Bytes of a firmware image: header and body. -/
def fwBytes (bs : List Byte) : List Byte := bs.take (512 + field bs 16 8)

/-- `SVN` of an image. -/
def fwSvn (bs : List Byte) : Nat := field bs 8 4

/-- (`FW_MAJOR` << 24) | `FW_MINOR` of an image (R485). -/
def fwVersion (bs : List Byte) : Nat := field bs 4 1 * 2 ^ 24 + field bs 5 3

/-- Bytes that the header says are zero. -/
def fwZeros (bs : List Byte) : Bool :=
  (slice bs 13 3 ++ slice bs 169 151 ++ slice bs 416 96).all (fun b => b == 0)

/-- The header's fixed fields are in range (R482). -/
def fwShape (bs : List Byte) : Bool :=
  decide (512 ≤ bs.length) && field bs 0 4 == 0x47465731 && decide (fwSvn bs ≤ 63) && decide (field bs 12 1 ≤ 1)
    && decide (field bs 16 8 ≤ 16776704) && decide (512 + field bs 16 8 ≤ bs.length) && fwZeros bs

/-- The revocation fuse of a key slot is intact (R483). -/
def State.keyIntact (s : State) (slot : Nat) : Bool := if slot = 0 then !s.keyRevoked.1 else !s.keyRevoked.2

/-- The key's hash is the one fused in its slot, intact, and the signature is valid (R482, R483). -/
def State.fwSigned (s : State) (bs : List Byte) : Bool :=
  let key := slice bs 72 97
  s.keyIntact (field bs 12 1) && decide (Config.sha384 key = Config.keyHash (field bs 12 1))
    && Config.ecdsaVerify key (slice bs 0 320) (slice bs 320 96)

/-- `BODY_HASH` matches the body (R483); it stands in the header as 48 bytes. -/
def fwBodyOk (bs : List Byte) : Bool :=
  decide (slice bs 24 48 = leBytes 48 (Config.sha384 (slice bs 512 (field bs 16 8))).toNat)

/-- An image verifies (R483). -/
def State.fwVerifies (s : State) (bs : List Byte) : Bool :=
  fwShape bs && s.fwSigned bs && decide (s.minSvn ≤ fwSvn bs) && fwBodyOk bs

/-- What a slot holds. -/
def State.slotImage (s : State) (i : Nat) : List Byte := ((Sparse.get? s.firmware i).map (·.image)).getD []

/-! ### Cast-on -/

/-- The module at the start of a cast-on or under PERST_N (R449, R479, R493): no job, no partition, no volatile key, SRAM of
zeros; the spare record, the flash, the clocks that run from power-good, what has been measured, and the I3C target stay. -/
def State.cleared (s : State) : State :=
  { s with
    clockLow := false, clockPending := false, clockFrom := none, throt := false, storedEnvelope := none, envelope := s.part.floorW,
    inputGuard := false, stage := .reset, fallback := false, runningImage := [], meshW := 0, meshH := 0, row0 := 0,
    meshValid := false, linkUp := false, linkRate := 0, linkNarrow := false, linkFailures := [], hwFault := 0, hwNode := 0,
    features := 0, rings := [], vectors := [], snapSeq := 0, snap := [], session := none, ide := .unused,
    debugOpen := false, debugWait := none, diag := false, diagSources := [], heartbeats := [], wires := [],
    partitions := [], hubIn := (0, 0), hubOut := (0, 0), rims := Sparse.mapVals (fun _ r => { Rim.reset with temperature := r.temperature }) s.rims }

/-- CAST_ON (R476, R477, R483): from power-good with PERST_N deasserted; the boot ROM runs the active slot if it verifies, else
the other, else enters stage 15. -/
def execCastOn (s : State) : Out :=
  if s.power ≠ .good ∨ s.stage ≠ .reset then .next s
  else
    let s := { s.cleared with perst := false, bootCount := s.bootCount + 1 }
    let other := 1 - s.activeSlot
    let s :=
      if s.fwVerifies (s.slotImage s.activeSlot) then
        { s with stage := .rom, runningImage := fwBytes (s.slotImage s.activeSlot) }
      else if s.fwVerifies (s.slotImage other) then
        { s with stage := .rom, runningImage := fwBytes (s.slotImage other), fallback := true }
      else { s with stage := .failed }
    .next s.relimit

/-- LINK_TRAINED (R469, R470, R477): firmware running and the link trained is stage 2. -/
def execLinkTrained (rate : Fin 3) (narrow : Bool) (s : State) : Out :=
  if s.stage = .rom then .next { s with stage := .link, linkUp := true, linkRate := rate, linkNarrow := narrow }
  else if s.stage = .failed then .next { s with linkUp := true, linkRate := rate, linkNarrow := narrow }
  else .next s

/-- Rim die `k` as stage 3 leaves it. -/
def State.freshRim (s : State) (k : Nat) : Rim :=
  { Rim.reset with temperature := (s.rim k).temperature, lastScrub := s.time, passStart := s.time, lastCalibration := s.time }

/-- CAST_ON_READY (R449, R453, R477, R484, R512): `failed` names the dies whose built-in test fails. -/
def execCastOnReady (failed : List Node) (s : State) : Out :=
  if s.stage ≠ .link ∧ s.stage ≠ .background then .next s
  else
    let s := (failed.foldl (fun t n => t.failDie n) s).remesh
    .next { s with
      stage := .ready, meshValid := true, minSvn := max s.minSvn (fwSvn s.runningImage),
      rims := ((List.range 16).filter s.part.hasRim).map (fun k => (k, s.freshRim k)) }

/-- PERST_N_ASSERT (R476, R479, R499). -/
def execPerstNAssert (s : State) : Out :=
  if s.power = .removed then .next s
  else if s.power ≠ .good then .next { s with perst := true }
  else .next ({ s.cleared with perst := true }).relimit

/-- HOT_RESET (R479): as PERST_N, but the pin is not asserted. -/
def execHotReset (s : State) : Out :=
  if s.power ≠ .good ∨ ¬ s.linkUp then .next s else .next s.cleared.relimit

/-! ### The IDE stream -/

/-- IDE_INTEGRITY_FAILURE (R492): the flit is discarded and the stream becomes insecure. -/
def execIdeIntegrityFailure (s : State) : Out :=
  if s.features.getLsbD featIde ∧ s.ide.secure then .next { s with ide := { s.ide with secure := false } } else .next s

/-- IDE_TX_KEY_SWITCH (R491): the transmit side moves to the newest key set. -/
def execIdeTxKeySwitch (s : State) : Out :=
  match s.ide.current with
  | some k => if s.ide.transmit = some k then .next s else .next { s with ide := { s.ide with transmit := some k } }
  | none => .next s

/-- IDE_OLD_KEY_EXPIRY (R491): one second after the installation. -/
def execIdeOldKeyExpiry (s : State) : Out :=
  match s.ide.old with
  | none => .next s
  | some k =>
    if s.time < s.ide.installed + second then .next s
    else .next { s with ide := { s.ide with old := none, keys := Sparse.erase s.ide.keys k } }

end Sys2Proof.Machine
end

