-- ==== Sys2Proof/Machine/Hub.lean ====
section
/-! DEFINITION. How the hub shares the host link among partitions with transfers pending: 4 KiB units by weighted round robin
(spec/10_streams_prefetch_gather.md R309), and the sizes of the transfers (spec/11_sequences_and_kv_cache.md R344,
spec/12_partitions_and_contexts.md R369, spec/15_reliability_and_sparing.md R457). -/

namespace Sys2Proof.Machine

/-! ### Sizes -/

/-- Bytes of a frame (R332). -/
def SeqConfig.frameBytes (g : SeqConfig) : Nat := g.pages * 65536

/-- Payload bytes of a frame's copy: the pages and their tags (R344). -/
def SeqConfig.copyBytes (g : SeqConfig) : Nat := g.pages * (65536 + 16)

/-- Bytes of a save slot of one stack (R358). -/
def saveSlotBytes : Nat := 2752 * 1048576

/-- Bytes of a 64 MiB chunk (R368). -/
def chunkBytes : Nat := 64 * 1048576

/-- Bytes of slots and chunks that an extent of `n` chunks holds (R369). -/
def Partition.copyBytes (x : Partition) (n : Nat) : Nat := x.stackRims.length * saveSlotBytes + n * chunkBytes

/-- Size of an extent of `n` chunks (R369). -/
def Partition.extentBytes (x : Partition) (n : Nat) : Nat := 8192 + x.copyBytes n + 16 * (x.copyBytes n / 65536)

/-- Bytes that a checkpoint of `n` bytes of each of `nStacks` stacks writes to the host (R457). -/
def checkpointBytes (nStacks n : Nat) : Nat := 4096 + nStacks * n

/-- 4 KiB units of a transfer of `n` bytes (R309). -/
def hubUnits (n : Nat) : Nat := ceilDiv n 4096

/-! ### What is pending -/

/-- The host transfer of a command in progress: whether it leaves the module, and its units (R309, R393). -/
def Active.hostUnits (a : Active) : Option (Bool × Nat) :=
  match a.progress with
  | .transfer _ _ _ => some (a.opcode == 0x0114, hubUnits a.entry.len.toNat)
  | _ => none

/-- Units of a partition's commands in progress in one direction. -/
def State.commandUnits (s : State) (p : Nat) (out : Bool) : Nat :=
  (s.rings.flatMap (fun e => e.2.active.filterMap (fun a =>
    match a.hostUnits with
    | some (o, n) => if o = out ∧ a.entry.part.toNat = p then some n else none
    | none => none))).foldl (· + ·) 0

/-- Units of a context's frame copies and checkpoint in one direction. -/
def Partition.contextUnits (x : Partition) (v : Context) (out : Bool) : Nat :=
  let copies := match v.pattern.bind (fun q => (q.die 0).seqCfg) with
    | some g => (v.seq.copies.filter (fun y => y.toHost == out)).length * hubUnits g.copyBytes
    | none => 0
  let mirror := match v.checkpoint with
    | some k => if out then hubUnits (checkpointBytes x.stackRims.length (paramPair k.entry 2)) else 0
    | none => 0
  copies + mirror

/-- The extent in host memory of a context that is out or on its way in: its base and eviction number (R369). -/
def Context.extent? (v : Context) : Option (Nat × Nat) :=
  match v.place with
  | .out e => e
  | .moving _ e => e
  | .resident _ => none

/-- Units of the bring-in of a context; one that was never resident has none to bring. -/
def Partition.inUnits (x : Partition) (v : Context) : Nat :=
  if v.extent?.isSome then hubUnits (x.extentBytes v.chunks.length) else 0

/-- Units of a bring-in that an eviction has made room for. -/
def Partition.bringUnits (x : Partition) (out : Bool) : Nat :=
  match x.evicting.bind (fun e => x.context? e.2) with
  | some v => if out then 0 else x.inUnits v
  | none => 0

/-- Units pending for a partition in one direction of the host link. -/
def State.hostPending (s : State) (p : Nat) (x : Partition) (out : Bool) : Nat :=
  s.commandUnits p out + (x.contexts.map (fun e => x.contextUnits e.2 out)).foldl (· + ·) 0 + x.bringUnits out

/-! ### Weighted round robin -/

/-- A partition in the round robin: its number, weight and units it still waits for, and those served. -/
structure HubLine where
  part : Nat
  weight : Nat
  left : Nat
  got : Nat
  deriving DecidableEq, Repr

/-- The partition served after `t` in ascending number, from the lowest again. -/
def nextLine (ls : List HubLine) (t : Nat) : Option HubLine :=
  let ready := ls.filter (fun l => decide (0 < l.left))
  (ready.find? (fun l => decide (t < l.part))).orElse (fun _ => ready.head?)

/-- A line served `n` units. -/
def HubLine.serve (l : HubLine) (n : Nat) : HubLine := { l with left := l.left - n, got := l.got + n }

/-- Serve turns from (`t`, `k`), the partition whose turn it is and the units left of it, until partition `p` waits for nothing:
the turn then, and the lines. None where another partition's pending units run out first, so that one of its transfers ends
before. -/
def hubRun : Nat → Nat → Nat × Nat → List HubLine → Option ((Nat × Nat) × List HubLine)
  | 0, _, _, _ => none
  | f + 1, p, (t, k), ls =>
    match ls.find? (fun l => l.part == t && decide (0 < l.left) && decide (0 < k)) with
    | some l =>
      let n := min k l.left
      let ls := ls.map (fun o => if o.part = t then o.serve n else o)
      if n = l.left then (if t = p then some ((t, k - n), ls) else none)
      else hubRun f p (t, 0) ls
    | none =>
      match nextLine ls t with
      | some l => hubRun f p (l.part, l.weight) ls
      | none => none

/-- Units served to a partition in one direction. -/
def Partition.served (x : Partition) (out : Bool) : Nat := if out then x.hostServed.2 else x.hostServed.1

/-- The partition with the units served in one direction. -/
def Partition.withServed (x : Partition) (out : Bool) (n : Nat) : Partition :=
  { x with hostServed := if out then (x.hostServed.1, n) else (n, x.hostServed.2) }

/-- A partition's line in one direction: the named one waits for `need` units, another for what is pending. -/
def State.hubLine (s : State) (p need : Nat) (out : Bool) (e : Nat × Partition) : HubLine :=
  let pending := s.hostPending e.1 e.2 out
  ⟨e.1, e.2.hostShare, if e.1 = p then need else pending - min pending (e.2.served out), 0⟩

/-- A transfer of `units` of partition `p` ends in its direction (R309): the hub has served it, and the others their turns until
then; none while another partition's pending transfers end first, or the stream is insecure (R492; log entry
115). -/
def State.hubServe (s : State) (p : Nat) (out : Bool) (units : Nat) : Option State :=
  if s.insecure then none
  else match s.partition? p with
  | none => some s
  | some x =>
    let had := min (s.hostPending p x out) (x.served out)
    let need := units - had
    if need = 0 then some (s.setPartition p (x.withServed out (had - units)))
    else
      let lines := s.partitions.map (s.hubLine p need out)
      match hubRun (2 * (need + 1) * (lines.length + 1)) p (if out then s.hubOut else s.hubIn) lines with
      | none => none
      | some (turn, lines) =>
        let s : State := if out then { s with hubOut := turn } else { s with hubIn := turn }
        let s : State := lines.foldl (fun (t : State) (l : HubLine) =>
          match t.partition? l.part with
          | some y => if l.part = p then t else t.setPartition l.part (y.withServed out (y.served out + l.got))
          | none => t) s
        some (s.setPartition p (x.withServed out (had + need - units)))

end Sys2Proof.Machine
end

