-- ==== Sys2Proof/Machine/Manage.lean ====
section
/-! DEFINITION. What the module shows: the BAR0 areas, the counter snapshot, the status records and the I3C target
(spec/17_contacts_and_windows.md R502–R518, spec/13_flauri_commands.md R402, R410, R411, spec/14_power_and_energy.md R431,
spec/15_reliability_and_sparing.md R455, spec/10_streams_prefetch_gather.md R310). -/

namespace Sys2Proof.Machine

/-- A signed value in a field of `n` bytes. -/
def signedBytes (n : Nat) (v : Int) : List Byte := leBytes n (v % 2 ^ (8 * n)).toNat

/-- `n` bytes of zeros. -/
def zeroBytes (n : Nat) : List Byte := List.replicate n 0

/-! ### BAR0 -/

/-- ALERT_N is asserted. -/
def State.alert (s : State) : Bool := s.alertN == .low

/-- The first 40 bytes of the `IDENT` area (R510). -/
def State.identBytes (s : State) : List Byte :=
  leBytes 4 0x47513441 ++ leBytes 2 s.part.code ++ leBytes 1 16 ++ leBytes 1 s.part.rows ++ leBytes 1 s.meshW
    ++ leBytes 1 s.meshH ++ leBytes 1 s.row0 ++ leBytes 1 s.part.stacks ++ leBytes 4 (if s.meshValid then 1 else 0)
    ++ leBytes 8 s.serial.toNat ++ leBytes 4 (fwVersion s.runningImage) ++ leBytes 4 (fwSvn s.runningImage)
    ++ leBytes 8 s.bootCount

/-- Features that the module supports (R399, R510): bits 0–14 and 16. -/
def supported : BitVec 256 := 0x17FFF

def State.featBytes (s : State) : List Byte := leBytes 32 supported.toNat ++ leBytes 32 s.features.toNat

def State.ringBytes (s : State) : List Byte :=
  let r := s.ring 0
  leBytes 8 r.ctrl ++ leBytes 8 r.cmd ++ leBytes 8 r.cpl ++ leBytes 4 r.sizeLog2 ++ leBytes 4 0 ++ leBytes 4 r.state.code

/-- `STATUS.IDE` (R492). -/
def State.ideCode (s : State) : Nat :=
  if !s.features.getLsbD featIde then 0 else if s.ide.secure then 1 else 2

/-- The `STATUS` area as 12 bytes (R510). -/
def State.statusBytes (s : State) : List Byte :=
  let b (x : Bool) (i : Nat) : Nat := if x then 2 ^ i else 0
  leBytes 2 (s.stage.code + b s.fallback 4 + b s.diag 5 + b s.throt 6 + b s.alert 7 + s.linkRate * 2 ^ 8
      + b s.linkNarrow 11 + s.ideCode * 2 ^ 12 + b s.clockLow 14 + b s.debugOpen 15)
    ++ leBytes 2 ((s.partitions.map (fun e => 2 ^ e.1)).foldl (· + ·) 0)
    ++ leBytes 2 s.hwFault ++ leBytes 2 s.hwNode ++ leBytes 4 s.plim

/-- One entry of the MSI-X table (R510, R511). -/
def vectorBytes (v : Vectors) : List Byte :=
  leBytes 8 v.address.toNat ++ leBytes 4 v.data.toNat ++ leBytes 4 (if v.masked then 1 else 0)

/-- A byte of BAR0; an address not assigned reads 0 (R510, R511). -/
def State.bar0Byte (s : State) (o : Nat) : Byte :=
  if o < 0x100 then s.identBytes.getD o 0
  else if o < 0x200 then (if s.stage = .failed then 0 else s.featBytes.getD (o - 0x100) 0)
  else if o < 0x300 then (if s.stage = .failed then 0 else s.ringBytes.getD (o - 0x200) 0)
  else if o < 0x400 then s.statusBytes.getD (o - 0x300) 0
  else if s.stage = .failed then 0
  else if 0x1000 ≤ o ∧ o < 0x1110 then (vectorBytes (s.vector ((o - 0x1000) / 16))).getD ((o - 0x1000) % 16) 0
  else if 0x1800 ≤ o ∧ o < 0x1808 then
    BitVec.ofNat 8 (((List.range 8).map (fun i => if (s.vector (8 * (o - 0x1800) + i)).pending then 2 ^ i else 0)).foldl (· + ·) 0)
  else if 0x8000 ≤ o ∧ o < 0xA000 then Mem.read s.snap (o - 0x8000)
  else 0

/-- What a read of `n` bytes of BAR0 returns (R511). -/
def State.bar0Read (s : State) (o n : Nat) : List Byte :=
  if (n = 4 ∨ n = 8) ∧ o % n = 0 then (List.range n).map (fun i => s.bar0Byte (o + i)) else zeroBytes n

/-! ### The counter snapshot -/

/-- The counters of a stream engine (R310). -/
def StreamCounters.bytes (c : StreamCounters) : List Byte :=
  leBytes 8 c.fetched ++ leBytes 8 c.useful ++ leBytes 8 c.pulls ++ leBytes 8 c.leadSum ++ leBytes 8 c.late
    ++ leBytes 8 c.lagSum ++ leBytes 4 c.minLead ++ leBytes 4 (min c.maxLag (2 ^ 32 - 1)) ++ leBytes 8 c.discard

/-- The four blocks of a rim (R310, R411). -/
def Rim.counterBytes (r : Rim) : List Byte :=
  (List.range 4).flatMap (fun e => (Sparse.getD Engine.idle r.ctx.engines e).counters.bytes)

/-- The record of the context last switched in (R516). -/
def Partition.runningRecord (x : Partition) : Option (List Byte) :=
  x.lastIn.bind (fun c => (x.context? c).map (fun v => counterRecord c v.counters))

/-- The `SNAP` area with `SNAP.SEQ` as given (R515–R518). -/
def State.snapBytes (s : State) (seq : W32) : List Byte :=
  let part (p : Nat) : Option Partition := s.partition? p
  let mask (f : Partition → Bool) : Nat :=
    ((List.range 16).map (fun p => if (part p).any f then 2 ^ p else 0)).foldl (· + ·) 0
  leBytes 4 seq.toNat ++ leBytes 2 (mask (fun _ => true)) ++ leBytes 2 (mask (fun x => x.runningRecord.isSome))
    ++ leBytes 8 s.timeUs ++ zeroBytes 48
    ++ (List.range 16).flatMap (fun p => ((part p).map (fun x => counterRecord 0xFFFF x.counters)).getD (zeroBytes 96))
    ++ (List.range 16).flatMap (fun p => ((part p).bind Partition.runningRecord).getD (zeroBytes 96))
    ++ zeroBytes 960
    ++ (List.range 16).flatMap (fun k => if (s.rimOwner k).isSome then (s.rim k).counterBytes else zeroBytes 256)

/-- SNAP_REFRESH (R515): every 1 ms from stage 4. -/
def execSnapRefresh (s : State) : Out :=
  if s.stage ≠ .ready then .next s
  else
    let seq := s.snapSeq + 2
    .next { s with snapSeq := seq, snap := Mem.writeBytes [] 0 (s.snapBytes seq) }

/-! ### Status records (R410) -/

/-- Hottest junction measured (R410, R505). -/
def State.hottest (s : State) : Int :=
  match s.junctions.map (·.2) with
  | [] => 0
  | t :: ts => ts.foldl max t

def Thermal.code : Thermal → Nat
  | .none => 0 | .cap75 => 1 | .cap50 => 2 | .stopped => 3

/-- Fitted stacks in the admin-ring order (R410). -/
def Part.stackList (p : Part) : List Nat := (List.range 16).filter p.hasRim

/-- The ledger block (R431). -/
def State.ledgerBytes (s : State) : List Byte :=
  leBytes 4 s.envelope ++ leBytes 4 s.plim ++ leBytes 1 s.cause.toNat ++ leBytes 1 (if s.clockLow then 1 else 0)
    ++ leBytes 2 s.vin ++ leBytes 4 s.pinW ++ leBytes 4 s.overhead ++ signedBytes 2 s.coolantIn ++ signedBytes 2 s.coolantOut
    ++ leBytes 1 s.convertersOk ++ zeroBytes 39
    ++ (List.range 16).flatMap (fun p =>
      match s.partition? p with
      | some x => leBytes 8 x.estSum ++ leBytes 8 x.measSum
      | none => zeroBytes 16)

/-- The module record. -/
def State.moduleRecord (s : State) : List Byte :=
  s.ledgerBytes ++ s.statusBytes ++ signedBytes 2 s.hottest ++ leBytes 1 Config.imageMinor ++ zeroBytes 1
    ++ (List.range 16).flatMap (fun i =>
      match (Part.stackList s.part)[i]? with
      | some k => leBytes 1 (s.rim k).thermal.code
      | none => zeroBytes 1)
    ++ zeroBytes 160

/-- The stack temperatures of the rims named. -/
def State.temperatureRecord (s : State) (ks : List Nat) : List Byte :=
  (List.range 16).flatMap (fun i => match ks[i]? with
    | some k => signedBytes 2 (s.rim k).temperature
    | none => zeroBytes 2)
  ++ (List.range 16).flatMap (fun i => match ks[i]? with
    | some k => leBytes 1 (s.rim k).thermal.code
    | none => zeroBytes 1)
  ++ zeroBytes 16

/-- One recorded correction. -/
def Correction.bytes (c : Correction) : List Byte :=
  leBytes 4 c.unit ++ leBytes 1 c.symbols ++ zeroBytes 3 ++ leBytes 8 c.timeUs

/-- The correction record of a rim (R261). -/
def Rim.correctionRecord (r : Rim) : List Byte :=
  (List.range 64).flatMap (fun c => leBytes 8 (Sparse.getD 0 r.corrected c))
    ++ (List.range 16).flatMap (fun i => match r.corrections[i]? with | some c => c.bytes | none => zeroBytes 16)
    ++ (match r.uncorrectable with | some c => c.bytes | none => zeroBytes 16) ++ zeroBytes 240

/-- `REPLACE` (R455, R505): no block of groups can serve a mesh. -/
def State.replace (s : State) : Bool := s.deriveMesh.isNone

/-- The spare-state record (R455). -/
def State.spareRecord (s : State) : List Byte :=
  leBytes 1 s.meshW ++ leBytes 1 s.meshH ++ leBytes 1 s.row0
    ++ leBytes 1 ((if s.diag then 1 else 0) + (if s.replace then 2 else 0))
    ++ leBytes 2 s.spares.rimLost.toNat ++ zeroBytes 2 ++ leBytes 4 s.spares.remaps ++ leBytes 2 s.spares.lastFault
    ++ leBytes 2 s.spares.lastNode ++ zeroBytes 16
    ++ (List.range 16).flatMap (fun g => leBytes 4 (s.retiredIn g).toNat)

/-! ### I3C (R502–R506) -/

/-- I3C_TARGET_READY (R503): 50 ms after power-good. -/
def execI3cTargetReady (s : State) : Out :=
  if s.power = .good ∧ 50 * msec ≤ s.time then .next { s with i3cReady := true } else .next s

/-- The target does not acknowledge. -/
def State.i3cNack (s : State) : State := { s with i3cAck := false, i3cAnswer := [] }

/-- The target acknowledges and returns bytes. -/
def State.i3cReturn (s : State) (bs : List Byte) : State := { s with i3cAck := true, i3cAnswer := bs }

/-- The target answers at its dynamic address. -/
def State.i3cLive (s : State) : Bool := s.i3cReady && s.i3cAddress.isSome

/-- Answer a directed read. -/
def State.i3cGet (s : State) (bs : List Byte) : Out := .next (if s.i3cLive then s.i3cReturn bs else s.i3cNack)

/-- ENTDAA (R502, R503): a target without a dynamic address takes the one assigned. -/
def execEntdaa (address : BitVec 7) (s : State) : Out :=
  if s.i3cReady ∧ s.i3cAddress.isNone then .next { s.i3cReturn [] with i3cAddress := some address } else .next s.i3cNack

/-- SETDASA (R502): at the static address 0x3A, where no dynamic address is held. -/
def execSetdasa (address : BitVec 7) (s : State) : Out :=
  if s.i3cReady ∧ s.i3cAddress.isNone then .next { s.i3cReturn [] with i3cAddress := some address } else .next s.i3cNack

/-- RSTDAA (R502). -/
def execRstdaa (s : State) : Out :=
  if s.i3cReady then .next { s.i3cReturn [] with i3cAddress := none } else .next s.i3cNack

/-- SETNEWDA (R502). -/
def execSetnewda (address : BitVec 7) (s : State) : Out :=
  if s.i3cLive then .next { s.i3cReturn [] with i3cAddress := some address } else .next s.i3cNack

/-- The provisional ID (R502). -/
def State.provisionalId (s : State) : Nat := 0x05D3 * 2 ^ 33 + s.part.code * 2 ^ 16 + s.serial.toNat % 2 ^ 16

/-- GETPID (R502), most significant byte first (PRESUMED: I3C Basic; log entry 34). -/
def execGetpid (s : State) : Out := s.i3cGet (leBytes 6 s.provisionalId).reverse

/-- GETBCR (R502). -/
def execGetbcr (s : State) : Out := s.i3cGet [0x20]

/-- GETDCR (R502). -/
def execGetdcr (s : State) : Out := s.i3cGet [0x00]

/-- GETSTATUS (R502): two bytes whose contents the spec does not give (log entry 34). -/
def execGetstatus (s : State) : Out :=
  let (bs, t) := s.freeBytes 2
  t.i3cGet bs

/-- GETMRL (R502): 128. -/
def execGetmrl (s : State) : Out := s.i3cGet [0x00, 0x80]

/-- GETMWL (R502): 1. -/
def execGetmwl (s : State) : Out := s.i3cGet [0x00, 0x01]

/-- RSTACT (R502): only the action "no reset" is acknowledged. -/
def execRstact (action : Byte) (s : State) : Out :=
  .next (if s.i3cLive ∧ action = 0 then s.i3cReturn [] else s.i3cNack)

/-- The management registers (R505). -/
def State.management (s : State) : List Byte :=
  let b (x : Bool) (i : Nat) : Nat := if x then 2 ^ i else 0
  leBytes 4 0x47514D31 ++ leBytes 2 s.part.code ++ leBytes 1 s.stage.code
    ++ leBytes 1 (b s.alert 0 + b s.throt 1 + b s.diag 2 + b s.replace 3 + b (s.hwFault != 0) 4)
    ++ leBytes 2 s.vin ++ leBytes 4 s.pinW ++ leBytes 4 s.plim ++ leBytes 4 s.envelope
    ++ signedBytes 2 s.coolantIn ++ signedBytes 2 s.coolantOut ++ signedBytes 2 s.hottest ++ leBytes 1 s.cause.toNat
    ++ zeroBytes 3 ++ leBytes 8 s.serial.toNat ++ leBytes 4 (fwVersion s.runningImage) ++ zeroBytes 20
    ++ (List.range 16).flatMap (fun k => if s.part.hasRim k then signedBytes 2 (s.rim k).temperature else zeroBytes 2)
    ++ zeroBytes 32

/-- I3C_PRIVATE_WRITE (R504): the first byte sets the offset; further bytes are not acknowledged. -/
def execI3cPrivateWrite (bytes : List Byte) (s : State) : Out :=
  match bytes with
  | [] => .next s
  | b :: rest =>
    if s.i3cLive then .next { s.i3cReturn [] with i3cOffset := b.setWidth 7, i3cAck := rest.isEmpty } else .next s.i3cNack

/-- I3C_PRIVATE_READ (R504): at most 128 bytes of one sample, from the offset upward, wrapping from 0x7F to 0x00. -/
def execI3cPrivateRead (count : Fin 129) (s : State) : Out :=
  let m := s.management
  s.i3cGet ((List.range count).map (fun i => m.getD ((s.i3cOffset.toNat + i) % 128) 0))

/-! ### Contacts (R497, R500) -/

/-- The contacts of the module. -/
inductive Contact where
  | supply | supplyReturn | tx | rx | refclk | scl | sda | perstN | throtN | emergOffN | pwrgd | alertN | thermtripN | prsntN
  deriving DecidableEq, Repr

/-- How a contact stands: a load of at most some watts, an open or tied supply contact, a link contact, an I3C target, an input that
is acted on or ignored, or an output at a level. -/
inductive ContactLevel where
  | load (watts : Nat)
  | open_
  | tied
  | perLink
  | target
  | acted
  | ignored
  | output (level : Drive)
  | highZ
  deriving DecidableEq, Repr

/-- The state of a contact (R497): running, with PERST_N asserted, powered down, or with 56 V removed. Before power-good no output is
driven (R499), and the load is that of a module powered down (log entry 48). -/
def State.contact (s : State) (c : Contact) : ContactLevel :=
  let running : Bool := s.power == .good && !s.perst
  let powered : Bool := s.power == .good
  match c with
  | .supply =>
    if s.power = .removed then .open_ else if running then .load s.part.maxW else if powered then .load 900 else .load 20
  | .supplyReturn => .tied
  | .tx | .rx => if running then .perLink else .highZ
  | .refclk => if running then .perLink else if powered then .ignored else .highZ
  | .scl | .sda => if powered then .target else .highZ
  | .perstN => if powered then .acted else if s.power = .removed then .highZ else .ignored
  | .throtN => if running then .acted else if s.power = .removed then .highZ else .ignored
  | .emergOffN => if s.power = .removed then .highZ else .acted
  | .pwrgd => .output s.pwrgd
  | .alertN => .output s.alertN
  | .thermtripN => .output s.thermtripN
  | .prsntN => .tied

end Sys2Proof.Machine
end

