-- ==== Sys2Proof/Machine/Sequences.lean ====
section
/-! DEFINITION. The sequence-table runtime: table phases, the work list, frames, parking and swap copies
(spec/11_sequences_and_kv_cache.md R315–R346, spec/13_flauri_commands.md R405–R407). -/

namespace Sys2Proof.Machine

/-! ### Frames and pages -/

/-- Units of a sequence's list on each of `n` nStacks (R333). -/
def SeqConfig.listUnits (g : SeqConfig) (n : Nat) : Nat := ceilDiv (4 * ceilDiv (2 ^ g.lenLog2) g.tokens) (64 * n)

/-- First unit of a frame within its stack (R332). -/
def SeqConfig.frameUnit (g : SeqConfig) (f : Nat) : Nat := g.poolBase + f * g.pages * 1024

/-- Partition stack address of a unit of a stack (R254). -/
def stackAddress (i u : Nat) : Nat := 64 * (i * stackUnits + u)

/-- `FRAMES` (R319): frames held, or held before parking. -/
def SeqRec.count (e : SeqRec) : Nat := if e.state = 3 then e.held else e.frames.length

/-- Tokens of the sequence after the coming step (R327). -/
def SeqRec.span (e : SeqRec) : Nat := e.len + e.stepTokens

/-- Bucket of a sequence (R327). -/
def SeqRec.bucket (e : SeqRec) : Nat := ceilLog2 e.span - 10

/-- The 64 bytes of an entry (R319). -/
def SeqRec.bytes (e : SeqRec) : List Byte :=
  leBytes 8 (e.state + e.prio * 2 ^ 3 + e.home * 2 ^ 8 + e.stepTokens * 2 ^ 16 + e.len * 2 ^ 32) ++ leBytes 4 e.admitNo
    ++ leBytes 4 e.park ++ leBytes 4 e.count ++ leBytes 4 e.seqId ++ leBytes 4 e.hostSlot ++ leBytes 8 e.swapSeq
    ++ zeroBytes 28

/-- The bytes that `SEQ_READ` gives for a slot (R319). -/
def SeqState.slotBytes (q : SeqState) (slot : Nat) : List Byte :=
  match Sparse.get? q.entries slot with
  | some e => e.bytes
  | none => zeroBytes 64

/-! ### A table phase -/

/-- What a table phase posts: an event, or the completion of a held command. -/
inductive SeqPost where
  | event (e : RingEvent)
  | done (h : HeldSeq) (st : Status) (result : List W32)
  deriving DecidableEq, Repr

/-- A table phase under way: its configuration, number of stacks, step and table; by slot the frames that hold tokens (held before
the phase, or taken back from host memory); the (stack, frame) pairs handed out in it; the slots it has readmitted from host memory;
the swap number; and what it posts, in order. -/
structure TableWork where
  cfg : SeqConfig
  nStacks : Nat
  step : Nat
  seq : SeqState
  based : SMap Nat
  given : List (Nat × Nat)
  back : List Nat
  swapNumber : Nat
  posts : List SeqPost
  deriving DecidableEq, Repr

def TableWork.put (t : TableWork) (slot : Nat) (e : SeqRec) : TableWork :=
  { t with seq := { t.seq with entries := Sparse.set t.seq.entries slot e } }

/-- Post a sequence event (R413). -/
def TableWork.event (t : TableWork) (st : Status) (slot : Nat) (e : SeqRec) : TableWork :=
  let words := [BitVec.ofNat 32 e.seqId, BitVec.ofNat 32 slot, BitVec.ofNat 32 t.step]
  { t with posts := t.posts ++ [.event ⟨st, 0, words⟩] }

/-- The stack of a sequence's frame `i` (R333). -/
def TableWork.stackOf (t : TableWork) (e : SeqRec) (i : Nat) : Nat := (e.home + i) % t.nStacks

/-- Frames of pool `k` in use (R332). -/
def TableWork.used (t : TableWork) (k : Nat) : List Nat :=
  t.seq.entries.flatMap (fun e => e.2.frames.zipIdx.filterMap (fun f => if t.stackOf e.2 f.2 = k then some f.1 else none))

/-- Free frames of pool `k`; frame 0 is never allocated (R332). -/
def TableWork.free (t : TableWork) (k : Nat) : Nat := t.cfg.poolFrames - 1 - (t.used k).length

/-- The lowest free frame of pool `k` (R341). -/
def TableWork.lowest (t : TableWork) (k : Nat) : Option Nat :=
  let used := t.used k
  (List.range t.cfg.poolFrames).find? (fun f => f != 0 && !used.contains f)

/-- Frames of an entry that hold its tokens: those it had before the phase, or took back from host memory. -/
def TableWork.base (t : TableWork) (slot : Nat) : Nat := Sparse.getD 0 t.based slot

/-- Take the lowest free frame of its pool for a sequence's next position; none when the pool is empty. -/
def TableWork.give (t : TableWork) (slot : Nat) (e : SeqRec) : Option TableWork :=
  let k := t.stackOf e e.frames.length
  (t.lowest k).map (fun f => ({ t with given := t.given ++ [(k, f)] } : TableWork).put slot { e with frames := e.frames ++ [f] })

/-- Host slots that parked sequences hold (R342, R345). -/
def SeqState.hostUsed (q : SeqState) : List (Nat × Nat) :=
  (q.entries.filter (fun e => e.2.state == 3)).map (fun e => (e.2.hostSlot, e.2.hostSlot + e.2.held))

/-- The lowest run of `n` free host slots of the window (R342); none is needed for no frames. -/
def SeqState.hostRun (q : SeqState) (n : Nat) : Option Nat :=
  if n = 0 then some 0
  else match q.window with
  | none => none
  | some (_, f) => (List.range (f + 1 - n)).find? (fun j =>
      decide (j + n ≤ f) && q.hostUsed.all (fun u => decide (j + n ≤ u.1) || decide (u.2 ≤ j)))

/-- Number a parking (R321, R341). -/
def TableWork.numbered (t : TableWork) : Nat × TableWork :=
  (t.seq.parks, { t with seq := { t.seq with parks := (t.seq.parks + 1) % 2 ^ 32 } })

/-- Park a sequence in host memory at slot `j` with its first `keep` frames, all its frames returned (R341, R342, R344). -/
def TableWork.parkHost (t : TableWork) (slot j keep : Nat) (e : SeqRec) : TableWork :=
  let (n, t) := t.numbered
  let frames := e.frames.take keep
  let copies := frames.zipIdx.map (fun f =>
    ({ toHost := true, stack := t.stackOf e f.2, frame := f.1, hostSlot := j + f.2, number := t.swapNumber + f.2,
       awaited := false, since := 0 } : SwapCopy))
  let e := { e with state := 3, park := n, frames := [], held := frames.length, hostSlot := j, swapSeq := t.swapNumber }
  let t := { t with swapNumber := t.swapNumber + frames.length, seq := { t.seq with copies := t.seq.copies ++ copies } }
  (t.put slot e).event .seqParked slot e

/-- Park a sequence in the stack: it keeps the frames that hold its tokens (R341). -/
def TableWork.parkStack (t : TableWork) (slot : Nat) (e : SeqRec) : TableWork :=
  let (n, t) := t.numbered
  let e := { e with state := 2, park := n, frames := e.frames.take (t.base slot) }
  ((t.put slot e).event .seqWindowFull slot e).event .seqParked slot e

/-- Park a requester that is its own victim, the frames given to it in the phase returned: in host memory where it fits, else in the
stack (R341; log entry 37). -/
def TableWork.parkSelf (t : TableWork) (slot : Nat) (e : SeqRec) : TableWork :=
  match t.seq.hostRun (min e.frames.length (t.base slot)) with
  | some j => t.parkHost slot j (t.base slot) e
  | none => t.parkStack slot e

/-! #### Steps 1 to 3 -/

/-- A step report entry agrees with its work-list position (R331). -/
def reportAgrees (q : SeqState) (v : Nat) : Option Nat → Bool
  | none => v == 0
  | some slot =>
    match Sparse.get? q.entries slot with
    | some e => bits v 47 32 == e.stepTokens && bits v 31 17 == 0 && bits v 63 48 == 0
    | none => false

/-- Retire a sequence: its frames and its slot are free (R323). -/
def TableWork.retire (t : TableWork) (slot : Nat) (e : SeqRec) : TableWork :=
  ({ t with seq := { t.seq with entries := Sparse.erase t.seq.entries slot }, based := Sparse.erase t.based slot } : TableWork).event
    .seqFinished slot e

/-- Step 1 for one position (R323, R325). -/
def TableWork.report (t : TableWork) (v : Nat) (pos : Option Nat) : TableWork :=
  match pos with
  | none => t
  | some slot =>
    match Sparse.get? t.seq.entries slot with
    | none => t
    | some e =>
      let e := { e with len := e.len + bits v 47 32, stepTokens := bits v 15 0 }
      if bit v 16 ∨ e.limited then t.retire slot e
      else t.put slot e

/-- Sequences that the last phase held to the longest sequence and that ran in no position retire like the others (R325). -/
def TableWork.retireLimited (t : TableWork) : TableWork :=
  (t.seq.entries.filter (fun e => e.2.limited)).foldl (fun t e => t.retire e.1 e.2) t

/-- The step report of the step just ended (R331): none when it breaks its form. -/
def TableWork.reports (t : TableWork) (words : List Nat) : Option TableWork :=
  if (t.seq.work.zip words).all (fun e => reportAgrees t.seq e.2 e.1) then
    some ((t.seq.work.zip words).foldl (fun t e => t.report e.2 e.1) t).retireLimited
  else none

/-- Step 2 for one admission (R323, R406). -/
def TableWork.admitHeld (t : TableWork) (h : HeldSeq) : TableWork :=
  match (List.range t.cfg.slots).find? (fun i => (Sparse.get? t.seq.entries i).isNone) with
  | none => { t with posts := t.posts ++ [.done h .seqTableFull []] }
  | some i =>
    let p := paramAt h.entry 1
    let e : SeqRec := {
      state := 1, prio := bits p 2 0, home := i % t.nStacks, stepTokens := bits p 31 16, len := 0, admitNo := t.seq.admits,
      park := 0, frames := [], held := 0, seqId := paramAt h.entry 0, hostSlot := 0, swapSeq := 0, limited := false }
    let t : TableWork := { t with
      seq := { t.seq with admits := (t.seq.admits + 1) % 2 ^ 32 }
      based := Sparse.set t.based i 0
      posts := t.posts ++ [.done h .ok [BitVec.ofNat 32 i]] }
    t.put i e

/-- Step 3 for one window command (R345, R408). -/
def TableWork.grant (t : TableWork) (h : HeldSeq) : TableWork :=
  let n := paramAt h.entry 2
  if t.seq.hostUsed.all (fun u => decide (u.2 ≤ n)) then
    { t with seq := { t.seq with window := some (paramPair h.entry 0, n) }, posts := t.posts ++ [.done h .ok []] }
  else { t with posts := t.posts ++ [.done h .seqWindow []] }

/-! #### Step 4 -/

/-- Frames that a parked sequence takes to be readmitted: positions from the first it lacks (R343). -/
def TableWork.wants (t : TableWork) (e : SeqRec) : List Nat :=
  if e.state = 3 then List.range e.held
  else (List.range (ceilDiv e.span t.cfg.tokens)).filter (fun i => decide (e.frames.length ≤ i))

/-- Every pool holds more than `MARGIN` free frames beyond those that the sequence would take there (R343). -/
def TableWork.mayReturn (t : TableWork) (e : SeqRec) : Bool :=
  (List.range t.nStacks).all (fun k =>
    decide (t.cfg.margin + ((t.wants e).filter (fun i => t.stackOf e i == k)).length < t.free k))

/-- Readmit a parked sequence (R343). -/
def TableWork.readmit (t : TableWork) (slot : Nat) (e : SeqRec) : TableWork :=
  let host : Bool := e.state == 3
  let n := (t.wants e).length
  let held := e.held
  let first := e.hostSlot
  let number := e.swapSeq
  let e := { e with state := 1, admitNo := t.seq.admits, park := 0, hostSlot := 0, swapSeq := 0 }
  let wait (y : SwapCopy) : SwapCopy :=
    if host ∧ y.toHost ∧ number ≤ y.number ∧ y.number < number + held then { y with awaited := true } else y
  let seq := { t.seq with admits := (t.seq.admits + 1) % 2 ^ 32, copies := t.seq.copies.map wait }
  let t := ({ t with seq, based := if host then Sparse.set t.based slot held else t.based,
                     back := if host then t.back ++ [slot] else t.back } : TableWork).put slot e
  let t := foldRange n t (fun t _ =>
    match Sparse.get? t.seq.entries slot with
    | some e => (t.give slot e).getD t
    | none => t)
  match Sparse.get? t.seq.entries slot with
  | none => t
  | some e =>
    let back := if host then e.frames.zipIdx.map (fun f =>
        ({ toHost := false, stack := t.stackOf e f.2, frame := f.1, hostSlot := first + f.2, number := number + f.2,
           awaited := true, since := 0 } : SwapCopy)) else []
    ({ t with seq := { t.seq with copies := t.seq.copies ++ back } } : TableWork).event .seqReadmitted slot e

/-- Readmit in order until one cannot be (R343). -/
def TableWork.readmitAll (t : TableWork) : List (Nat × SeqRec) → TableWork
  | [] => t
  | (slot, e) :: rest => if t.mayReturn e then (t.readmit slot e).readmitAll rest else t

/-- Parked sequences by descending `PRIO`, then ascending `PARK` (R343). -/
def TableWork.parked (t : TableWork) : List (Nat × SeqRec) :=
  (t.seq.entries.filter (fun e => e.2.state == 2 || e.2.state == 3)).insertionSort
    (fun a b => b.2.prio < a.2.prio ∨ (a.2.prio = b.2.prio ∧ a.2.park ≤ b.2.park))

/-! #### Step 5 -/

/-- `STEP_TOKENS` of an active sequence held to the longest sequence (R325). -/
def TableWork.limit (t : TableWork) : TableWork :=
  t.seq.entries.foldl (fun t e =>
    if e.2.state = 1 ∧ 2 ^ t.cfg.lenLog2 < e.2.span then
      let r := { e.2 with stepTokens := 2 ^ t.cfg.lenLog2 - e.2.len, limited := true }
      (t.put e.1 r).event .seqLimit e.1 r
    else t) t

/-- The slots that the work list may take: by bucket, then slot, the first `CAP` of each (R328). -/
def TableWork.kept (t : TableWork) : List (List Nat) :=
  (List.range 12).map (fun j =>
    ((t.seq.entries.filter (fun e => e.2.state == 1 && decide (0 < e.2.stepTokens) && e.2.bucket == j)).map (·.1)).take
      (t.cfg.cap.getD j 0))

/-- The victim for a frame of pool `k` (R341): of the active sequences that hold a frame there and the requester, the one of
lowest `PRIO`, and among those of highest `ADMIT`. -/
def TableWork.victim (t : TableWork) (k slot : Nat) : Option (Nat × SeqRec) :=
  let holds (e : SeqRec) : Bool := (List.range e.frames.length).any (fun i => t.stackOf e i == k)
  ((t.seq.entries.filter (fun e => e.2.state == 1 && (e.1 == slot || holds e.2))).insertionSort
    (fun a b => a.2.prio < b.2.prio ∨ (a.2.prio = b.2.prio ∧ b.2.admitNo ≤ a.2.admitNo))).head?

/-- One frame for a requester, a victim parked for it where its pool is empty (R341). -/
def TableWork.request (t : TableWork) (slot : Nat) (e : SeqRec) : TableWork :=
  match t.give slot e with
  | some t => t
  | none =>
    match t.victim (t.stackOf e e.frames.length) slot with
    | none => t
    | some (v, w) =>
      if v = slot then t.parkSelf slot e
      else match t.seq.hostRun w.frames.length with
        | none => t.parkStack slot e
        | some j =>
          let t := t.parkHost v j w.frames.length w
          (t.give slot e).getD t

/-- Every frame that a sequence lacks for its span, while it is active (R341). -/
def TableWork.serve (t : TableWork) (slot : Nat) : TableWork :=
  match Sparse.get? t.seq.entries slot with
  | none => t
  | some e =>
    foldRange (ceilDiv e.span t.cfg.tokens - e.frames.length) t (fun t _ =>
      match Sparse.get? t.seq.entries slot with
      | some e => if e.state = 1 then t.request slot e else t
      | none => t)

/-- Serve the kept sequences by descending `PRIO`, then ascending `ADMIT` (R341). -/
def TableWork.serveAll (t : TableWork) (kept : List Nat) : TableWork :=
  let order := (t.seq.entries.filter (fun e => kept.contains e.1)).insertionSort
    (fun a b => b.2.prio < a.2.prio ∨ (a.2.prio = b.2.prio ∧ a.2.admitNo ≤ b.2.admitNo))
  order.foldl (fun t e => t.serve e.1) t

/-! #### Step 6 -/

/-- The work list (R328): each bucket's kept sequences that are still active, padded to its `CAP`. -/
def TableWork.workList (t : TableWork) (kept : List (List Nat)) : List (List (Option Nat)) :=
  kept.zipIdx.map (fun b =>
    let live := b.1.filter (fun i => match Sparse.get? t.seq.entries i with | some e => e.state == 1 | none => false)
    live.map some ++ List.replicate (t.cfg.cap.getD b.2 0 - live.length) none)

/-- Sequences of each bucket, padding left out (R329). -/
def batches (work : List (List (Option Nat))) : List Nat := work.map (fun b => (b.filter Option.isSome).length)

/-- A work-list entry (R329). -/
def TableWork.workEntry (t : TableWork) (j : Nat) : Option Nat → List Byte
  | none => leBytes 4 (2 ^ 20) ++ zeroBytes 28
  | some slot =>
    match Sparse.get? t.seq.entries slot with
    | none => zeroBytes 32
    | some e => leBytes 4 (slot + j * 2 ^ 16) ++ leBytes 4 e.len ++ leBytes 4 e.stepTokens
        ++ leBytes 4 (e.frames.length + e.home * 2 ^ 24) ++ zeroBytes 4 ++ leBytes 4 e.seqId ++ zeroBytes 8

/-- The work-list region (R329). -/
def TableWork.workBytes (t : TableWork) (work : List (List (Option Nat))) : List Byte :=
  (batches work).flatMap (leBytes 2) ++ leBytes 4 t.step ++ zeroBytes 36
    ++ work.zipIdx.flatMap (fun b => b.1.flatMap (t.workEntry b.2))

/-- Bits [55:49] of a number replaced. -/
def setNm1 (v n : Nat) : Nat := v - bits v 55 49 * 2 ^ 49 + (n % 2 ^ 7) * 2 ^ 49

/-- Patch one `MMV` word, every field but `NM1` as the image loaded it (R330). -/
def Die.patch (d : Die) (q : DiePattern) (batch : List Nat) (e : Patch) : Die :=
  let a := 16 * e.word
  let n := min 128 (max 1 (batch.getD e.bucket 0 - 128 * e.chunk)) - 1
  d.writeMem e.mtile a (leBytes 8 (setNm1 (leNat ((List.range 8).map (fun i => q.loadedByte e.mtile (a + i)))) n))

/-- A die with the phase's work list and patches. -/
def Die.tablePhase (d : Die) (q : DiePattern) (g : SeqConfig) (work : List Byte) (batch : List Nat) : Die :=
  q.patches.foldl (fun d e => d.patch q batch e) (d.writeMem 20 (64 * g.wlBase) work)

/-! #### The phase -/

/-- The held commands of the kind whose effective step is this one, or an earlier one whose phase had not begun when they were picked
up (R320, R407; log entry 110). -/
def dueHeld (hs : List HeldSeq) (isAdmit : Bool) (step : Nat) : List HeldSeq :=
  hs.filter (fun h => h.isAdmit == isAdmit && paramAt h.entry (if isAdmit then 2 else 3) ≤ step)

/-- Steps 2 to 5 of the phase, and the sequences that the work list may take. -/
def TableWork.middle (t : TableWork) (hs : List HeldSeq) : TableWork × List (List Nat) :=
  let adm := (dueHeld hs true t.step).insertionSort (fun a b => paramAt a.entry 0 ≤ paramAt b.entry 0)
  let t := adm.foldl (fun t h => t.admitHeld h) t
  let t := (dueHeld hs false t.step).foldl (fun t h => t.grant h) t
  let t := (t.readmitAll t.parked).limit
  let kept := t.kept
  (t.serveAll kept.flatten, kept)

/-- Frames handed out in the phase and held at its end, as (stack, frame), each with whether its host slot fills it (R337, R342,
R343). -/
def TableWork.newFrames (t : TableWork) : List ((Nat × Nat) × Bool) :=
  t.seq.entries.flatMap (fun e =>
    e.2.frames.zipIdx.filterMap (fun f =>
      let at_ := (t.stackOf e.2 f.2, f.1)
      if t.given.contains at_ then some (at_, t.back.contains e.1 && decide (f.2 < t.base e.1)) else none))

/-- Write the list entries of a slot whose frames changed (R333, R334). -/
def State.writeList (s : State) (p c : Nat) (g : SeqConfig) (nStacks slot : Nat) (home : Nat) (was now : List Nat) : State :=
  foldRange (max was.length now.length) s (fun s i =>
    if was[i]? = now[i]? then s
    else s.writeSpanBytes p c (stackAddress ((home + i) % nStacks) (g.listBase + slot * g.listUnits nStacks) + 4 * (i / nStacks))
      (leBytes 4 (now.getD i 0)))

/-- Write every list that the phase changed: what a sequence gave up first. -/
def State.writeLists (s : State) (p c : Nat) (g : SeqConfig) (nStacks : Nat) (old new : SMap SeqRec) : State :=
  let frames (m : SMap SeqRec) (i : Nat) : List Nat := ((Sparse.get? m i).map (·.frames)).getD []
  let home (i : Nat) : Nat := i % nStacks
  foldRange g.slots s (fun s i => s.writeList p c g nStacks i (home i) (frames old i) (frames new i))

/-- The command in progress that a held command belongs to. -/
def State.heldActive (s : State) (h : HeldSeq) : Option Active :=
  (s.ring h.ring).active.find? (fun a => a.entry == h.entry && a.progress == .sequence)

/-- Post what the phase posts (R388, R406, R413): events go to the partition's ring. -/
def State.postSeq (s : State) (p : Nat) : SeqPost → State
  | .event e => s.postEvent (p + 1) e
  | .done h st result =>
    match s.heldActive h with
    | some a => s.finish h.ring a st 0 result
    | none => s

/-- Table replicas are equal (R317, R326), so the model keeps one. The work of a phase of context `c` (R323), a function of the table,
the step report and the held commands alone, so that a phase repeated for a detected error gives the same (R326): none for a bad step
report. -/
def Partition.phaseWork (x : Partition) (v : Context) (g : SeqConfig) (step : Nat) : Option (TableWork × List (List Nat)) :=
  let t : TableWork := {
    cfg := g, nStacks := x.stackRims.length, step, seq := v.seq,
    based := v.seq.entries.map (fun e => (e.1, e.2.frames.length)), given := [], back := [], swapNumber := x.swapNumber, posts := [] }
  let words := (List.range v.seq.work.length).map (fun k => leNat (Mem.readBytes (x.die 0).buffer (64 * g.repBase + 8 * k) 8))
  let t := if v.seq.first then some t else t.reports words
  t.map (fun t => t.middle v.heldSeq)

/-- The table phase of context `c` of partition `p`, with its work done (R323): lists, work list and patches written, copies
begun, and events and completions posted. -/
def State.applyPhase (s : State) (p c : Nat) (x : Partition) (v : Context) (q : Pattern) (t : TableWork)
    (kept : List (List Nat)) : State :=
  let work := t.workList kept
  let new := t.newFrames.map (·.1)
  let fills := (t.newFrames.filter (fun f => !f.2)).map (·.1)
  let copies := t.seq.copies.map (fun y => { y with
    since := if v.seq.copies.contains y then y.since else s.time,
    awaited := y.awaited || (y.toHost && new.contains (y.stack, y.frame)) })
  let seq := { t.seq with copies, work := work.flatten, first := false, phaseStep := some v.step, waiting := true, fills }
  let held := v.heldSeq.filter (fun h => paramAt h.entry (if h.isAdmit then 2 else 3) > v.step)
  let bytes := t.workBytes work
  let x := x.mapDies (fun d y => y.tablePhase (q.die d) t.cfg bytes (batches work))
  let x := { x.setContext c { v with seq, heldSeq := held, blockedSince := s.time } with swapNumber := t.swapNumber }
  let s := (s.setPartition p x).writeLists p c t.cfg t.nStacks v.seq.entries t.seq.entries
  t.posts.foldl (fun s y => s.postSeq p y) s

/-- TABLE_PHASE (R322–R331): at a step boundary of a partition that runs section 0x22, within the round-start hold. A detected error
after it repeats a phase of the same effect (R326; log entry 73). -/
def execTablePhase (p : PartId) (s : State) : Out :=
  match s.partition? p with
  | none => .next s
  | some x =>
    match x.running? with
    | none => .next s
    | some (c, v) =>
      match v.pattern with
      | none => .next s
      | some q =>
        match (q.die 0).seqCfg with
        | none => .next s
        | some g =>
          if x.run.phase = .round ∨ ¬ x.run.holds.contains .tablePhase ∨ v.steps.isNone ∨ v.seq.waiting
              ∨ v.seq.phaseStep = some v.step ∨ x.run.restartAt.isSome then .next s
          else match x.phaseWork v g v.step with
            | none => .next (s.softFault p .faultStepReport 0)
            | some (t, kept) => .next (s.applyPhase p c x v q t kept)

/-- TABLE_PHASE_COMPLETE (R322, R335, R337): no copy of a frame handed out is left; the frames are zero-filled, and the hub
releases the hold. -/
def execTablePhaseComplete (p : PartId) (s : State) : Out :=
  match s.partition? p with
  | none => .next s
  | some x =>
    match x.running? with
    | none => .next s
    | some (c, v) =>
      match v.pattern.bind (fun q => (q.die 0).seqCfg) with
      | none => .next s
      | some g =>
        if ¬ v.seq.waiting ∨ v.seq.copies.any (fun y => y.awaited) then .next s
        else
          let fills := v.seq.fills
          let s := s.setPartition p (x.setContext c { v with seq := { v.seq with waiting := false, fills := [] } })
          let s := fills.foldl (fun s f =>
            s.writeSpanBytes p c (stackAddress f.1 (g.frameUnit f.2)) (zeroBytes g.frameBytes)) s
          .next (s.releaseRound p .tablePhase)

/-! ### Swap copies -/

/-- The nonce of page `k` of a frame with swap number `n`, and its associated data (R344). -/
def swapNonce (n k : Nat) : List Byte := leBytes 8 n ++ leBytes 4 k
def swapAad (p j k : Nat) : List Byte := leBytes 1 p ++ leBytes 3 j ++ leBytes 4 k

/-- Write a frame's pages and tags, encrypted, into its host slot (R344). -/
def State.sealFrame (s : State) (p : Nat) (key : Nat) (window : Nat × Nat) (g : SeqConfig) (y : SwapCopy)
    (data : List Byte) : State :=
  foldRange g.pages s (fun s k =>
    let bs := Config.gcmSeal (Config.hubKey key) (swapNonce y.number k) (swapAad p y.hostSlot k) (slice data (65536 * k) 65536)
    let page := y.hostSlot * g.pages + k
    (s.hostWrite (window.1 + 65536 * page) (bs.take 65536)).hostWrite
      (window.1 + window.2 * g.pages * 65536 + 16 * page) ((bs.drop 65536).take 16))

/-- The copy that completes next: those that the phase waits for first, then the rest, each in order (R342). -/
def SeqState.nextCopy (q : SeqState) : Option SwapCopy := (q.copies.find? (fun y => y.awaited)).orElse (fun _ => q.copies.head?)

/-- The copy leaves the list; those behind it have waited for the link no longer than now (log entry 38). -/
def SeqState.copied (q : SeqState) (y : SwapCopy) (now : Nat) : SeqState :=
  { q with copies := (q.copies.erase y).map (fun z => { z with since := now }) }

/-- The pages of a frame in its host slot, opened (R344): `plain` is what the hub sealed under the copy's swap number; none where a tag
fails. -/
def State.openFrame (s : State) (p : Nat) (key : Nat) (window : Nat × Nat) (g : SeqConfig) (y : SwapCopy)
    (plain : List Byte) : Option (List Byte) :=
  (List.range g.pages).foldl (fun acc k =>
    let page := y.hostSlot * g.pages + k
    acc.bind (fun bs =>
      (openSealed (Config.hubKey key) (swapNonce y.number k) (swapAad p y.hostSlot k) (slice plain (65536 * k) 65536)
        (s.hostBytes (window.1 + 65536 * page) 65536)
        (s.hostBytes (window.1 + window.2 * g.pages * 65536 + 16 * page) 16)).map (fun b => bs ++ b))) (some [])

/-- A frame goes to its host slot, sealed. -/
def State.copyOut (s : State) (p c : Nat) (g : SeqConfig) (w : Nat × Nat) (key : Nat) (y : SwapCopy) : State :=
  let (data, s) := s.spanBytes p c (stackAddress y.stack (g.frameUnit y.frame)) g.frameBytes
  let s := match s.partition? p with
    | some x => s.setPartition p { x with swapped := Sparse.set x.swapped y.number data }
    | none => s
  s.sealFrame p key w g y data

/-- A frame comes back from its host slot; a tag that fails ends the job. -/
def State.copyBack (s : State) (p c : Nat) (g : SeqConfig) (w : Nat × Nat) (key : Nat) (y : SwapCopy) : State :=
  let plain := ((s.partition? p).bind (fun x => Sparse.get? x.swapped y.number)).getD []
  match s.openFrame p key w g y plain with
  | some data =>
    let s := match s.partition? p with
      | some x => s.setPartition p { x with swapped := Sparse.erase x.swapped y.number }
      | none => s
    s.writeSpanBytes p c (stackAddress y.stack (g.frameUnit y.frame)) data
  | none => s.softFault p .swapIntegrity (Config.faultDetail 0).toNat

/-- SWAP_COPY_COMPLETE (R309, R342–R344): the hub and the rim have served the copy, and the frame stands in its host slot, or is back
in its pool. While the link reports the copy's host accesses as failed, the copy waits on under the bound of R345 (R473). -/
def execSwapCopyComplete (p : PartId) (hostOk : Bool) (s : State) : Out :=
  match (s.partition? p).filter (fun _ => hostOk) with
  | none => .next s
  | some x =>
    match x.running? with
    | none => .next s
    | some (c, v) =>
      match v.pattern.bind (fun q => (q.die 0).seqCfg), v.seq.nextCopy, v.seq.window, x.swapKey with
      | some g, some y, some w, some key =>
        if ¬ s.remoteReady p (stackAddress y.stack (g.frameUnit y.frame)) g.frameBytes then .next s
        else match s.hubServe p y.toHost (hubUnits g.copyBytes) with
          | none => .next s
          | some s =>
            match s.partition? p with
            | none => .next s
            | some x =>
              let s := s.setPartition p ((x.setContext c { v with seq := v.seq.copied y s.time }).count c hostBytes g.copyBytes)
              .next (if y.toHost then s.copyOut p c g w key y else s.copyBack p c g w key y)
      | _, _, _, _ => .next s

/-- SWAP_TIMEOUT (R345): a copy has waited more than 1 s for the host link. -/
def execSwapTimeout (p : PartId) (s : State) : Out :=
  match s.partition? p with
  | none => .next s
  | some x =>
    match x.running? with
    | none => .next s
    | some (_, v) =>
      if v.seq.copies.any (fun y => decide (y.since + second < s.time)) then
        .next (s.softFault p .swapTimeout (Config.faultDetail 0).toNat)
      else .next s

/-! ### Loading -/

/-- The list area and the null frames of a context's pools as a load leaves them (R334, R335). -/
def State.clearLists (s : State) (p c : Nat) (g : SeqConfig) (nStacks : Nat) : State :=
  foldRange nStacks s (fun s i =>
    let s := s.writeSpanBytes p c (stackAddress i g.listBase) (zeroBytes (64 * (g.slots + 1) * g.listUnits nStacks))
    s.writeSpanBytes p c (stackAddress i (g.frameUnit 0)) (zeroBytes g.frameBytes))

end Sys2Proof.Machine
end

