-- ==== Sys2Proof/Machine/Contexts.lean ====
section
/-! DEFINITION. Context switches, evictions, bring-in, teardown and checkpoints (spec/12_partitions_and_contexts.md R357–R380,
spec/15_reliability_and_sparing.md R456–R462, spec/03_matrix_tiles.md R79, spec/10_streams_prefetch_gather.md R312). -/

namespace Sys2Proof.Machine

/-! ### Work that a switch completes (R79, R115) -/

/-- The oldest push of a queue leaves the crossing. -/
def State.settlePush (s : State) (p d q : Nat) : State :=
  match s.siteAny p d with
  | none => s
  | some x =>
    match x.die.pushes.find? (fun e => e.queue == q) with
    | none => s
    | some e => s.takePush x q e

/-- The pushes of a queue leave the crossing while the queue takes them. -/
def State.settlePushes (s : State) (p d q : Nat) : State :=
  let n := match s.siteAny p d with | some x => (x.die.pushes.filter (fun e => e.queue == q)).length | none => 0
  foldRange n s (fun s _ => s.settlePush p d q)

/-- What is next in the banks of tile `t`: queued entries, a spill, and their pushes. -/
def State.settleWork (s : State) (p d t : Nat) : State :=
  let s := foldRange 2 s (fun s b =>
    match s.siteAny p d with
    | some x => s.startEntry x t b
    | none => s)
  let s := match s.siteAny p d with
    | some x => s.putDie x (x.die.spillOne t)
    | none => s
  s.settlePushes p d t

/-- Tile `t` completes every issued array instruction, spill and queued accumulator instruction, and empties its cells (R79). -/
def State.settleTile (s : State) (p d t : Nat) : State :=
  match s.siteAny p d with
  | none => s
  | some x =>
    let die := x.die.settleArrays t
    foldRange (die.mtile t).work.length (s.putDie x die) (fun s _ => s.settleWork p d t)

/-- Die `d` completes its tiles' issued instructions, its pushes, stores and remote writes, as far as queues and credits take them
(R79, R115; log entry 93). -/
def State.settleDie (s : State) (p d : Nat) : State :=
  match s.siteAny p d with
  | none => s
  | some x =>
    if x.die.stopped then s
    else
      let s := foldRange 8 s (fun s t => if x.die.mtile t = MTile.zeroed then s else s.settleTile p d t)
      let s := foldRange 20 s (fun s q => s.settlePushes p d q)
      match s.siteAny p d with
      | none => s
      | some x => s.putDie x (x.die.retryHeld.landStores (fun _ => true))

/-- The running context completes what it has issued: the rims commit their write staging (R312), then every die. -/
def State.settle (s : State) (p : Nat) (x : Partition) : State :=
  foldRange x.size (s.commitRims x) (fun s d => s.settleDie p d)

/-- What was completed raised a detected error or a fault, which is answered before anything is saved. -/
def Partition.upset (before now : Partition) : Bool :=
  now.response.due || (before.pattern?.isSome && now.pattern?.isNone)

/-! ### Save and restore -/

/-- An engine as a switch records it (R312): its place is its first unpulled flit, whose staging is to be fetched again; run-ahead is
dropped, and the checks of pulls that are still to come are made again. The counters are the context's (log entry 118). -/
def Engine.saved (e : Engine) : Engine :=
  { e with staging := e.sure.map (fun t => Staged.unread t.units t.cache), runAhead := 0, pulls := 0, late := [],
           counters := { e.counters with discard := e.counters.discard + flitBytes * e.staging.length } }

/-- What a save slot takes of the rims of a partition (R277, R312). -/
def State.savedRims (s : State) (x : Partition) : List RimContext :=
  x.stackRims.map (fun k =>
    let z := (s.rim k).ctx
    { z with engines := Sparse.mapVals (fun _ e => e.saved) z.engines })

/-- What a save slot takes of the running context, in the pair of slot `j` (R363): words as they are stored (R136; log entry
119), and held writes held (log entry 93). -/
def State.snapshot (s : State) (x : Partition) (j : Nat) : Saved :=
  { slot := j, dies := x.dies, rims := s.savedRims x, run := x.run, response := x.response, edge := x.edge,
    crossing := x.crossing, tether := x.tether, clamps := x.clamps, unresolved := x.unresolved }

/-- Stack unit `u` of a span of `n` units at unit `a` that has come to stand at unit `b`. -/
def spanMoved (n a b u : Nat) : Nat := if a ≤ u ∧ u < a + n then u - a + b else u

/-- A rim's context whose span has come to stand elsewhere: open frames and noted writes name units of the stack (R283, R305; log
entry 112). -/
def RimContext.moved (z : RimContext) (ways n a b : Nat) : RimContext :=
  if a = b then z
  else { z with
    frames := z.frames.foldl (fun m e =>
      Sparse.set m (frameOf ways (spanMoved n a b e.2.tag)) { e.2 with tag := spanMoved n a b e.2.tag }) [],
    written := z.written.map (spanMoved n a b) }

/-- The rims of a partition with a restored context's state in the span of slot `j` (R312): its engines fetch again what they had
staged, as the controller accepts the reads. -/
def State.restoreRims (s : State) (x : Partition) (j : Nat) (z : Saved) : State :=
  x.stackRims.zipIdx.foldl (fun s e =>
    let c := (z.rims.getD e.2 .idle).moved x.reductionWays x.spanUnits (z.slot * x.spanUnits) (j * x.spanUnits)
    s.setRim e.1 { (s.rim e.1).complete with ctx := c }) s

/-- A restored tile keeps the activity level that the array holds (R80, R84; log entry 75). -/
def MTile.atLevel (t now : MTile) : MTile :=
  { t with level := now.level, target := now.level, want := none, heldLevel := now.heldLevel, idle := now.idle, busy := 0,
           ramp := none }

/-- A restored die over the die as it stands. -/
def Die.atLevels (d now : Die) : Die :=
  foldRange 8 d (fun d t =>
    let y := (d.mtile t).atLevel (now.mtile t)
    if y = d.mtile t then d else d.setMtile t y)

/-- A partition with a restored context's state (R363); holds of the clock and the switch, the freeze, the hold time of credits, and
rounds that wait for reconciliation are the partition's own. -/
def Partition.restore (x : Partition) (z : Saved) : Partition :=
  let own (h : HoldReason) : Bool := h == .clock || h == .switch
  { x.mapDies (fun d y => (Sparse.getD Die.zeroed z.dies d).atLevels y) with
    response := z.response, edge := z.edge, crossing := z.crossing, tether := z.tether, clamps := z.clamps,
    unresolved := z.unresolved,
    run := { z.run with
      holds := x.run.holds.filter own, frozen := x.run.frozen, frozenBeats := x.run.frozenBeats, admitted := false,
      unreconciled := x.run.unreconciled } }

/-- Bytes that a save or a restore moves on every stack of the partition (R366). -/
def Partition.slotBytes (x : Partition) : Nat :=
  (16 * 162 + 16 * x.reductionWays + 5) * 1048576 * x.stackRims.length

/-- Nominal energy in µJ of `n` bytes of stack transactions of one kind (R287), to the nearest. -/
def transferUj (e : StackEvent) (n : Nat) : Nat := (n / 64 * e.energy + 50000) / 100000

/-- Save the running context, which has completed what it issued, into its slot (R363). -/
def State.saveRunning (s : State) (p : Nat) : State :=
  match s.partition? p with
  | none => s
  | some x =>
    match x.running? with
    | none => s
    | some (c, v) =>
      let v := { v with saved := some (s.snapshot x (v.slot?.getD 0)), runnableSince := s.time }
      let y : Partition := { x.setContext c v with
        running := none, switchCost := x.switchCost ++ [(c, transferUj .write x.slotBytes)] }
      s.setPartition p (y.countOwn stackWriteBytes x.slotBytes)

/-- Restore context `c` from its slot and run it (R363); a slot that nothing was saved to holds zeros (R370; log entry 40). -/
def State.restoreContext (s : State) (p c : Nat) : State :=
  match s.partition? p with
  | none => s
  | some x =>
    match x.context? c with
    | none => s
    | some v =>
      let z := v.saved.getD Saved.zeroed
      let s := s.restoreRims x (v.slot?.getD 0) z
      let y : Partition := { (x.restore z).setContext c { v with saved := none } with
        running := some c, switchedIn := s.time, lastIn := some c, switchCost := x.switchCost ++ [(c, transferUj .read x.slotBytes)] }
      s.setPartition p (y.countOwn stackReadBytes x.slotBytes)

/-! ### Switching -/

/-- The runnable resident context that has waited longest, and among those the lowest number (R362). -/
def Partition.incoming (x : Partition) : Option (Nat × Context) :=
  (x.runnable.insertionSort (fun a b => a.2.runnableSince ≤ b.2.runnableSince)).head?

/-- The partition stands at a round boundary, its next round not admitted (R362). -/
def Partition.atBoundary (x : Partition) : Bool :=
  !x.run.admitted &&
    (match x.run.phase, x.pattern? with
     | .round, some q => decide (q.length x.run.entry ≤ x.run.beat)
     | _, _ => true)

/-- Belays that transactions in progress hold; the rims complete them before a save (R312). -/
def Source.isRim (x : Partition) : Source → Bool
  | .staging k _ | .place k _ _ | .calibration k => bit x.stackMask k
  | _ => false

/-- Nothing that a save waits for is left: swap copies, and what the rims hold the wire for (R312, R346). -/
def State.maySave (s : State) (p : Nat) (x : Partition) : Bool :=
  (match x.running? with | some (_, v) => v.seq.copies.isEmpty | none => true)
    && ((s.wire p).sources ++ (s.wire 16).sources).all (fun y => !y.isRim x)

/-- CONTEXT_SWITCH (R79, R115, R362–R366): at a round boundary the hub begins the switch hold; in it, once the domain is frozen and
nothing is left that a save waits for, the running context completes what it has issued and is saved, and the incoming one is
restored. -/
def execContextSwitch (p : PartId) (s : State) : Out :=
  match s.partition? p with
  | none => .next s
  | some x =>
    if x.teardown ∨ ¬ s.switchDue x ∨ s.switchBarred p x ∨ ¬ x.atBoundary then .next s
    else if ¬ x.run.holds.contains .switch then .next (s.holdRound p .switch)
    else if ¬ s.frozen p ∨ ¬ s.maySave p x then .next s
    else
      let s := s.settle p x
      match s.partition? p with
      | none => .next s
      | some y =>
        if x.upset y then .next s
        else match y.incoming with
          | none => .next s
          | some (c, _) =>
            let s := ((s.saveRunning p).restoreContext p c).releaseRound p .switch
            match s.partition? p with
            | none => .next s
            | some y => .next (s.setPartition p (y.count c contextSwitches 1))

/-! ### The context window -/

/-- Extents in use, first byte and end, lowest first. -/
def Partition.extents (x : Partition) : List (Nat × Nat) :=
  (x.contexts.filterMap (fun e => e.2.extent?.map (fun b => (b.1, b.1 + x.extentBytes e.2.chunks.length)))).insertionSort
    (fun a b => a.1 ≤ b.1)

/-- Round up to 4 KiB. -/
def page4k (n : Nat) : Nat := ceilDiv n 4096 * 4096

/-- The lowest run of the context window for `n` bytes (R369). -/
def Partition.findExtent (x : Partition) (n : Nat) : Option Nat :=
  match x.window with
  | none => none
  | some (b, len) =>
    (b :: x.extents.map (fun e => page4k e.2)).insertionSort (· ≤ ·) |>.find? (fun a =>
      decide (a + n ≤ b + len) && x.extents.all (fun e => decide (a + n ≤ e.1) || decide (e.2 ≤ a)))

/-- Written chunks in the order of the copy (R369). -/
def Context.chunkOrder (v : Context) : List (Nat × Nat) :=
  v.chunks.insertionSort (fun a b => a.1 < b.1 ∨ (a.1 = b.1 ∧ a.2 ≤ b.2))

/-- The header of an extent but for its tag, in two parts: bytes 0–4,079 and 4,096–8,191 (R369). -/
def Partition.extentHeader (x : Partition) (c e : Nat) (v : Context) : List Byte × List Byte :=
  let map (i : Nat) : List Byte := (List.range 256).map (fun b =>
    BitVec.ofNat 8 (((List.range 8).map (fun j => if v.chunks.contains (i, 8 * b + j) then 2 ^ j else 0)).foldl (· + ·) 0))
  (leBytes 8 e ++ leBytes 1 c ++ leBytes 1 x.stackRims.length ++ zeroBytes 6 ++ leBytes 8 saveSlotBytes
      ++ leBytes 8 v.chunks.length ++ zeroBytes 4048,
   (List.range 16).flatMap (fun i => if i < x.stackRims.length then map i else zeroBytes 256))

/-- The nonce of unit `i` of a copy of eviction number `e`; the header's is that of 0xFFFF_FFFF (R369). -/
def extentNonce (e i : Nat) : List Byte := leBytes 8 e ++ leBytes 4 i

def headerUnit : Nat := 0xFFFFFFFF

/-- Bytes of the slots of an extent. -/
def Partition.slotsBytes (x : Partition) : Nat := x.stackRims.length * saveSlotBytes

/-- First byte of the tags of an extent at `base`. -/
def Partition.tagsAt (x : Partition) (base n : Nat) : Nat := base + 8192 + x.copyBytes n

/-- Number of 64 KiB unit `n` of chunk `d` of the copy, the chunks counted in its order (R369). -/
def Partition.chunkUnit (x : Partition) (d n : Nat) : Nat := x.slotsBytes / 65536 + d * 1024 + n

/-- The dirty lines of `n` units from unit `lo` written back (R277). -/
def Rim.flushRange (r : Rim) (lo n : Nat) : Rim :=
  (r.cache.filter (fun l => decide (lo ≤ l.unit) && decide (l.unit < lo + n))).foldl (fun r l => r.flushUnit l.unit) r

/-- The same at every rim of a partition. -/
def State.flushRims (s : State) (x : Partition) (lo n : Nat) : State :=
  x.stackRims.foldl (fun s k => s.setRim k ((s.rim k).flushRange lo n)) s

/-- The data of a chunk of stack index `i` in the span of slot `j`. -/
def State.chunkData (s : State) (x : Partition) (j : Nat) (e : Nat × Nat) : List Byte :=
  let r := s.rim (x.stackRims.getD e.1 0)
  (List.range 1048576).flatMap (fun u => r.unitBytes (j * x.spanUnits + e.2 * 1048576 + u))

/-- Write the extent into host memory (R369). The spec gives no layout inside a slot, so a slot's cipher text and tags are free
bytes (log entry 43); chunks are sealed unit by unit. -/
def State.writeExtent (s : State) (x : Partition) (c e base key : Nat) (v : Context) (chunks : List (List Byte)) : State :=
  let k := Config.hubKey key
  let (h0, h1) := x.extentHeader c e v
  let s := s.hostWrite base (h0 ++ (Config.gcmSeal k (extentNonce e headerUnit) (h0 ++ h1) []).take 16 ++ h1)
  let n := x.slotsBytes
  let (free, s) := s.freeBytes (n + 16 * (n / 65536))
  let tags := x.tagsAt base v.chunks.length
  let s := (s.hostWrite (base + 8192) (free.take n)).hostWrite tags (free.drop n)
  chunks.zipIdx.foldl (fun s d => foldRange 1024 s (fun s m =>
    let i := x.chunkUnit d.2 m
    let bs := Config.gcmSeal k (extentNonce e i) [] (slice d.1 (65536 * m) 65536)
    (s.hostWrite (base + 8192 + 65536 * i) (bs.take 65536)).hostWrite (tags + 16 * i) (bs.drop 65536))) s

/-- The header of an extent is the one that the hub wrote: its number, and its tag (R369). -/
def State.headerOpens (s : State) (base e key : Nat) : Bool :=
  let aad := s.hostBytes base 4080 ++ s.hostBytes (base + 4096) 4096
  leNat (aad.take 8) == e
    && (openSealed (Config.hubKey key) (extentNonce e headerUnit) aad [] [] (s.hostBytes (base + 4080) 16)).isSome

/-- The slots of an extent stand in host memory as the hub wrote them, tags and all (R368; log entry 43). -/
def State.slotsOpen (s : State) (x : Partition) (base : Nat) (v : Context) : Bool :=
  let n := x.slotsBytes
  let wrote := (List.range (n + 16 * (n / 65536))).map (fun i => Config.freeByte (v.slotMark + i))
  s.hostBytes (base + 8192) n == wrote.take n && s.hostBytes (x.tagsAt base v.chunks.length) (16 * (n / 65536)) == wrote.drop n

/-- Chunk `d` of an extent, opened unit by unit (R368): `plain` is what the hub sealed; none where a tag fails. -/
def State.openChunk (s : State) (x : Partition) (base e key : Nat) (v : Context) (d : Nat) (plain : List Byte) :
    Option (List Byte) :=
  (List.range 1024).foldl (fun acc m =>
    let i := x.chunkUnit d m
    acc.bind (fun bs =>
      (openSealed (Config.hubKey key) (extentNonce e i) [] (slice plain (65536 * m) 65536)
        (s.hostBytes (base + 8192 + 65536 * i) 65536) (s.hostBytes (x.tagsAt base v.chunks.length + 16 * i) 16)).map
          (fun b => bs ++ b))) (some [])

/-- The chunks of an extent, by stack, as the hub reads them back (R368, R369): none where the header or a tag does not match. -/
def State.openExtent (s : State) (x : Partition) (base e key : Nat) (v : Context) : Option (List Mem) :=
  if ¬ s.headerOpens base e key ∨ ¬ s.slotsOpen x base v then none
  else
    v.chunkOrder.zipIdx.foldl (fun acc d => acc.bind (fun (ms : List Mem) =>
      let i := d.1.1
      let plain := Mem.readBytes (v.outStacks.getD i []) (chunkBytes * d.1.2) chunkBytes
      (s.openChunk x base e key v d.2 plain).map (fun bs => ms.set i (Mem.record (ms.getD i []) (chunkBytes * d.1.2) bs))))
      (some (List.replicate x.stackRims.length []))

/-! ### Eviction and bring-in -/

/-- Opcodes that need the span of an out context (R396). -/
def needsSpan (opcode : Nat) : Bool := [0x0110, 0x0112, 0x0113, 0x0114, 0x0115, 0x0116].contains opcode

/-- An out context is runnable: a class C command that needs its span waits on a ring (R367, R396). -/
def State.wanted (s : State) (p c : Nat) : Bool :=
  s.rings.any (fun e => e.2.picked.any (fun a =>
    needsSpan a.opcode && a.entry.part.toNat == p && a.entry.ctx.toNat == c))

/-- The out context to bring in: of those runnable, the lowest number (log entry 41). -/
def State.wantedOut (s : State) (p : Nat) (x : Partition) : Option (Nat × Context) :=
  x.contexts.find? (fun e => (match e.2.place with | .out _ => true | _ => false) && s.wanted p e.1)

/-- Slots that no resident or moving context owns, lowest first. -/
def Partition.freeSlots (x : Partition) : List Nat :=
  (List.range x.slots).filter (fun j => x.contexts.all (fun e => e.2.slot? != some j))

/-- A resident context is blocked (R361): it has nothing to run now (log entry 111). -/
def Context.blocked (v : Context) : Bool := (match v.place with | .resident _ => true | _ => false) && !v.wantsRun

/-- The resident context to evict (R367): every resident context is blocked, and it has been so longest. -/
def Partition.evictable (x : Partition) : Option (Nat × Context) :=
  let res := x.contexts.filter (fun e => match e.2.place with | .resident _ => true | _ => false)
  if res.all (fun e => e.2.blocked) then (res.insertionSort (fun a b => a.2.blockedSince ≤ b.2.blockedSince)).head?
  else none

/-- Context `o` may leave its pair now: no checkpoint reads its stack, and where it runs it may be saved (R312, R346, R364; log
entry 111). -/
def State.mayLeave (s : State) (p : Nat) (x : Partition) (o : Nat) (w : Context) : Bool :=
  w.checkpoint.isNone && (x.running != some o || (x.run.phase != .round && !s.switchBarred p x && s.maySave p x))

/-- Copy the resident context `c` out (R277, R368, R369): its slot and written chunks into the context window. -/
def State.evict (s : State) (p c base : Nat) : State :=
  let s := match s.partition? p with
    | some x => if x.running = some c then s.saveRunning p else s
    | none => s
  match s.partition? p with
  | none => s
  | some x =>
    match x.context? c with
    | none => s
    | some v =>
      let j := v.slot?.getD 0
      let n := v.chunks.length
      let e := x.evictionNumber
      let s := s.flushRims x (j * x.spanUnits) x.spanUnits
      let data := v.chunkOrder.map (fun k => s.chunkData x j k)
      let outStacks := (List.range x.stackRims.length).map (fun i =>
        (v.chunkOrder.zip data).foldl (fun m k => if k.1.1 = i then Mem.record m (chunkBytes * k.1.2) k.2 else m) [])
      let v := { v with place := .out (some (base, e)), outStacks, slotMark := s.fresh }
      let y := { x.setContext c v with evictionNumber := (e + 1) % 2 ^ 64 }
      let y := (y.countOwn stackReadBytes (x.copyBytes n)).countOwn Sys2Proof.Machine.hostBytes (x.extentBytes n)
      (s.setPartition p y).writeExtent x c e base (x.windowKey.getD 0) v data

/-- The rims of a partition serve the remote path now (R265, R273, R308). -/
def State.rimsReady (s : State) (x : Partition) : Bool := x.stackRims.all (fun k => s.remoteAdmits k 4096)

/-- Evict context `o` to the extent at `base`, once it has completed what it issued and the hub has served the copy, and keep its
pair for context `c` (R367–R369). -/
def State.makeRoom (s : State) (p : Nat) (x : Partition) (o c base : Nat) (w : Context) : State :=
  let s := if x.running = some o then s.settle p x else s
  match s.partition? p with
  | none => s
  | some y =>
    if x.upset y then s
    else match s.hubServe p true (hubUnits (x.extentBytes w.chunks.length)) with
      | none => s
      | some s =>
        let s := s.evict p o base
        match s.partition? p with
        | none => s
        | some y =>
          match y.context? c with
          | none => s
          | some v =>
            let j := w.slot?.getD 0
            s.setPartition p { y.setContext c { v with place := .moving j v.extent? } with evicting := some (j, c) }

/-- EVICTION (R309, R367–R370). -/
def execEviction (p : PartId) (s : State) : Out :=
  match s.partition? p with
  | none => .next s
  | some x =>
    if x.teardown ∨ x.evicting.isSome ∨ ¬ x.freeSlots.isEmpty then .next s
    else match s.wantedOut p x, x.evictable with
      | some (c, _), some (o, w) =>
        match x.findExtent (x.extentBytes w.chunks.length) with
        | none =>
          if x.windowFullPosted then .next s
          else .next ((s.setPartition p { x with windowFullPosted := true }).postEvent (p + 1)
            ⟨.ctxWindowFull, 0, [BitVec.ofNat 32 c]⟩)
        | some base => if s.mayLeave p x o w ∧ s.rimsReady x then .next (s.makeRoom p x o c base w) else .next s
      | _, _ => .next s

/-- The cache of a rim with no line of the span of slot `j`, dirty lines written back. -/
def Rim.dropSpan (r : Rim) (j span : Nat) : Rim :=
  let r := r.flushRange (j * span) span
  { r with cache := r.cache.filter (fun l => !(l.unit / span == j)) }

/-- Bring context `c` into the pair of slot `j` (R368): its chunks written, its slot as it was saved. The chunks stay noted, since a
later eviction has to carry them again (log entry 112). -/
def State.bringIn (s : State) (p c j : Nat) (v : Context) (x : Partition) : State :=
  let s := x.stackRims.zipIdx.foldl (fun s e =>
    let r := ((s.rim e.1).dropSpan j x.spanUnits).drainAll
    let at_ := 64 * j * x.spanUnits
    let m := (v.outStacks.getD e.2 []).foldl (fun m b => Mem.record m (at_ + b.1) [b.2]) r.stack
    s.setRim e.1 { r with stack := m }) s
  let n := v.chunks.length
  let carried := if v.extent?.isSome then x.extentBytes n else 0
  let y := x.setContext c { v with place := .resident j, outStacks := [], runnableSince := s.time, blockedSince := s.time }
  let y := (({ y with evicting := none } : Partition).countOwn stackWriteBytes (x.copyBytes n)).countOwn
    Sys2Proof.Machine.hostBytes carried
  s.setPartition p y

/-- The context a bring-in concerns and its pair: the one an eviction made room for, or a runnable out context where a pair is
free. -/
def State.bringing (s : State) (p : Nat) (x : Partition) : Option (Nat × Nat × Context) :=
  match x.evicting with
  | some (j, c) => (x.context? c).map (fun v => (j, c, v))
  | none =>
    match x.freeSlots, s.wantedOut p x with
    | j :: _, some (c, v) => some (j, c, v)
    | _, _ => none

/-- A context whose extent does not open loses its job and holds a pair of nothing (R368; log entry 42). -/
def State.bringNothing (s : State) (p c j : Nat) (v : Context) (x : Partition) : State :=
  let s := (s.bringIn p c j { v with outStacks := [], chunks := [] } x).endJob p c .lost .ctxIntegrity
    (Config.faultDetail 0).toNat true
  match s.partition? p with
  | none => s
  | some y =>
    match y.context? c with
    | none => s
    | some v => s.setPartition p (y.setContext c { v with saved := none })

/-- BRING_IN (R309, R367–R370): a context that has never been resident brings a slot of zeros, and nothing over the link. While the
link reports the reads of the extent as failed, the context stays out (log entry 126). -/
def execBringIn (p : PartId) (hostOk : Bool) (s : State) : Out :=
  match s.partition? p with
  | none => .next s
  | some x =>
    if x.teardown then .next s
    else match s.bringing p x with
      | none => .next s
      | some (j, c, v) =>
        match v.extent? with
        | none => .next (s.bringIn p c j v x)
        | some (base, e) =>
          if ¬ s.rimsReady x ∨ ¬ hostOk then .next s
          else match s.hubServe p false (x.inUnits v) with
            | none => .next s
            | some s =>
              match s.partition? p with
              | none => .next s
              | some x =>
                match s.openExtent x base e (x.windowKey.getD 0) v with
                | some outStacks => .next (s.bringIn p c j { v with outStacks } x)
                | none => .next (s.bringNothing p c j v x)

/-! ### Teardown -/

/-- A rim whose stack no partition holds any more (R263, R376): no key, no line, no engine work. -/
def Rim.released (r : Rim) : Rim :=
  { r with stack := [], key := none, cache := [], ctx := .idle, outstanding := [], writes := [], tokens := bucketDepth }

/-- Complete a `DEBUG_UNLOCK` once no partition is left (R495). -/
def State.openDebug (s : State) : State :=
  match s.debugWait with
  | none => s
  | some (k, e) =>
    if s.partitions.isEmpty then
      let s : State := { s with debugWait := none, debugOpen := true }
      match (s.ring k).active.find? (fun (a : Active) => a.entry == e && a.progress == Progress.destroy) with
      | some a => s.finish k a .ok 0 []
      | none => s
    else s

/-- The sets of a partition: its own, then its contexts' in ascending number (log entry 50). -/
def Partition.allRecords (x : Partition) : List (List Byte) :=
  counterRecord 0xFFFF x.counters :: x.contexts.map (fun e => counterRecord e.1 e.2.counters)

/-- TEARDOWN_COMPLETE (R376, R380, R395): tiles zeroed, keys destroyed, dies, stacks, domain and leases released, the partition's
ring stopped, and the destroying command complete with the final sets. -/
def execTeardownComplete (p : PartId) (s : State) : Out :=
  match s.partition? p with
  | none => .next s
  | some x =>
    if ¬ x.teardown then .next s
    else
      let s := x.stackRims.foldl (fun s k => s.setRim k (s.rim k).released) s
      let s : State := { s with partitions := Sparse.erase s.partitions p, wires := Sparse.erase s.wires p }
      let r := s.ring (p + 1)
      let s := s.setRing (p + 1) { r with state := .stopped, picked := [], active := [], unposted := [], events := [], lost := 0 }
      let s := match x.destroyer with
        | none => s
        | some (k, e) =>
          match (s.ring k).active.find? (fun (a : Active) => a.entry == e && a.progress == Progress.destroy) with
          | some a => (s.hostWrite e.addr.toNat x.allRecords.flatten).finish k a .ok 0 [BitVec.ofNat 32 x.allRecords.length]
          | none => s
      .next s.openDebug.relimit

/-! ### Checkpoints -/

/-- Stack address bits of an address parameter within a stack (R456). -/
def withinStack (a : Nat) : Nat := a % 2 ^ 37

/-- The mirror of a checkpoint (R277, R457): what the cache holds of every range written back, and the range copied. -/
def State.mirror (s : State) (p c nStacks from_ to_ n : Nat) : State :=
  let s := match s.partition? p with
    | some x =>
      match x.context? c with
      | some v => s.flushRims x ((v.slot?.getD 0) * x.spanUnits + from_ / 64) (n / 64)
      | none => s
    | none => s
  foldRange nStacks s (fun s i =>
    let base := 64 * i * stackUnits
    let (bs, s) := s.spanBytes p c (base + from_) n
    s.writeSpanBytes p c (base + to_) bs)

/-- The header of a checkpoint (R458). -/
def State.checkpointHeader (s : State) (nStacks n : Nat) (v : Context) (data : List Byte) : List Byte :=
  leBytes 4 0x47434B31 ++ leBytes 1 (field s.runningImage 4 1) ++ leBytes 1 nStacks ++ zeroBytes 2 ++ leBytes 8 v.step ++ leBytes 8 n
    ++ leBytes 32 s.features.toNat ++ leBytes 48 ((v.pattern.map (fun q => q.hash.toNat)).getD 0)
    ++ leBytes 48 (Config.sha384 data).toNat ++ zeroBytes 3944

/-- The data of the mirrors, in stack order. -/
def State.mirrorData (s : State) (p c nStacks at_ n : Nat) : List Byte × State :=
  foldRange nStacks (([] : List Byte), s) (fun acc i =>
    let (bs, t) := acc.2.spanBytes p c (64 * i * stackUnits + at_) n
    (acc.1 ++ bs, t))

/-- The first context of a partition with a checkpoint in progress. -/
def Partition.checkpointing (x : Partition) : Option (Nat × Context × CheckpointState) :=
  x.contexts.findSome? (fun e => e.2.checkpoint.map (fun k => (e.1, e.2, k)))

/-- The command in progress of a checkpoint. -/
def State.checkpointActive (s : State) (k : CheckpointState) : Option Active :=
  (s.ring k.ring).active.find? (fun a => a.entry == k.entry && a.progress == .checkpoint)

/-- The context is runnable from now on, if a step is commanded (R361); a pair that becomes runnable may end the lack of room for an
eviction (R370). -/
def Partition.runnableNow (x : Partition) (c now : Nat) (v : Context) : Partition :=
  let v := { v with runnableSince := now }
  let y := x.setContext c v
  if v.wantsRun ∧ v.slot?.isSome then { y with windowFullPosted := false } else y

/-- End a checkpoint with a status. -/
def State.endCheckpoint (s : State) (p c : Nat) (k : CheckpointState) (st : Status) (result : List W32) : State :=
  let s := match s.partition? p with
    | some x =>
      match x.context? c with
      | some v => s.setPartition p (x.runnableNow c s.time { v with checkpoint := none })
      | none => s
    | none => s
  match s.checkpointActive k with
  | some a => s.finish k.ring a st 0 result
  | none => s

/-- CHECKPOINT_MIRROR_COMPLETE (R309, R377, R457, R458): ranges mirrored, and, once the hub has served them, the header and the
mirrors in host memory. -/
def execCheckpointMirrorComplete (p : PartId) (hostOk : Bool) (s : State) : Out :=
  match s.partition? p with
  | none => .next s
  | some x =>
    match x.checkpointing with
    | none => .next s
    | some (c, v, k) =>
      let nStacks := x.stackRims.length
      let n := paramPair k.entry 2
      let from_ := withinStack (paramPair k.entry 0)
      let to_ := withinStack (paramPair k.entry 4)
      if x.teardown ∨ ¬ s.rimsReady x then .next s
      else if ¬ hostOk then .next ((s.mirror p c nStacks from_ to_ n).endCheckpoint p c k .hostAccess [])
      else match s.hubServe p true (hubUnits (checkpointBytes nStacks n)) with
        | none => .next s
        | some s =>
          let (data, s) := (s.mirror p c nStacks from_ to_ n).mirrorData p c nStacks to_ n
          let at_ := k.entry.addr.toNat
          let s := (s.hostWrite at_ (s.checkpointHeader nStacks n v data)).hostWrite (at_ + 4096) data
          let s := match s.partition? p with
            | some x => s.setPartition p (x.count c hostBytes (checkpointBytes nStacks n))
            | none => s
          .next (s.endCheckpoint p c k .ok [BitVec.ofNat 32 (nStacks * n), BitVec.ofNat 32 (nStacks * n / 2 ^ 32)])

/-- CHECKPOINT_DRAIN_TIMEOUT (R459): the drain has waited more than 1 s for the host; the mirror stays valid. -/
def execCheckpointDrainTimeout (p : PartId) (s : State) : Out :=
  match s.partition? p with
  | none => .next s
  | some x =>
    match x.checkpointing with
    | none => .next s
    | some (c, _, k) =>
      if x.teardown ∨ s.time ≤ k.since + second then .next s
      else
        let s := s.mirror p c x.stackRims.length (withinStack (paramPair k.entry 0)) (withinStack (paramPair k.entry 4))
          (paramPair k.entry 2)
        .next (s.endCheckpoint p c k .hostAccess [])

end Sys2Proof.Machine
end

