-- ==== Sys2Proof/Machine/Image.lean ====
section
/-! DEFINITION. A pattern image: its header, its section directory, the items that each section's layout holds, and the
pattern that they describe (spec/06_fabric_and_patterns.md R165–R180, spec/07_recompute_execution.md R204, R209,
spec/08_splice_reduction.md R221–R231, spec/09_stack_memory.md R272, spec/10_streams_prefetch_gather.md R294–R306,
spec/11_sequences_and_kv_cache.md R318, spec/14_power_and_energy.md R424). -/

namespace Sys2Proof.Machine

/-! ### Header and directory -/

/-- The header of an image (R171). -/
structure Header where
  magic : Nat
  major : Nat
  minor : Nat
  features : Nat
  width : Nat
  height : Nat
  strands : Nat
  errModes : Nat
  reserve : Nat
  seed : Nat
  syncTimeout : Nat
  tables : Nat
  seqLen : Nat
  split : Nat × Nat × Nat
  sections : Nat
  dirOffset : Nat
  deriving DecidableEq, Repr

def Header.ofBytes (bs : List Byte) : Header :=
  { magic := field bs 0 4, major := field bs 4 1, minor := field bs 5 1, features := field bs 8 32,
    width := field bs 40 2, height := field bs 42 2, strands := field bs 44 2, errModes := field bs 46 1,
    reserve := field bs 47 1, seed := field bs 48 8, syncTimeout := field bs 56 4, tables := field bs 60 2,
    seqLen := field bs 62 2, split := (field bs 64 1, field bs 65 1, field bs 66 1), sections := field bs 68 4,
    dirOffset := field bs 72 8 }

/-- Header bytes that the table does not assign (R171). -/
def headerReserved : List Nat := [6, 7, 67] ++ (List.range 48).map (fun i => 80 + i)

/-- Dies of the image's shape (R174). -/
def Header.size (h : Header) : Nat := h.width * h.height

/-- The image's stack count (R174). -/
def Header.stackCount (h : Header) : Nat := ceilDiv h.size 16

/-- A directory entry (R173), with its place in the directory. -/
structure DirEntry where
  index : Nat
  ty : Nat
  scope : Nat
  offset : Nat
  length : Nat
  raw : Nat
  deriving DecidableEq, Repr

/-- The bits of a directory entry that are assigned (R173). -/
def dirFields : List (Nat × Nat) := [(7, 0), (95, 16)]

def DirEntry.ofNat (i v : Nat) : DirEntry :=
  ⟨i, bits v 7 0, bits v 31 16, bits v 63 32, bits v 95 64, v⟩

/-- Byte offset of a directory entry in the image. -/
def Header.entryAt (h : Header) (i : Nat) : Nat := h.dirOffset + 16 * i

/-- The section directory (R173). -/
def Header.directory (h : Header) (img : List Byte) : List DirEntry :=
  (List.range h.sections).map (fun i => DirEntry.ofNat i (field img (h.entryAt i) 16))

/-! ### Items -/

/-- What an item of a section is. -/
inductive ItemKind where
  | round | layer | length | count | slot | seq | landing | lease | sync | contents | access | credit | region
  | strand | dep | queue | term | edge | list | descriptor | cal | config | patch | estimate
  deriving DecidableEq, Repr

/-- An item of a section: its kind, the round table or list it stands under, its byte offset, and its bits. -/
structure Item where
  kind : ItemKind
  group : Nat
  off : Nat
  v : Nat
  deriving DecidableEq, Repr

/-- Bytes of an item; of a contents record, its header. -/
def ItemKind.size : ItemKind → Nat
  | .round | .layer | .length => 4
  | .count | .seq | .lease | .sync | .strand | .dep | .edge | .cal | .patch => 8
  | .slot | .landing | .contents | .access | .credit | .queue | .term | .estimate => 16
  | .region => 32
  | .list | .descriptor | .config => 64

/-- The bits of an item that its field map assigns; the others are reserved (R11), the upper half of a count among them (log entry
114). -/
def ItemKind.fields : ItemKind → List (Nat × Nat)
  | .round => [(21, 0)]
  | .layer => [(13, 0), (27, 16)]
  | .length => [(9, 0)]
  | .count => [(31, 0)]
  | .slot => [(29, 0), (111, 64)]
  | .seq => [(24, 0), (48, 32)]
  | .landing => [(39, 0)]
  | .lease => [(10, 0), (21, 16)]
  | .sync => [(37, 0)]
  | .contents => [(4, 0), (48, 32), (95, 64)]
  | .access => [(4, 0), (99, 8)]
  | .credit => [(60, 0), (90, 64)]
  | .region => [(7, 0), (27, 16), (48, 32), (80, 64), (107, 96), (123, 112), (191, 128)]
  | .strand => [(15, 0)]
  | .dep => [(43, 0)]
  | .queue => [(8, 0), (49, 16), (83, 64)]
  | .term => [(29, 0), (51, 32), (97, 64)]
  | .edge => [(25, 0)]
  | .list => [(47, 0)]
  | .descriptor => descriptorFields
  | .cal => [(41, 0)]
  | .config => [(14, 0), (22, 16), (26, 24), (41, 32), (52, 48), (94, 64), (115, 96), (158, 128), (175, 160)]
      ++ (List.range 12).map (fun j => (206 + 16 * j, 192 + 16 * j)) ++ [(400, 384), (432, 416)]
  | .patch => [(13, 0), (34, 16)]
  | .estimate => [(5, 0), (127, 32)]

/-- An item sets a reserved bit (R11). -/
def Item.stray (i : Item) : Bool := strayBits i.v i.kind.fields

/-! ### Layouts

A reader walks a section's bytes; it answers the items, or the byte offset at which the layout breaks. -/

/-- A place in a section: its bytes, how many have been read, and the items so far. -/
structure Reader where
  bytes : List Byte
  off : Nat
  items : List Item
  deriving DecidableEq, Repr

/-- Bytes not yet read. -/
def Reader.left (r : Reader) : Nat := r.bytes.length - r.off

/-- Read `n` items of a kind. -/
def Reader.takeItems (k : ItemKind) (group n : Nat) (r : Reader) : Except Nat Reader :=
  if r.left < n * k.size then .error r.off
  else .ok { r with
    off := r.off + n * k.size,
    items := r.items ++ (List.range n).map (fun i =>
      ⟨k, group, r.off + i * k.size, field r.bytes (r.off + i * k.size) k.size⟩) }

/-- Read an 8 B count of at most `most`, and that many items. -/
def Reader.takeCounted (k : ItemKind) (group most : Nat) (r : Reader) : Except Nat Reader :=
  match r.takeItems .count group 1 with
  | .error e => .error e
  | .ok q =>
    let n := field r.bytes r.off 4
    if most < n ∨ q.left < n * k.size then .error r.off else q.takeItems k group n

/-- Read counted items for each round table in ascending order. -/
def Reader.takeTables (k : ItemKind) (tables : Nat) (r : Reader) : Except Nat Reader :=
  foldRange tables (.ok r) (fun acc t => acc.bind (Reader.takeCounted k t (2 ^ 32)))

/-- Read items of a kind to the section's end. -/
def Reader.takeRest (k : ItemKind) (r : Reader) : Except Nat Reader := r.takeItems k 0 (r.left / k.size)

/-- Read initial-contents records to the section's end (R180). -/
def Reader.takeContents : Nat → Reader → Except Nat Reader
  | 0, r => .ok r
  | n + 1, r =>
    if r.left = 0 then .ok r
    else match r.takeItems .contents 0 1 with
      | .error e => .error e
      | .ok q =>
        let len := bits (field r.bytes r.off 16) 95 64
        if len % 64 ≠ 0 ∨ q.left < len then .error r.off else Reader.takeContents n { q with off := q.off + len }

/-- Read one descriptor list, whose header must name its layer and engine (R298). -/
def Reader.takeList (layer eng : Nat) (r : Reader) : Except Nat Reader :=
  match r.takeItems .list 0 1 with
  | .error e => .error e
  | .ok q =>
    let v := field r.bytes r.off 64
    let n := bits v 31 0
    if bits v 35 32 ≠ eng ∨ bits v 47 36 ≠ layer ∨ q.left < 64 * n then .error r.off else q.takeItems .descriptor r.off n

/-- The layout of a section of type `ty` (R174–R180, R221, R272, R298, R318, R424). -/
def readLayout (h : Header) (layers : List Nat) (ty : Nat) (r : Reader) : Except Nat Reader :=
  match ty with
  | 0x01 => ((r.takeItems .round 0 h.seqLen).bind (Reader.takeItems .layer 0 h.seqLen)).bind
      (Reader.takeItems .length 0 h.tables)
  | 0x02 => r.takeTables .slot h.tables
  | 0x03 => r.takeTables .seq h.tables
  | 0x04 => r.takeItems .landing 0 32
  | 0x05 => r.takeCounted .lease 0 (2 ^ 32)
  | 0x06 => r.takeCounted .sync 0 (2 ^ 32)
  | 0x10 => Reader.takeContents (r.bytes.length / 16 + 1) r
  | 0x11 => r.takeItems .access 0 180
  | 0x12 => r.takeItems .credit 0 1344
  | 0x13 => r.takeRest .region
  | 0x14 => (((r.takeItems .strand 0 1).bind (Reader.takeCounted .dep 0 (2 ^ 32))).bind
      (Reader.takeItems .queue 0 20)).bind (Reader.takeCounted .term 0 32)
  | 0x20 => layers.foldl (fun acc l => foldRange 8 acc (fun acc e => acc.bind (Reader.takeList l e)))
      (r.takeTables .edge h.tables)
  | 0x21 => r.takeCounted .cal 0 (2 ^ 32)
  | 0x22 => (r.takeItems .config 0 1).bind (Reader.takeRest .patch)
  | 0x30 => r.takeRest .estimate
  | _ => .ok { r with off := r.bytes.length }

/-- An unused landing pointer is all zero (R177). -/
def Item.tidy (i : Item) : Bool := !(i.kind == .landing && !bit i.v 0 && i.v != 0)

/-- The items of a section, which its layout must use up; or the offset of what is out of place. -/
def readSection (h : Header) (layers : List Nat) (ty : Nat) (bs : List Byte) : Except Nat (List Item) :=
  match readLayout h layers ty ⟨bs, 0, []⟩ with
  | .error e => .error e
  | .ok r =>
    if r.left ≠ 0 then .error r.off
    else match r.items.find? (fun i => !i.tidy) with
      | some i => .error i.off
      | none => .ok r.items

/-- A section with its items. -/
structure Section where
  entry : DirEntry
  bytes : List Byte
  items : List Item
  deriving DecidableEq, Repr

/-- The section types (R172). -/
def sectionTypes : List Nat := [0x01, 0x02, 0x03, 0x04, 0x05, 0x06, 0x10, 0x11, 0x12, 0x13, 0x14, 0x20, 0x21, 0x22, 0x30]

/-- An image taken apart. -/
structure Image where
  header : Header
  bytes : List Byte
  sections : List Section
  deriving DecidableEq, Repr

/-- The bytes of a directory entry's section. -/
def DirEntry.bytesIn (e : DirEntry) (img : List Byte) : List Byte := slice img e.offset e.length

/-- The layers that a layer map names, ascending (R298). -/
def layersOf (items : List Item) : List Nat :=
  ((items.filter (fun i => i.kind == .layer)).map (fun i => bits i.v 11 0)).dedup.insertionSort (· ≤ ·)

/-- Read every section in directory order: the sections, or the entry and offset at which a layout breaks. -/
def readSections (h : Header) (img : List Byte) (dir : List DirEntry) : Except (DirEntry × Nat) (List Section) :=
  dir.foldl (fun acc e =>
    acc.bind (fun done =>
      let layers := layersOf ((done.filter (fun s => s.entry.ty == 1)).flatMap (·.items))
      match readSection h layers e.ty (e.bytesIn img) with
      | .ok items => .ok (done ++ [⟨e, e.bytesIn img, items⟩])
      | .error off => .error (e, off))) (.ok [])

/-- The section of a type and scope. -/
def Image.section? (i : Image) (ty scope : Nat) : Option Section :=
  i.sections.find? (fun s => s.entry.ty == ty && s.entry.scope == scope)

/-- The items of a kind in a section; none where the section is missing. -/
def Image.items (i : Image) (ty scope : Nat) (k : ItemKind) : List Item :=
  ((i.section? ty scope).map (fun s => s.items.filter (fun x => x.kind == k))).getD []

/-- The scope of the whole image (R174). -/
def wholeScope : Nat := 0xFFFF

/-- The scope of stack index `i` (R174). -/
def rimScope (i : Nat) : Nat := 0x8000 + i

/-! ### Items as entries -/

def SlotRecord.ofNat (v : Nat) : SlotRecord := ⟨bits v 63 0, bits v 79 64, bits v 95 80, bits v 111 96⟩

def SeqEntry.ofNat (v : Nat) : SeqEntry := ⟨bits v 15 0, bits v 19 16, bits v 24 20, bits v 48 32⟩

def Landing.ofNat (v : Nat) : Landing := ⟨bit v 0, bits v 5 1, bits v 22 6, bits v 39 23⟩

def Credit.ofNat (v : Nat) : Credit :=
  { valid := bit v 0, sched := bit v 1, srcKind := bits v 4 2, srcId := bits v 8 5, base := bits v 25 9,
    limit := bits v 42 26, credits := bits v 60 43, refill := bits v 81 64, evt := bits v 89 82, rstart := bit v 90 }

def Region.ofNat (v : Nat) : Region :=
  { mem := bits v 4 0, kind := bits v 6 5, writ := bit v 7, block := bits v 27 16, base := bits v 48 32,
    limit := bits v 80 64, first := bits v 107 96, last := bits v 123 112, src := bits v 191 128 }

def SpliceQueue.ofNat (v : Nat) : SpliceQueue :=
  { splice := bit v 0, h := bits v 4 1, p2 := bits v 8 5, scaleBase := bits v 32 16, scaleHalf := bits v 49 33,
    sumBase := bits v 80 64, sumSlots := bits v 83 81 + 1 }

def Terminus.ofNat (v : Nat) : Terminus :=
  { valid := bit v 0, land := bits v 5 1, p2 := bits v 9 6, h := bits v 13 10, evt1 := bits v 21 14, evt2 := bits v 29 22,
    recBase := bits v 48 32, recSlots := bits v 51 49 + 1, scaleBase := bits v 80 64, scaleHalf := bits v 97 81 }

def InjDep.ofNat (v : Nat) : InjDep := ⟨bits v 5 0, bits v 21 6, bits v 27 22, bits v 43 28⟩

def SyncDecl.ofNat (v : Nat) : SyncDecl := ⟨bits v 5 0, bits v 21 6, bits v 37 22⟩

def Lease.ofNat (v : Nat) : Lease := ⟨bits v 3 0, bits v 7 4, bits v 10 8, bits v 21 16⟩

def CalWindow.ofNat (v : Nat) : CalWindow := ⟨bits v 5 0, bits v 21 6, bits v 37 22, bits v 41 38⟩

def Patch.ofNat (v : Nat) : Patch := ⟨bits v 3 0, bits v 10 4, bits v 13 11, bits v 34 16⟩

def SeqConfig.ofNat (v : Nat) : SeqConfig :=
  { slots := bits v 13 0 + 1, mxint8 := bit v 14, tokens := bits v 22 16 + 1, heads := bits v 26 24 + 1,
    pages := bits v 41 32 + 1, lenLog2 := bits v 52 48, poolBase := bits v 94 64, poolFrames := bits v 115 96 + 1,
    listBase := bits v 158 128, margin := bits v 175 160,
    cap := (List.range 12).map (fun j => bits v (206 + 16 * j) (192 + 16 * j)),
    wlBase := bits v 400 384, repBase := bits v 432 416 }

def EdgeEntry.ofNat (v : Nat) : EdgeEntry :=
  { beat := bits v 15 0, port := 4 * bits v 25 24 + bits v 17 16, receive := bit v 18, eng := bits v 22 19, hank := bit v 23 }

def LayerEntry.ofNat (v : Nat) : LayerEntry := ⟨bits v 11 0, bits v 13 12, bits v 27 16⟩

/-- The initial contents of a section 0x10 (R180). -/
def Section.contents (s : Section) : List Contents :=
  (s.items.filter (fun i => i.kind == .contents)).map (fun i =>
    ⟨bits i.v 4 0, bits i.v 48 32, slice s.bytes (i.off + 16) (bits i.v 95 64)⟩)

/-- The entries of each round table. -/
def byTable {α : Type} (tables : Nat) (items : List Item) (f : Nat → α) : List (List α) :=
  (List.range tables).map (fun t => (items.filter (fun i => i.group == t)).map (fun i => f i.v))

/-- The descriptor lists of a rim section (R298). -/
def Section.lists (s : Section) : List EngineList :=
  (s.items.filter (fun i => i.kind == .list)).map (fun h =>
    ⟨bits h.v 47 36, bits h.v 35 32,
     (s.items.filter (fun i => i.kind == .descriptor && i.group == h.off)).map (fun i => Descriptor.ofNat i.v)⟩)

/-- What an image gives die `d`. -/
def Image.die (i : Image) (d : Nat) : DiePattern :=
  let n := i.header.tables
  let all (ty : Nat) (k : ItemKind) := i.items ty d k
  { slots := byTable n (all 0x02 .slot) SlotRecord.ofNat
    seqs := byTable n (all 0x03 .seq) SeqEntry.ofNat
    landings := (all 0x04 .landing).map (fun x => Landing.ofNat x.v)
    syncs := (all 0x06 .sync).map (fun x => SyncDecl.ofNat x.v)
    contents := ((i.section? 0x10 d).map Section.contents).getD []
    access := (all 0x11 .access).map (fun x => AccessMode.ofNat x.v)
    credits := (all 0x12 .credit).map (fun x => Credit.ofNat x.v)
    regions := (all 0x13 .region).map (fun x => Region.ofNat x.v)
    strand := bits (((all 0x14 .strand).head?.map (·.v)).getD 0) 7 0
    pos := bits (((all 0x14 .strand).head?.map (·.v)).getD 0) 15 8
    deps := (all 0x14 .dep).map (fun x => InjDep.ofNat x.v)
    queues := (all 0x14 .queue).map (fun x => SpliceQueue.ofNat x.v)
    termini := (all 0x14 .term).map (fun x => Terminus.ofNat x.v)
    cal := (all 0x21 .cal).map (fun x => CalWindow.ofNat x.v)
    seqCfg := (all 0x22 .config).head?.map (fun x => SeqConfig.ofNat x.v)
    patches := (all 0x22 .patch).map (fun x => Patch.ofNat x.v) }

/-- What an image gives the rim of stack index `k`. -/
def Image.rim (i : Image) (k : Nat) : RimPattern :=
  ⟨byTable i.header.tables (i.items 0x20 (rimScope k) .edge) EdgeEntry.ofNat,
   ((i.section? 0x20 (rimScope k)).map Section.lists).getD []⟩

/-- The pattern that an image describes. -/
def Image.pattern (i : Image) : Pattern :=
  let h := i.header
  let whole (ty : Nat) (k : ItemKind) := i.items ty wholeScope k
  { hash := Config.sha384 i.bytes, width := h.width, height := h.height, strands := h.strands, errModes := h.errModes,
    transitReserve := h.reserve, seed := BitVec.ofNat 64 h.seed, syncTimeout := h.syncTimeout,
    rounds := (whole 0x01 .round).map (fun x => (bits x.v 5 0, bits x.v 21 6 + 1)),
    layers := (whole 0x01 .layer).map (fun x => LayerEntry.ofNat x.v),
    lengths := (whole 0x01 .length).map (fun x => 64 * (bits x.v 9 0 + 1)),
    dies := (List.range h.size).map i.die,
    rims := (List.range h.stackCount).map i.rim,
    leases := (whole 0x05 .lease).map (fun x => Lease.ofNat x.v),
    estimates := (List.range h.tables).map (fun t =>
      (((whole 0x30 .estimate).find? (fun x => bits x.v 5 0 == t)).map (fun x =>
        (bits x.v 63 32, bits x.v 95 64, bits x.v 127 96))).getD (0, 0, 0)) }

end Sys2Proof.Machine
end

