-- ==== Sys2Proof/Machine/Loader.lean ====
section
/-! DEFINITION. The 24 load checks of `LOAD_PATTERN`, in order (spec/13_flauri_commands.md R414, R415; log entries 44–47). -/

namespace Sys2Proof.Machine

/-- A load refusal (R414): status, `DETAIL`, and the section index and byte offset of the failing item. -/
structure Fail where
  status : Status
  detail : Nat
  index : Nat
  off : Nat
  deriving DecidableEq, Repr

/-- A failure in the header or the directory (R414). -/
def headFail (st : Status) (off : Nat) : Fail := ⟨st, wholeScope, 0xFFFFFFFF, off⟩

/-- A failure in a section. -/
def Section.fail (s : Section) (st : Status) (off : Nat) : Fail := ⟨st, s.entry.scope, s.entry.index, off⟩

/-- The first item of a section that `bad` holds of. -/
def Section.refuse (s : Section) (st : Status) (bad : Item → Bool) : Option Fail :=
  (s.items.find? bad).map (fun i => s.fail st i.off)

/-- A failure when a condition holds. -/
def failIf (b : Bool) (f : Fail) : Option Fail := if b then some f else none

/-- What the checks look at: the state, the partition that loads, and the image with its pattern. -/
structure Loading where
  s : State
  p : Nat
  x : Partition
  img : Image
  pat : Pattern
  deriving DecidableEq, Repr

def Loading.header (l : Loading) : Header := l.img.header

/-- The first section that a check fails in, in directory order. -/
def Loading.sections (l : Loading) (f : Section → Option Fail) : Option Fail := l.img.sections.findSome? f

/-- The beats of table `t`. -/
def Loading.len (l : Loading) (t : Nat) : Nat := l.pat.lengths.getD t 1024

/-! ### Check 1: format (R171, R173, R174, R181, R298) -/

/-- The scope is one that the section type takes (R174). -/
def Header.takesScope (h : Header) (ty scope : Nat) : Bool :=
  if ty = 0x01 ∨ ty = 0x05 ∨ ty = 0x30 then scope == wholeScope
  else if ty = 0x20 then decide (0x8000 ≤ scope) && decide (scope < 0x8000 + h.stackCount)
  else if sectionTypes.contains ty then decide (scope < h.size)
  else true

/-- Two byte ranges share a byte. -/
def overlap (a n b m : Nat) : Bool := decide (a < b + m) && decide (b < a + n) && n != 0 && m != 0

/-- What is wrong with a directory entry (R173, R174). -/
def Header.entryBad (h : Header) (len : Nat) (dir : List DirEntry) (e : DirEntry) : Bool :=
  let before := dir.take e.index
  !h.takesScope e.ty e.scope || e.offset % 64 != 0 || decide (len < e.offset + e.length)
    || overlap e.offset e.length 0 128 || overlap e.offset e.length h.dirOffset (16 * h.sections)
    || before.any (fun b => overlap e.offset e.length b.offset b.length)
    || before.any (fun b => decide (e.ty < b.ty) || (e.ty == b.ty && decide (e.scope ≤ b.scope)))

/-- The sections that every image has (R174); section 0x30 is left to check 23 (R415). -/
def Header.required (h : Header) (dir : List DirEntry) : List (Nat × Nat) :=
  let dies (ty : Nat) := (List.range h.size).map (fun d => (ty, d))
  [(0x01, wholeScope)] ++ [0x02, 0x03, 0x04, 0x12, 0x13, 0x14].flatMap dies
    ++ (List.range h.stackCount).map (fun k => (0x20, rimScope k))
    ++ (if dir.any (fun e => e.ty == 0x22) then dies 0x22 else [])

/-- The header's ranges and the directory (R171, R173, R174, R181). -/
def checkFrame (bs : List Byte) (h : Header) (dir : List DirEntry) : Option Fail :=
  let bad (b : Bool) (off : Nat) : Option Fail := failIf b (headFail .imageFormat off)
  let has (k : Nat × Nat) : Bool := dir.any (fun e => e.ty == k.1 && e.scope == k.2)
  (bad (decide (bs.length < 128) || h.magic != 0x47505431) 0)
    <|> bad (h.major != 1) 4 <|> bad (decide (Config.imageMinor < h.minor)) 5
    <|> bad (h.strands == 0 || decide (256 < h.strands)) 44 <|> bad (decide (32 < h.reserve)) 47
    <|> bad (h.syncTimeout == 0 || decide (10000 < h.syncTimeout)) 56
    <|> bad (decide (h.dirOffset < 128) || decide (bs.length < h.entryAt h.sections)) 72
    <|> dir.findSome? (fun e => bad (h.entryBad bs.length dir e) (h.entryAt e.index))
    <|> bad ((h.required dir).any (fun k => !has k)) h.dirOffset

/-- A sync point of a die's sequencer lists. -/
def Item.isSync (i : Item) : Bool := i.kind == .seq && bits i.v 19 16 == 4

/-- Die `d` drives output `o` toward a die outside its partition. -/
def Loading.crosses (l : Loading) (d o : Nat) : Bool :=
  let (c, r) := l.x.position d
  match l.s.neighbour c r o with
  | some (c', r') => (l.x.dieAt c' r').isNone
  | none => false

/-- Port `port` of stack index `i` faces a die outside the partition. -/
def Loading.foreignPort (l : Loading) (i port : Nat) : Bool :=
  match l.s.facing (l.x.stackRims.getD i 0) port with
  | some (c, r, _) => (l.x.dieAt c r).isNone
  | none => false

/-- The pattern uses transit slots outside its partition (R174): a flit crosses its edge to another die, or a rim's port faces
one. An image of another shape is left to check 4. -/
def Loading.usesTransit (l : Loading) : Bool :=
  l.header.width == l.x.width && l.header.height == l.x.height &&
    (l.pat.dies.zipIdx.any (fun q => q.1.slots.any (fun t => t.any (fun r =>
        (List.range 4).any (fun o => slotSource r.word o != 0 && l.crosses q.2 o))))
      || l.pat.rims.zipIdx.any (fun q => q.1.edges.any (fun t => t.any (fun g => l.foreignPort q.2 g.port))))

/-- Every die with a sync point has its declarations, and a pattern that uses transit slots its leases (R174). -/
def Loading.checkUsedSections (l : Loading) : Option Fail :=
  failIf (l.img.sections.any (fun s => s.entry.ty == 0x03 && s.items.any Item.isSync
      && (l.img.section? 0x06 s.entry.scope).isNone)
    || ((l.img.section? 0x05 wholeScope).isNone && l.usesTransit)) (headFail .imageFormat l.header.dirOffset)

/-! ### Programs -/

/-- Initial contents of an SRAM, every byte listed (R180). -/
def DiePattern.loaded (q : DiePattern) (mem : Nat) : Mem :=
  q.contents.foldl (fun m c => if c.mem = mem then Mem.record m (64 * c.base) c.data else m) []

/-- A word that the image stores; none where a byte of it is not in the image. -/
def storedWord (m : Mem) (a n : Nat) : Option Nat :=
  let bs := (List.range n).map (fun i => Sparse.get? m (a + i))
  if bs.all Option.isSome then some (leNat (bs.map (fun b => b.getD 0))) else none

/-- The stored words that a program reaches, in order and loops unrolled: byte address and operation with the loop's advances;
the word that is wrong; and the first word reached that the image does not store, where the walk ends (log entry 47). -/
structure Walk (α : Type) where
  ops : List (Nat × α)
  bad : Option (Nat × Bad)
  beyond : Option Nat
  deriving DecidableEq, Repr

def Walk.after {α : Type} (w : Walk α) (ops : List (Nat × α)) : Walk α := { w with ops := ops ++ w.ops }

/-- The words of an M-tile's loop body; `true` when the program goes on after it. -/
def bodyM (m : Mem) : Nat → Nat → Walk MOp × Bool
  | 0, _ => (⟨[], none, none⟩, true)
  | n + 1, pc =>
    match storedWord m pc 16 with
    | none => (⟨[], none, some pc⟩, false)
    | some v =>
      match decodeM (BitVec.ofNat 128 v) with
      | .error b => (⟨[], some (pc, b), none⟩, false)
      | .ok (.loop ..) => (⟨[], some (pc, .illegal), none⟩, false)
      | .ok .finish => (⟨[(pc, .finish)], none, none⟩, false)
      | .ok op =>
        let (w, on) := bodyM m n (pc + 16)
        (w.after [(pc, op)], on)

/-- The words that an M-tile program reaches from byte address `pc` (R54, R59). -/
def walkM (m : Mem) : Nat → Nat → Walk MOp
  | 0, _ => ⟨[], none, none⟩
  | n + 1, pc =>
    match storedWord m pc 16 with
    | none => ⟨[], none, some pc⟩
    | some v =>
      match decodeM (BitVec.ofNat 128 v) with
      | .error b => ⟨[], some (pc, b), none⟩
      | .ok .finish => ⟨[(pc, .finish)], none, none⟩
      | .ok (.loop count body incA incB incAcc) =>
        let (w, on) := bodyM m body (pc + 16)
        let first := [(pc, MOp.loop count body incA incB incAcc)]
        if on then
          (walkM m n (pc + 16 * (body + 1))).after (first ++
            (List.range count).flatMap (fun t => w.ops.map (fun e => (e.1, e.2.advance t incA incB incAcc))))
        else w.after first
      | .ok op => (walkM m n (pc + 16)).after [(pc, op)]

/-- An `END` of a V-tile. -/
def VOp.ends : VOp → Bool
  | .word f => f.op == 0x3F
  | .loop .. => false

/-- The words of a V-tile's loop body. -/
def bodyV (m : Mem) : Nat → Nat → Walk VOp × Bool
  | 0, _ => (⟨[], none, none⟩, true)
  | n + 1, pc =>
    match storedWord m pc 8 with
    | none => (⟨[], none, some pc⟩, false)
    | some v =>
      match decodeV (BitVec.ofNat 64 v) with
      | .error b => (⟨[], some (pc, b), none⟩, false)
      | .ok (.loop ..) => (⟨[], some (pc, .illegal), none⟩, false)
      | .ok op =>
        if op.ends then (⟨[(pc, op)], none, none⟩, false)
        else
          let (w, on) := bodyV m n (pc + 8)
          (w.after [(pc, op)], on)

/-- A word in iteration `t` of a loop. -/
def VOp.advance (t rinc : Nat) (ainc : Int) : VOp → VOp
  | .word f => .word (f.advance t rinc ainc)
  | op => op

/-- The words that a V-tile program reaches (R88, R91). -/
def walkV (m : Mem) : Nat → Nat → Walk VOp
  | 0, _ => ⟨[], none, none⟩
  | n + 1, pc =>
    match storedWord m pc 8 with
    | none => ⟨[], none, some pc⟩
    | some v =>
      match decodeV (BitVec.ofNat 64 v) with
      | .error b => ⟨[], some (pc, b), none⟩
      | .ok (.loop body count rinc ainc) =>
        let (w, on) := bodyV m body (pc + 8)
        let first := [(pc, VOp.loop body count rinc ainc)]
        if on then
          (walkV m n (pc + 8 * (body + 1))).after (first ++
            (List.range count).flatMap (fun t => w.ops.map (fun e => (e.1, e.2.advance t rinc ainc))))
        else w.after first
      | .ok op => if op.ends then ⟨[(pc, op)], none, none⟩ else (walkV m n (pc + 8)).after [(pc, op)]

/-- Where a core may go from a word; a `JALR` goes where a register says (log entry 47). -/
def CFields.nexts (f : CFields) (pc : Nat) : List Nat :=
  let to_ := (BitVec.ofNat 64 pc + BitVec.ofInt 64 (4 * f.imm)).toNat
  if f.op = 0x3F ∨ f.op = 0x38 ∨ f.op = 0x27 then []
  else if f.op = 0x26 then [to_]
  else if 0x20 ≤ f.op ∧ f.op ≤ 0x25 then [to_, pc + 4]
  else [pc + 4]

/-- The stored words that a core reaches from the addresses `todo` (R107). -/
def walkC (m : Mem) : Nat → List Nat → Walk CFields → Walk CFields
  | 0, _, w => w
  | _, [], w => w
  | n + 1, pc :: todo, w =>
    if w.ops.any (fun e => e.1 == pc) then walkC m n todo w
    else match storedWord m pc 4 with
      | none => walkC m n todo { w with beyond := w.beyond.orElse (fun _ => some pc) }
      | some v =>
        match decodeC (BitVec.ofNat 32 v) with
        | .error b => { w with bad := some (pc, b) }
        | .ok f => walkC m n (f.nexts pc ++ todo) { w with ops := w.ops ++ [(pc, f)] }

/-- A start that the sequencer lists give: its table, action, unit and address, and where its entry stands. -/
structure Start where
  table : Nat
  act : Nat
  unit : Nat
  arg : Nat
  off : Nat
  deriving DecidableEq, Repr

/-- The starts of a die (R168). -/
def Section.starts (s : Section) : List Start :=
  (s.items.filter (fun i => i.kind == .seq && decide (bits i.v 19 16 ≤ 2))).map (fun i =>
    ⟨i.group, bits i.v 19 16, bits i.v 24 20, bits i.v 48 32, i.off⟩)

/-- The SRAM of the unit a start names. -/
def Start.mem (t : Start) : Nat := if t.act = 0 then t.unit else if t.act = 1 then 8 + t.unit else 21 + t.unit / 4

/-- A unit range that a word uses: SRAM, first unit and units. -/
abbrev Extent := Nat × Nat × Nat

/-- The units that an M-tile word of tile `t` names (R210). -/
def MOp.extents (t : Nat) : MOp → List Extent
  | .mma f =>
    match f.formats with
    | none => []
    | some (a, b) =>
      let g := f.geometry
      (List.range g.subs).flatMap (fun q =>
        [(t, f.aAddr.toNat + q * f.subStep, ceilDiv (f.bytesA a b) 64),
         (t, f.bAddr.toNat + q * f.subStep, ceilDiv (f.bytesB a b) 64)])
      ++ (if a.mx ∨ b.mx then
            [(t, f.sAddr, ceilDiv ((g.subs - 1) * scaleStride g a b + roundUnit (scaleBytesA g a b) + scaleBytesB g a b) 64)]
          else [])
  | .drn _ fp32 _ dst addr id =>
    match dst with
    | 0 => [(t, addr.toNat, drainUnits fp32)]
    | 1 => [(if id ≤ 11 then 8 + id else 20, addr.toNat, drainUnits fp32)]
    | _ => []
  | .acl _ fp32 addr => [(t, addr.toNat, drainUnits fp32)]
  | _ => []

/-- An access through an access-mode entry is one the entry allows (R123, R124, R128). -/
def VFields.modeOk (f : VFields) (m : AccessMode) : Bool :=
  if m.kind = 1 then f.op == 0x30 && decide (f.cnt ≤ 31) && inMemory f.imm 512 tileUnits
  else m.kind == 0 && decide (m.piece ≤ 4) && m.inRange f.imm (f.cnt + 1)

/-- The word goes through an access-mode entry (R123). -/
def VFields.moded (f : VFields) : Bool := (f.op == 0x30 || f.op == 0x31) && f.fn != 0

/-- The units that an access through an access-mode entry reaches. -/
def VFields.modeExtents (f : VFields) (v : Nat) (m : AccessMode) : List Extent :=
  if m.kind = 1 then [(8 + v, f.imm.toNat, 512)]
  else (List.range (16 * (f.cnt + 1))).map (fun i => (8 + v, (m.unitAt f.imm (i / 16) (i % 16)).toNat, 1))

/-- The units that a V-tile word of tile `v` names, but for those of access modes (R210). -/
def VOp.extents (v : Nat) : VOp → List Extent
  | .word f =>
    let n := 16 * (f.cnt + 1)
    if (f.op = 0x30 ∨ f.op = 0x31) ∧ f.fn = 0 then [(8 + v, f.imm.toNat, n)]
    else if f.op = 0x32 then [(8 + v, f.imm.toNat, 1)]
    else if f.op = 0x33 ∧ f.fn = 0 then [(8 + f.vd, f.imm.toNat, n)]
    else if f.op = 0x33 ∧ f.fn = 1 then [(20, f.imm.toNat, n)]
    else if f.op = 0x33 ∧ f.fn = 3 then [(f.vd, f.imm.toNat, n)]
    else []
  | .loop .. => []

/-- A program that a start gives, by its kind. -/
inductive Program where
  | m (w : Walk MOp)
  | v (w : Walk VOp)
  | c (w : Walk CFields)
  deriving DecidableEq, Repr

def Program.bad : Program → Option (Nat × Bad)
  | .m w => w.bad
  | .v w => w.bad
  | .c w => w.bad

def Program.beyond : Program → Option Nat
  | .m w => w.beyond
  | .v w => w.beyond
  | .c w => w.beyond

/-- The addresses of the words reached. -/
def Program.words : Program → List Nat
  | .m w => w.ops.map (·.1)
  | .v w => w.ops.map (·.1)
  | .c w => w.ops.map (·.1)

/-- The program of a start of die pattern `q`. -/
def DiePattern.program (q : DiePattern) (t : Start) : Program :=
  let m := q.loaded t.mem
  if t.act = 0 then .m (walkM m (4 * tileUnits) (64 * t.arg))
  else if t.act = 1 then .v (walkV m (8 * tileUnits) (64 * t.arg))
  else .c (walkC m (48 * ctileUnits) [64 * t.arg] ⟨[], none, none⟩)

/-- The programs of die `d` of an image, each with its start. -/
def Loading.programs (l : Loading) (d : Nat) : List (Start × Program) :=
  ((l.img.section? 0x03 d).map (fun s => s.starts.map (fun t => (t, (l.pat.die d).program t)))).getD []

/-- Byte offset in a section 0x10 of address `a` of SRAM `mem`: in the last record that holds it (R180). -/
def Section.offsetOf (s : Section) (mem a : Nat) : Nat :=
  match (s.items.filter (fun i => i.kind == .contents && bits i.v 4 0 == mem && decide (64 * bits i.v 48 32 ≤ a)
      && decide (a < 64 * bits i.v 48 32 + bits i.v 95 64))).getLast? with
  | some i => i.off + 16 + (a - 64 * bits i.v 48 32)
  | none => 0

/-- The first word that an M-tile program may not hold: an illegal field, a word that breaks a pair, or a `REUSE` without
its operand (R60, R62, R67). -/
def wrongM (ops : List (Nat × MOp)) : Option Nat :=
  (ops.foldl (fun (acc : Option Nat × Option HeldKey × Option MmaFields) e =>
    match acc with
    | (some b, c, f) => (some b, c, f)
    | (none, chain, first) =>
      let paired : Bool := match first, e.2 with
        | some a, .mma b => pairAgrees a b
        | some _, _ => false
        | none, _ => true
      match e.2 with
      | .mma f =>
        let ok := e.2.legal && paired && (!f.reuse || chain == some f.heldKey)
        (if ok then none else some e.1, some f.heldKey,
         if first.isNone ∧ !f.vector ∧ f.shape = 3 ∧ f.pair then some f else none)
      | _ => (if e.2.legal && paired then none else some e.1, chain, first)) (none, none, none)).1

/-- The first word that a V-tile program may not hold (R94, R123, R124, R128). -/
def wrongV (q : DiePattern) (v : Nat) (ops : List (Nat × VOp)) : Option Nat :=
  (ops.find? (fun e => !e.2.legal || (match e.2 with
    | .word f => f.moded && !f.modeOk (q.accessMode v f.fn)
    | .loop .. => false))).map (·.1)

/-- The word at which a program is illegal (R60, R94, R107). -/
def DiePattern.wrong (q : DiePattern) (t : Start) (g : Program) : Option Nat :=
  let bad := match g.bad with
    | some (a, .illegal) => some a
    | _ => none
  match g with
  | .m w => (wrongM w.ops).orElse (fun _ => bad)
  | .v w => (wrongV q t.unit w.ops).orElse (fun _ => bad)
  | .c _ => bad

/-! ### Check 2: reserved bits (R11) -/

def Loading.checkReserved (l : Loading) : Option Fail :=
  (headerReserved.findSome? (fun i => failIf (field l.img.bytes i 1 != 0) (headFail .reservedNonzero i)))
    <|> (l.header.directory l.img.bytes).findSome? (fun e =>
      failIf (strayBits e.raw dirFields) (headFail .reservedNonzero (l.header.entryAt e.index)))
    <|> l.sections (fun s =>
      (s.refuse .reservedNonzero Item.stray)
        <|> (if s.entry.ty = 0x10 then
              (l.programs s.entry.scope).findSome? (fun g => match g.2.bad with
                | some (a, .reserved) => some (s.fail .reservedNonzero (s.offsetOf g.1.mem a))
                | _ => none)
             else none))

/-! ### Check 3: features (R171, R187, R399, R400; log entry 44) -/

/-- The feature that an M-tile operand format needs. -/
def formatFeature (code : Nat) : Nat := if code = 0 then 0 else if code ≤ 2 then 1 else if code = 7 then 3 else 2

/-- The features that a program's words need, each with the word. -/
def Program.features : Program → List (Nat × Nat)
  | .m w => w.ops.flatMap (fun e => match e.2 with
      | .mma f => [(e.1, formatFeature f.fmtA), (e.1, formatFeature f.fmtB)]
      | _ => [])
  | .v w => w.ops.flatMap (fun e => match e.2 with
      | .word f => (if f.op = 0x19 ∨ f.op = 0x1A then [(e.1, formatFeature f.fn)] else [])
          ++ (if f.rnd = 2 then [(e.1, 4)] else [])
      | .loop .. => [])
  | .c _ => []

/-- The features that an item needs. -/
def Item.features (i : Item) : List Nat :=
  match i.kind with
  | .lease => [6]
  | .config => [7]
  | .descriptor =>
    let d := Descriptor.ofNat i.v
    if (d.kind = 3 ∨ d.kind = 6) ∧ (d.op = 0xA ∨ d.op = 0xB) then [8] else []
  | _ => []

def Loading.checkFeatures (l : Loading) : Option Fail :=
  let lacks (n : Nat) : Bool := !l.s.features.getLsbD n
  (failIf (l.header.features &&& l.s.features.toNat != l.header.features) (headFail .feature 8))
    <|> failIf (l.header.reserve != 0 && lacks 6) (headFail .feature 47)
    <|> l.sections (fun s =>
      (s.refuse .feature (fun i => i.features.any lacks))
        <|> (if s.entry.ty = 0x10 then
              (l.programs s.entry.scope).findSome? (fun g =>
                (g.2.features.find? (fun e => lacks e.2)).map (fun e => s.fail .feature (s.offsetOf g.1.mem e.1)))
             else none))

/-! ### Checks 4 to 6: shape, rim split, error modes -/

/-- Check 4 (R174, R187). -/
def Loading.checkShape (l : Loading) : Option Fail :=
  failIf (l.header.width != l.x.width || l.header.height != l.x.height) (headFail .partitionShape 40)

/-- Check 5 (R355). -/
def Loading.checkSplit (l : Loading) : Option Fail := failIf (l.header.split != l.x.split) (headFail .rimSplit 64)

/-- The partition answers errors of this image by sit-out (R139). -/
def Loading.sitsOut (l : Loading) : Bool := l.x.sitOutMode && decide (1 < l.header.strands)

/-- The persistent regions of a die. -/
def DiePattern.persistent (q : DiePattern) : List Region := q.regions.filter (fun r => r.kind == 1)

/-- A die before `d` at its position. -/
def Loading.corresponding (l : Loading) (d : Nat) : Option DiePattern :=
  (l.pat.dies.take d).find? (fun q => q.pos == (l.pat.die d).pos)

/-- Check 6 (R139, R144, R247). -/
def Loading.checkErrorMode (l : Loading) : Option Fail :=
  (failIf (!bit l.header.errModes (if l.sitsOut then 0 else 1)) (headFail .errorMode 46))
    <|> if l.sitsOut then
      l.sections (fun s =>
        let q := l.pat.die s.entry.scope
        let differs (f : DiePattern → DiePattern → Bool) : Bool := (l.corresponding s.entry.scope).any (f q)
        match s.entry.ty with
        | 0x13 => failIf (differs (fun a b => a.persistent != b.persistent)) (s.fail .errorMode 0)
        | 0x14 => failIf (differs (fun a b => a.queues != b.queues)) (s.fail .errorMode 0)
        | _ => none)
    else none

/-! ### Check 7: sizes (R165, R166, R175, R176, R297, R306, R314) -/

/-- The first count, in order, at which a running total passes `most`. -/
def Section.overrun (s : Section) (k : ItemKind) (size : Nat → Nat) (most : Nat) : Option Nat :=
  ((s.items.filter (fun i => i.kind == k)).foldl (fun (acc : Nat × Option Nat) i =>
    let n := acc.1 + size i.v
    (n, acc.2.orElse (fun _ => if most < n then some i.off else none))) (0, none)).2

/-- Two edge entries of one table name one port, direction and beat (R314). -/
def Section.edgeTwice (s : Section) (i : Item) : Bool :=
  i.kind == .edge && s.items.any (fun j => j.kind == .edge && j.group == i.group && decide (j.off < i.off)
    && (EdgeEntry.ofNat j.v).beat == (EdgeEntry.ofNat i.v).beat && (EdgeEntry.ofNat j.v).port == (EdgeEntry.ofNat i.v).port
    && (EdgeEntry.ofNat j.v).receive == (EdgeEntry.ofNat i.v).receive)

/-- An item follows one of its list with a higher `BEAT` (R168, R306; log entry 57). -/
def Section.unordered (s : Section) (i : Item) : Bool :=
  s.items.any (fun j => j.kind == i.kind && j.group == i.group && decide (j.off < i.off)
    && decide (bits i.v 15 0 < bits j.v 15 0))

def Loading.checkSizes (l : Loading) : Option Fail :=
  let h := l.header
  (failIf (h.tables == 0 || decide (64 < h.tables)) (headFail .patternSize 60))
    <|> failIf (h.seqLen == 0 || decide (4096 < h.seqLen)) (headFail .patternSize 62)
    <|> l.sections (fun s =>
      let total (k : ItemKind) (size : Nat → Nat) (most : Nat) : Option Fail :=
        (s.overrun k size most).map (fun o => s.fail .patternSize o)
      match s.entry.ty with
      | 0x01 => s.refuse .patternSize (fun i =>
          (i.kind == .round && decide (h.tables ≤ bits i.v 5 0)) || (i.kind == .length && decide (bits i.v 9 0 < 15)))
      | 0x02 => (total .count (fun v => bits v 31 0) 131072)
          <|> s.refuse .patternSize (fun i => i.kind == .slot &&
            (SlotRecord.ofNat i.v).beats.any (fun b => decide (l.len i.group ≤ b)))
      | 0x03 => (total .count (fun v => bits v 31 0) 32768)
          <|> s.refuse .patternSize (fun i =>
            i.kind == .seq && (decide (l.len i.group ≤ bits i.v 15 0) || s.unordered i))
      | 0x20 => (total .list (fun v => bits v 31 0) 65536)
          <|> s.refuse .patternSize (fun i =>
            (i.kind == .edge && (decide (l.len i.group ≤ bits i.v 15 0) || s.unordered i)) || s.edgeTwice i)
      | _ => none)

/-! ### Check 8: encodings (R11, R48, R60, R94, R107, R172, R523) -/

/-- Reserved codes and forbidden values of a slot record (R156, R176). -/
def SlotRecord.coded (r : SlotRecord) (len : Nat) : Bool :=
  (List.range 4).all (fun o => decide (slotSource r.word o ≤ 5)) && decide (slotSource r.word 4 ≤ 4)
    && decide (slotInjection r.word ≤ 19)
    && (if r.repm1 = 0 then r.stride == 0 else decide (1 ≤ r.stride) && decide (r.stride < len))

/-- Reserved codes and forbidden values of a sequencer entry (R168). -/
def SeqEntry.coded (e : SeqEntry) : Bool :=
  match e.act with
  | 0 => decide (e.unit ≤ 7) && decide (e.arg < tileUnits)
  | 1 => decide (e.unit ≤ 11) && decide (e.arg < tileUnits)
  | 2 => decide (e.unit ≤ 15) && decide (e.arg < ctileUnits)
  | 3 => e.unit == 0 && decide (e.arg ≤ 255)
  | 4 => e.unit == 0 && decide (e.arg ≤ 15)
  | _ => false

/-- Reserved codes of a credit entry (R130). -/
def Credit.coded (c : Credit) : Bool :=
  match c.srcKind with
  | 0 => c.srcId == 0
  | 1 => decide (c.srcId ≤ 7)
  | 2 => decide (c.srcId ≤ 11)
  | 3 => true
  | _ => false

/-- Reserved codes and fields that are zero otherwise, of a region (R209). -/
def Region.coded (r : Region) : Bool :=
  decide (r.mem ≤ 24) && decide (r.kind ≤ 2) && (r.kind == 2 || r.block == 0) && (r.kind == 1 || r.src == 0)

/-- Reserved codes of a rim edge entry (R306); the remote path never stands in a pattern's table (R475). -/
def EdgeEntry.coded (e : EdgeEntry) (span : Nat) : Bool :=
  decide (e.port < span) && decide (e.eng ≤ 7) && (e.receive || !e.hank)

/-- Ports of rim `k` (R19, R306). -/
def Part.ports (p : Part) (k : Nat) : Nat := if k / 4 % 2 = 0 then Part.span p else 4

/-- An item's assigned fields hold codes that their tables give (R11). -/
def Loading.coded (l : Loading) (s : Section) (i : Item) : Bool :=
  match i.kind with
  | .layer => decide (bits i.v 13 12 ≤ 2)
  | .slot => (SlotRecord.ofNat i.v).coded (l.len i.group)
  | .seq => (SeqEntry.ofNat i.v).coded
  | .landing => decide ((Landing.ofNat i.v).mem ≤ 20)
  | .contents => decide (bits i.v 4 0 ≤ 24)
  | .access => decide (bits i.v 1 0 ≤ 1) && decide (bits i.v 4 2 ≤ 4)
  | .credit => (Credit.ofNat i.v).coded
  | .region => (Region.ofNat i.v).coded
  | .queue => (bit i.v 0 || decide (bits i.v 4 1 ≤ 8)) && bits i.v 49 33 % 4 == 0
  | .edge => (EdgeEntry.ofNat i.v).coded (Part.ports l.s.part (l.x.stackRims.getD (s.entry.scope - 0x8000) 0))
  | .patch => decide (bits i.v 3 0 ≤ 11)
  | _ => true

def Loading.checkEncodings (l : Loading) : Option Fail :=
  ((l.header.directory l.img.bytes).findSome? (fun e =>
    failIf (!sectionTypes.contains e.ty) (headFail .illegalEncoding (l.header.entryAt e.index))))
    <|> l.sections (fun s =>
      (s.refuse .illegalEncoding (fun i => !l.coded s i))
        <|> (if s.entry.ty = 0x10 then
              (l.programs s.entry.scope).findSome? (fun g =>
                ((l.pat.die s.entry.scope).wrong g.1 g.2).map (fun a => s.fail .illegalEncoding (s.offsetOf g.1.mem a)))
             else none))

/-! ### Check 9: the layer map (R206) -/

/-- An entry may follow the one before it. -/
def LayerEntry.follows (a b : LayerEntry) (lastForward : Nat) : Bool :=
  let order :=
    if a.phase = 0 ∧ b.phase = 0 then b.block == a.block || b.block == a.block + 1
    else if a.phase = 0 then b.block == a.block && b.block == lastForward
    else if b.phase = 0 then false
    else if b.block = a.block then decide (a.phase ≤ b.phase)
    else a.block == b.block + 1 && a.phase == 2 && b.phase == 1
  let opens := a.block != b.block || (b.phase == 1 && a.phase != 1)
  order && (if opens then decide (a.layer < b.layer) else decide (a.layer ≤ b.layer))

/-- The first entry of a layer map that breaks R206. -/
def wrongLayer (m : List LayerEntry) : Option Nat :=
  let lastForward := ((m.takeWhile (fun e => e.phase == 0)).getLast?.map (·.block)).getD 0
  (List.range m.length).find? (fun i =>
    let b := m.getD i ⟨0, 0, 0⟩
    (if i = 0 then b.phase != 0 || b.block != 0
     else !(LayerEntry.follows (m.getD (i - 1) ⟨0, 0, 0⟩) b lastForward))
    || (i + 1 == m.length && (b.phase != 2 || b.block != 0)))

def Loading.checkLayers (l : Loading) : Option Fail :=
  match wrongLayer l.pat.layers with
  | none => none
  | some i => (l.img.section? 0x01 wholeScope).map (fun s => s.fail .phaseOrder (4 * (l.header.seqLen + i)))

/-! ### Check 10: regions and restore sources (R140, R180, R210) -/

/-- The last entry in which a program started in entry `e` can run (R208, R210). -/
def Pattern.runEnd (q : Pattern) (e : Nat) : Nat :=
  let same (k : Nat) : Bool := (q.layerOf k).block == (q.layerOf e).block && (q.layerOf k).phase == (q.layerOf e).phase
  e + ((List.range (q.rounds.length - e)).takeWhile (fun k => same (e + k))).length - 1

/-- The entries of the round sequence that run table `t`. -/
def Pattern.entriesOf (q : Pattern) (t : Nat) : List Nat := (List.range q.rounds.length).filter (fun e => q.table e == t)

/-- The spans of entries in which a start's program can run. -/
def Pattern.runs (q : Pattern) (t : Start) : List (Nat × Nat) := (q.entriesOf t.table).map (fun e => (e, q.runEnd e))

/-- A region contains units `u` to `u + n - 1` of an SRAM and is live in the entries from `a` to `b`. -/
def Region.holds (r : Region) (mem u n a b : Nat) : Bool :=
  r.mem == mem && decide (r.base ≤ u) && decide (u + n ≤ r.limit + 1) && decide (r.first ≤ a) && decide (b ≤ r.last)

/-- Every unit of an extent lies in a region live in every entry of all the spans. -/
def DiePattern.budgeted (q : DiePattern) (e : Extent) (runs : List (Nat × Nat)) : Bool :=
  runs.isEmpty || (List.range e.2.2).all (fun i => q.regions.any (fun r =>
    runs.all (fun run => r.holds e.1 (e.2.1 + i) 1 run.1 run.2)))

/-- The spans of entries in which the program of a start of die `d` can run: those of every start that the sequencer lists give it
(log entry 113). -/
def Loading.runsOf (l : Loading) (d : Nat) (t : Start) : List (Nat × Nat) :=
  ((((l.img.section? 0x03 d).map Section.starts).getD []).filter (fun o => o.act == t.act && o.unit == t.unit && o.arg == t.arg)).flatMap
    l.pat.runs

/-- One region holds a window in every one of the entries. -/
def DiePattern.windowed (q : DiePattern) (mem base limit : Nat) (entries : List Nat) : Bool :=
  entries.isEmpty || q.regions.any (fun r => entries.all (fun e => r.holds mem base (limit + 1 - base) e e))

/-- The stored words of a program with the units that each names, access modes apart. -/
def Program.uses (t : Start) : Program → List (Nat × List Extent)
  | .m w => w.ops.map (fun e => (e.1, (t.mem, e.1 / 64, 1) :: e.2.extents t.unit))
  | .v w => w.ops.map (fun e => (e.1, (t.mem, e.1 / 64, 1) :: e.2.extents t.unit))
  | .c w => w.ops.map (fun e => (e.1, [(t.mem, e.1 / 64, 1)]))

/-- The access-mode entries that a program names, with the units that each access reaches. -/
def DiePattern.modeUses (q : DiePattern) (t : Start) : Program → List (Nat × List Extent)
  | .v w => w.ops.filterMap (fun e => match e.2 with
      | .word f =>
        if f.moded then
          some (15 * t.unit + (f.fn - 1), f.modeExtents t.unit (q.accessMode t.unit f.fn))
        else none
      | .loop .. => none)
  | _ => []

/-- The entries in which a delivery through landing pointer `p` of die `d` is scheduled. -/
def Pattern.deliveryEntries (q : Pattern) (d p : Nat) : List Nat :=
  (List.range q.rounds.length).filter (fun e =>
    ((q.die d).slots.getD (q.table e) []).any (fun r => slotSource r.word 4 != 0 && slotLanding r.word == p))

/-- Deliveries through landing pointer `p` of die `d` in a round of table `t`. -/
def Pattern.deliveriesIn (q : Pattern) (d p t : Nat) : Nat :=
  ((((q.die d).slots.getD t []).filter (fun r => slotSource r.word 4 != 0 && slotLanding r.word == p)).map
    (fun r => r.beats.length)).foldl (· + ·) 0

/-- The entries in which a delivery is scheduled into the window of a scheduled fabric entry of die `d`: of the units that the
round's deliveries through a pointer take, from its base (R160), one lies in the window (R210). -/
def Pattern.windowEntries (q : Pattern) (d mem : Nat) (c : Credit) : List Nat :=
  (List.range 32).flatMap (fun p =>
    let g := q.landing d p
    if g.valid ∧ g.mem = mem then
      (q.deliveryEntries d p).filter (fun e =>
        let units := min (16 * q.deliveriesIn d p (q.table e)) (g.limit + 1 - g.base)
        overlap g.base units c.base (c.limit + 1 - c.base))
    else [])

/-- The entries in which a write under a counted entry can occur (R210). -/
def Loading.countedEntries (l : Loading) (d : Nat) (c : Credit) : List Nat :=
  let starts := ((l.img.section? 0x03 d).map Section.starts).getD []
  let mine := starts.filter (fun t => t.act + 1 == c.srcKind && t.unit == c.srcId)
  if c.srcKind = 3 then
    match (mine.flatMap (fun t => l.pat.entriesOf t.table)).min? with
    | some e => (List.range l.pat.rounds.length).filter (fun k => decide (e ≤ k))
    | none => []
  else (mine.flatMap l.pat.runs).flatMap (fun r => (List.range (r.2 + 1)).filter (fun k => decide (r.1 ≤ k)))

/-- The entries of a block and phase. -/
def Pattern.blockEntries (q : Pattern) (block phase : Nat) : List Nat :=
  (List.range q.rounds.length).filter (fun e => (q.layerOf e).block == block && (q.layerOf e).phase == phase)

/-- A marker region is live from its block's input to its use (R210). -/
def Pattern.markerLive (q : Pattern) (r : Region) : Bool :=
  let first := (q.blockEntries (r.block - 1) 0).head?
  let last := ((q.blockEntries r.block 1).getLast?).orElse (fun _ => (q.blockEntries r.block 2).getLast?)
  match first, last with
  | some a, some b => decide (r.first ≤ a) && decide (b ≤ r.last)
  | _, _ => false

/-- A region declaration breaks R140 or R210; `before` are the die's regions declared before it. -/
def Pattern.regionWrong (q : Pattern) (before : List Region) (r : Region) : Bool :=
  decide (r.limit < r.base) || decide (memUnits r.mem ≤ r.limit)
    || before.any (fun o => o.mem == r.mem && decide (o.base ≤ r.limit) && decide (r.base ≤ o.limit)
        && decide (o.first ≤ r.last) && decide (r.first ≤ o.last))
    || (r.kind == 1 && (r.src == 0 || r.first != 0 || r.last + 1 != q.rounds.length))
    || (r.kind == 2 && !q.markerLive r)

def Loading.checkRegions (l : Loading) : Option Fail :=
  l.sections (fun s =>
    let d := s.entry.scope
    let q := l.pat.die d
    let st := Status.sramBudget
    match s.entry.ty with
    | 0x03 => (l.programs d).findSome? (fun g =>
        let runs := l.runsOf d g.1
        failIf (!q.budgeted (g.1.mem, g.1.arg, 1) runs || g.2.beyond.any (fun a => !q.budgeted (g.1.mem, a / 64, 1) runs))
          (s.fail st g.1.off))
    | 0x04 => s.refuse st (fun i =>
        let g := Landing.ofNat i.v
        g.valid && !q.windowed g.mem g.base g.limit (l.pat.deliveryEntries d (i.off / 16)))
    | 0x10 =>
      (s.refuse st (fun i => i.kind == .contents &&
        (let u := bits i.v 48 32
         let n := bits i.v 95 64 / 64
         decide (memUnits (bits i.v 4 0) < u + n) || !q.budgeted (bits i.v 4 0, u, n) [(0, 0)])))
      <|> (l.programs d).findSome? (fun g => (g.2.uses g.1).findSome? (fun w =>
        failIf (w.2.any (fun e => !q.budgeted e (l.runsOf d g.1))) (s.fail st (s.offsetOf g.1.mem w.1))))
    | 0x11 => (l.programs d).findSome? (fun g => (q.modeUses g.1 g.2).findSome? (fun w =>
        failIf (w.2.any (fun e => !q.budgeted e (l.runsOf d g.1))) (s.fail st (16 * w.1))))
    | 0x12 => s.refuse st (fun i =>
        let c := Credit.ofNat i.v
        let mem := i.off / 1024
        c.valid && !q.windowed mem c.base c.limit
          (if c.sched then (if c.srcKind = 0 then l.pat.windowEntries d mem c else []) else l.countedEntries d c))
    | 0x13 => s.refuse st (fun i => l.pat.regionWrong (q.regions.take (i.off / 32)) (Region.ofNat i.v))
    | _ => none)

/-! ### Check 11: stack use within the span (R140, R358) -/

/-- Stack units from `u` for `n` lie within the span of one of the partition's stacks. -/
def Partition.inSpan (x : Partition) (u n : Nat) : Bool :=
  decide (u / stackUnits < x.stackRims.length) && decide (u % stackUnits + n ≤ x.spanUnits)

/-- First unit and units of a persistent region's restore source (R209). -/
def Region.source (r : Region) : Nat × Nat :=
  (r.src / 64, (r.src + 64 * (r.limit + 1 - r.base) + 63) / 64 - r.src / 64)

/-- First unit and units of the frame pool and of the list area within each stack (R332, R334). -/
def SeqConfig.areas (g : SeqConfig) (nStacks : Nat) : List (Nat × Nat) :=
  [(g.poolBase, g.poolFrames * g.pages * 1024), (g.listBase, (g.slots + 1) * g.listUnits nStacks)]

def Loading.checkSpan (l : Loading) : Option Fail :=
  let n := l.x.stackRims.length
  l.sections (fun s => s.refuse .stackRegion (fun i =>
    match i.kind with
    | .region => let r := Region.ofNat i.v; r.kind == 1 && !l.x.inSpan r.source.1 r.source.2
    | .descriptor => let d := Descriptor.ofNat i.v
                     !l.x.inSpan d.fenceLo 1 || !l.x.inSpan d.fenceLo (d.fenceHi + 1 - d.fenceLo)
    | .config => ((SeqConfig.ofNat i.v).areas n).any (fun a => !l.x.inSpan a.1 a.2)
    | _ => false))

/-! ### Check 12: the sequence table (R316, R318, R329, R330, R336, R347) -/

/-- Bytes of a page's layout (R336). -/
def SeqConfig.pageBytes (g : SeqConfig) : Nat := (if g.mxint8 then 264 else 256) * g.heads * g.tokens

/-- Work-list positions of a step (R328). -/
def SeqConfig.positions (g : SeqConfig) : Nat := g.cap.foldl (· + ·) 0

/-- A die-buffer range lies in one transient region (R329). -/
def DiePattern.transient (q : DiePattern) (base bytes : Nat) : Bool :=
  let n := ceilDiv bytes 64
  decide (base + n ≤ bufferUnits) && q.regions.any (fun r =>
    r.kind == 0 && r.mem == 20 && decide (r.base ≤ base) && decide (base + n ≤ r.limit + 1))

/-- The declared stack uses of an image but for pools and lists: restore sources and the fences of descriptors that
move data (log entry 49). -/
def Pattern.stackUses (q : Pattern) : List (Nat × Nat) :=
  q.dies.flatMap (fun d => d.persistent.map Region.source)
    ++ q.rims.flatMap (fun r => r.lists.flatMap (fun e =>
      (e.descs.filter (fun d => d.kind != 0 && d.kind != 7)).map (fun d => (d.fenceLo, d.fenceHi + 1 - d.fenceLo))))

/-- Pool and list areas are disjoint from each other and from every other declared stack use (R347). -/
def Loading.areasDisjoint (l : Loading) (g : SeqConfig) : Bool :=
  let n := l.x.stackRims.length
  match g.areas n with
  | [a, b] => !overlap a.1 a.2 b.1 b.2 &&
      (List.range n).all (fun k => [a, b].all (fun e =>
        l.pat.stackUses.all (fun u => !overlap (k * stackUnits + e.1) e.2 u.1 u.2)))
  | _ => true

/-- Slots of all loaded patterns (R347). -/
def State.loadedSlots (s : State) : Nat :=
  (s.partitions.flatMap (fun e => e.2.patterns.filterMap (fun q => (q.die 0).seqCfg.map (·.slots)))).foldl (· + ·) 0

/-- A configuration entry of die `d` breaks a limit. -/
def Loading.configWrong (l : Loading) (d : Nat) (g : SeqConfig) : Bool :=
  let q := l.pat.die d
  (l.pat.die 0).seqCfg != some g || decide (g.lenLog2 < 10) || decide (21 < g.lenLog2)
    || g.cap.any (fun c => decide (16384 < c)) || decide (65536 < g.pageBytes) || decide (g.poolFrames < 2)
    || !q.transient g.wlBase (64 + 32 * g.positions) || !q.transient g.repBase (8 * g.positions)
    || !l.areasDisjoint g || decide (16384 < l.s.loadedSlots + g.slots)

/-- A patch entry names an `MMV` word in a `WRIT` region (R330). -/
def DiePattern.patchOk (q : DiePattern) (e : Patch) : Bool :=
  q.regions.any (fun r => r.writ && r.mem == e.mtile && decide (r.base ≤ e.word / 4) && decide (e.word / 4 ≤ r.limit))
    && (storedWord (q.loaded e.mtile) (16 * e.word) 16).any (fun v => bits v 7 0 == 2)

def Loading.checkSequences (l : Loading) : Option Fail :=
  if l.img.sections.any (fun s => s.entry.ty == 0x22) then
    l.sections (fun s => s.refuse .seqTable (fun i =>
      match i.kind with
      | .seq => bits i.v 19 16 == 2 && decide (12 ≤ bits i.v 24 20)
      | .credit => let c := Credit.ofNat i.v; c.srcKind == 3 && decide (12 ≤ c.srcId)
      | .region => bits i.v 4 0 == 24
      | .config => l.configWrong s.entry.scope (SeqConfig.ofNat i.v)
      | .patch => !(l.pat.die s.entry.scope).patchOk (Patch.ofNat i.v)
      | _ => false))
  else none

/-! ### Check 13: slot entries and arrivals (R157, R158, R306; log entry 45) -/

/-- The combinations of R157. -/
def slotCombines (word : Nat) : Bool :=
  let adds := (List.range 5).filter (slotAdds word)
  adds.all (fun o => slotSource word o != 0 && slotSource word o != 5) && decide (adds.length ≤ 1)
    && (adds.isEmpty || (List.range 4).all (fun o => slotSource word o != 5))

/-- Where a flit ends: an input of a die, a rim's edge port, or nowhere that a router names. -/
inductive Dest where
  | die (d side : Nat)
  | rim (k port : Nat)
  | nowhere
  deriving DecidableEq, Repr

/-- Where a flit that enters the router at (c, r) ends, and how many beats after it was sent (R149, R178, R184). -/
def State.routes (s : State) (x : Partition) (leases : List Lease) : Nat → Nat → Nat → Nat → Nat → Nat → List (Dest × Nat)
  | 0, _, _, _, _, delay => [(.nowhere, delay)]
  | n + 1, c, r, side, residue, delay =>
    match x.dieAt c r with
    | some d => [(.die d side, delay)]
    | none =>
      match leases.filter (fun l => l.col == c && l.row == r && decide (l.link ≤ 3) && l.residue == residue % 64) with
      | [] => [(.nowhere, delay)]
      | ls => ls.flatMap (fun l =>
          match s.neighbour c r l.link with
          | some (c', r') => s.routes x leases n c' r' (opposite l.link) (residue + 2) (delay + 2)
          | none =>
            match s.edgeOf c r l.link with
            | some (k, port) => [(.rim k port, delay + 2)]
            | none => [(.nowhere, delay)])

/-- Where what output `o` of die `d` carries in beat `b` ends. -/
def Loading.sentBy (l : Loading) (d o b : Nat) : List (Dest × Nat) :=
  let (c, r) := l.x.position d
  match l.s.neighbour c r o with
  | some (c', r') => l.s.routes l.x l.pat.leases pathFuel c' r' (opposite o) (b + 2) 2
  | none =>
    match l.s.edgeOf c r o with
    | some (k, port) => [(.rim k port, 2)]
    | none => [(.nowhere, 2)]

/-- The link from the rim edge router into the die at (c, r) is one that the pattern may use in beat `b`: the partition's own, or a
leased one (R178, R184, R353). -/
def Loading.mayEnter (l : Loading) (c r side b : Nat) : Bool :=
  (l.x.dieAt c r).isSome || l.pat.leases.contains ⟨c, r, 4 + side, b % 64⟩

/-- Where a pull at port `port` of rim `k` in beat `b` ends. -/
def Loading.pulledBy (l : Loading) (k port b : Nat) : List (Dest × Nat) :=
  match l.s.facing k port with
  | some (c, r, side) =>
    if l.mayEnter c r side b then l.s.routes l.x l.pat.leases pathFuel c r side (b + 2) 2 else [(.nowhere, 2)]
  | none => [(.nowhere, 2)]

/-- A flit sent: its table, its beat, where it ends and how many beats later. -/
structure Sent where
  table : Nat
  beat : Nat
  dest : Dest
  delay : Nat
  deriving DecidableEq, Repr

/-- The flits of a slot record of die `d` in table `t`. -/
def Loading.slotSent (l : Loading) (d t : Nat) (r : SlotRecord) : List Sent :=
  r.beats.flatMap (fun b => ((List.range 4).filter (fun o => slotSource r.word o != 0)).flatMap (fun o =>
    (l.sentBy d o b).map (fun e => ⟨t, b, e.1, e.2⟩)))

/-- The flits of an edge entry of stack index `i` in table `t`. -/
def Loading.edgeSent (l : Loading) (i t : Nat) (g : EdgeEntry) : List Sent :=
  if g.receive then []
  else (l.pulledBy (l.x.stackRims.getD i 0) g.port g.beat).map (fun e => ⟨t, g.beat, e.1, e.2⟩)

/-- Every flit of the pattern. -/
def Loading.sent (l : Loading) : List Sent :=
  l.pat.dies.zipIdx.flatMap (fun q => q.1.slots.zipIdx.flatMap (fun t => t.1.flatMap (l.slotSent q.2 t.2)))
    ++ l.pat.rims.zipIdx.flatMap (fun q => q.1.edges.zipIdx.flatMap (fun t => t.1.flatMap (l.edgeSent q.2 t.2)))

/-- The pairs of tables whose rounds follow one another, a step's last round and the next step's first included (R158). -/
def Pattern.adjacent (q : Pattern) : List (Nat × Nat) :=
  (q.rounds.zipIdx.flatMap (fun e =>
    (if 1 < e.1.2 then [(e.1.1, e.1.1)] else []) ++ [(e.1.1, q.table ((e.2 + 1) % q.rounds.length))])).dedup

/-- Flits that reach `dest` in beat `b` of a round of table `t` that follows one of table `u`. -/
def Loading.arrivals (l : Loading) (sent : List Sent) (u t : Nat) (dest : Dest) (b : Nat) : Nat :=
  (sent.filter (fun f => f.dest == dest &&
    ((f.table == t && f.beat + f.delay == b) || (f.table == u && f.beat + f.delay == l.len u + b)))).length

/-- Exactly one flit reaches `dest` in beat `b` of table `t`, whatever round comes before it. -/
def Loading.arrives (l : Loading) (sent : List Sent) (t : Nat) (dest : Dest) (b : Nat) : Bool :=
  (l.pat.adjacent.filter (fun e => e.2 == t)).all (fun e => l.arrivals sent e.1 t dest b == 1)

/-- An output or edge entry of table `t` takes what reaches `dest` in beat `b`. -/
def Loading.takes (l : Loading) (t : Nat) (dest : Dest) (b : Nat) : Bool :=
  match dest with
  | .die d side => (List.range 5).any (fun o => slotSource (l.pat.slot d t b) o == side + 1)
  | .rim k port =>
    match l.x.stackIndex k with
    | some i => ((l.pat.rim i).edges.getD t []).any (fun g => g.receive && g.port == port && g.beat == b)
    | none => false
  | .nowhere => false

/-- A flit is taken where it ends, in its own round or in the one that follows. -/
def Loading.taken (l : Loading) (f : Sent) : Bool :=
  let at_ := f.beat + f.delay
  if at_ < l.len f.table then l.takes f.table f.dest at_
  else (l.pat.adjacent.filter (fun e => e.1 == f.table)).all (fun e => l.takes e.2 f.dest (at_ - l.len f.table))

/-- What is wrong with a slot record of die `d` in table `t`; `before` are the table's records before it. -/
def Loading.slotWrong (l : Loading) (sent : List Sent) (d t : Nat) (before : List SlotRecord) (r : SlotRecord) : Bool :=
  !slotCombines r.word || before.any (fun o => r.beats.any o.covers)
    || (List.range 5).any (fun o => decide (1 ≤ slotSource r.word o) && decide (slotSource r.word o ≤ 4) &&
        r.beats.any (fun b => !l.arrives sent t (.die d (slotSource r.word o - 1)) b))
    || (l.slotSent d t r).any (fun f => !l.taken f)

def Loading.checkSlots (l : Loading) : Option Fail :=
  let sent := l.sent
  l.sections (fun s => s.refuse .slotConflict (fun i =>
    match i.kind with
    | .slot =>
      let before := (s.items.filter (fun j => j.kind == .slot && j.group == i.group && decide (j.off < i.off))).map
        (fun j => SlotRecord.ofNat j.v)
      l.slotWrong sent s.entry.scope i.group before (SlotRecord.ofNat i.v)
    | .edge =>
      let g := EdgeEntry.ofNat i.v
      let k := s.entry.scope - 0x8000
      if g.receive then !l.arrives sent i.group (.rim (l.x.stackRims.getD k 0) g.port) g.beat
      else (l.edgeSent k i.group g).any (fun f => !l.taken f)
    | _ => false))

/-! ### Check 14: credit and landing windows (R133, R160) -/

/-- The entry of a die pattern's credit table that governs a fabric delivery at unit `u` (R131). -/
def DiePattern.fabricGoverns (q : DiePattern) (mem u : Nat) : Option Credit :=
  ((q.credits.drop (64 * mem)).take 64).find? (fun c =>
    c.valid && c.srcKind == 0 && decide (c.base ≤ u) && decide (u + 16 ≤ c.limit + 1))

/-- A landing window is whole flits, inside one scheduled fabric entry, and no delivery falls under a counted one. -/
def DiePattern.landingOk (q : DiePattern) (g : Landing) : Bool :=
  let n := g.limit + 1 - g.base
  decide (g.base ≤ g.limit) && n % 16 == 0
    && ((q.credits.drop (64 * g.mem)).take 64).any (fun c =>
        c.valid && c.sched && c.srcKind == 0 && decide (c.base ≤ g.base) && decide (g.limit ≤ c.limit))
    && (List.range (n / 16)).all (fun i => (q.fabricGoverns g.mem (g.base + 16 * i)).any (·.sched))

def Loading.checkCredit (l : Loading) : Option Fail :=
  l.sections (fun s =>
    let q := l.pat.die s.entry.scope
    s.refuse .creditWindow (fun i =>
      match i.kind with
      | .slot =>
        let w := (SlotRecord.ofNat i.v).word
        slotSource w 4 != 0 && !(l.pat.landing s.entry.scope (slotLanding w)).valid
      | .landing => let g := Landing.ofNat i.v; g.valid && !q.landingOk g
      | _ => false))

/-! ### Check 15: sync points (R170, R179) -/

def Loading.checkSync (l : Loading) : Option Fail :=
  l.sections (fun s => s.refuse .syncLead (fun i =>
    match i.kind with
    | .seq => i.isSync && !(l.pat.die s.entry.scope).syncs.any (fun e => e.table == i.group && e.beat == bits i.v 15 0)
    | .sync => decide (bits i.v 37 22 < 24)
    | _ => false))

/-! ### Check 16: splice paths and injection spacing (R142, R220, R250) -/

/-- The rounds of a step: table, and first beat in the step. -/
def Pattern.schedule (q : Pattern) : List (Nat × Nat) :=
  ((q.rounds.flatMap (fun e => List.replicate e.2 e.1)).foldl (fun (acc : List (Nat × Nat) × Nat) t =>
    (acc.1 ++ [(t, acc.2)], acc.2 + q.lengths.getD t 1024)) ([], 0)).1

/-- Beats of a step. -/
def Pattern.stepBeats (q : Pattern) : Nat := (q.rounds.map (fun e => e.2 * q.lengths.getD e.1 1024)).foldl (· + ·) 0

/-- The slot entry of die `d` in beat `b` of the step, steps following one another. -/
def Pattern.slotAt (q : Pattern) (d b : Nat) : Nat :=
  let b := b % q.stepBeats
  match (q.schedule.filter (fun e => decide (e.2 ≤ b))).getLast? with
  | some (t, start) => q.slot d t (b - start)
  | none => 0

/-- The beats of the step, ascending, in which a slot entry of die `d` is one that `f` holds of. -/
def Pattern.slotBeats (q : Pattern) (d : Nat) (f : Nat → Bool) : List Nat :=
  q.schedule.flatMap (fun e =>
    ((((q.die d).slots.getD e.1 []).filter (fun r => f r.word)).flatMap (fun r => r.beats.map (fun b => e.2 + b))).insertionSort
      (· ≤ ·))

/-- The number, within the step, of the injection that queue `i` of die `d` makes in beat `b`. -/
def Pattern.injectionNo (q : Pattern) (d i b : Nat) : Nat :=
  ((q.slotBeats d (fun w => slotInjects w && slotInjection w == i)).filter (fun c => decide (c < b % q.stepBeats))).length

/-- A slice of the step as a splice queue injects it: die, queue and slice number. -/
abbrev SliceOf := Nat × Nat × Nat

/-- The slice of the step that queue `i` of die `d` injects a flit of in beat `b`. -/
def Pattern.sliceOf (q : Pattern) (p2 d i b : Nat) : SliceOf := (d, i, q.injectionNo d i b / (64 + p2))

/-- The deliveries through landing pointer `p` of die `d` before beat `b` of the step. -/
def Pattern.deliveryNo (q : Pattern) (d p b : Nat) : Nat :=
  ((q.slotBeats d (fun w => slotSource w 4 != 0 && slotLanding w == p)).filter (fun c => decide (c < b % q.stepBeats))).length

/-- An addition on a path: its die and beat of the step, the landing pointer and the slice that lands there where it is the
terminus's, which flit of its slice it carries (0 to 63 of the first pass, then those of the second), and the slices that have
contributed to it. -/
structure Added where
  die : Nat
  beat : Nat
  land : Option (Nat × Nat)
  flit : Nat
  who : List SliceOf
  deriving DecidableEq, Repr

/-- Two of a slice's chains end apart: at different termini, or in different slices of one (R223, R250). -/
def Added.apart (a b : Added) : Bool :=
  a.land.isSome && b.land.isSome && a.who.any (fun w => b.who.contains w) && !(a.die == b.die && a.land == b.land)

/-- Follow a path's flit from input `side` of die `d` in beat `b`: its additions, or none where it breaks R223 or R250. -/
def Loading.follow (l : Loading) (p2 flit : Nat) : Nat → List Nat → List SliceOf → Nat → Nat → Nat → Option (List Added)
  | 0, _, _, _, _, _ => none
  | n + 1, strands, who, d, side, b =>
    let q := l.pat
    let w := q.slotAt d b
    let strand := (q.die d).strand
    let onward (strands : List Nat) (who : List SliceOf) (o : Nat) : Option (List Added) :=
      (l.sentBy d o b).foldl (fun acc e => match acc, e with
        | some as, (.die d' side', delay) => (l.follow p2 flit n strands who d' side' (b + delay)).map (fun bs => as ++ bs)
        | _, _ => none) (some [])
    ((List.range 5).filter (fun o => slotSource w o == side + 1)).foldl (fun acc o =>
      match acc with
      | none => none
      | some as =>
        if slotAdds w o then
          let i := slotInjection w
          let sq := q.spliceQueue d i
          if ¬ sq.splice ∨ strands.contains strand ∨ sq.p2 ≠ p2 ∨ q.injectionNo d i b % (64 + p2) ≠ flit then none
          else
            let who := who ++ [q.sliceOf p2 d i b]
            if o = 4 then
              match q.terminusOf d (slotLanding w) with
              | some (_, t) =>
                let land := slotLanding w
                if t.p2 = p2 then
                  some (as ++ [⟨d, b % q.stepBeats, some (land, q.deliveryNo d land b / (64 + p2)), flit, who⟩])
                else none
              | none => none
            else (onward (strands ++ [strand]) who o).map (fun bs => as ++ [⟨d, b % q.stepBeats, none, flit, who⟩] ++ bs)
        else if o = 4 then none
        else (onward strands who o).map (fun bs => as ++ bs)) (some [])

/-- The paths that the head injection of a slot record starts in beat `b` of the step, and their additions. -/
def Loading.heads (l : Loading) (d b : Nat) : Option (List Added) :=
  let q := l.pat
  let w := q.slotAt d b
  let i := slotInjection w
  let sq := q.spliceQueue d i
  if ¬ sq.splice ∨ (List.range 5).any (slotAdds w) then some []
  else
    ((List.range 4).filter (fun o => slotSource w o == 5)).foldl (fun acc o =>
      (l.sentBy d o b).foldl (fun acc e => match acc, e with
        | some as, (.die d' side', delay) =>
          (l.follow sq.p2 (q.injectionNo d i b % (64 + sq.p2)) 1024 [(q.die d).strand] [q.sliceOf sq.p2 d i b] d' side'
            (b + delay)).map (fun bs => as ++ bs)
        | _, _ => none) acc) (some [])

/-- The beats of the step in which a slot record of table `t` applies. -/
def Pattern.recordBeats (q : Pattern) (t : Nat) (r : SlotRecord) : List Nat :=
  (q.schedule.filter (fun e => e.1 == t)).flatMap (fun e => r.beats.map (fun b => e.2 + b))

/-- Every addition on every path that starts well. -/
def Loading.additions (l : Loading) : List Added :=
  l.pat.dies.zipIdx.flatMap (fun q => (l.pat.slotBeats q.2 slotInjects).flatMap (fun b => (l.heads q.2 b).getD []))

/-- The round of the step that holds a beat. -/
def Pattern.roundNo (q : Pattern) (b : Nat) : Nat := (q.schedule.filter (fun e => decide (e.2 ≤ b))).length

/-- The deliveries through a terminus's pointer are whole slices in flit order, each first pass within one round (R250). -/
def Loading.terminusOrder (l : Loading) (adds : List Added) (d : Nat) (t : Terminus) : Bool :=
  let q := l.pat
  let bs := q.slotBeats d (fun w => slotSource w 4 != 0 && slotLanding w == t.land)
  bs.length % (64 + t.p2) == 0 &&
    (List.range bs.length).all (fun j =>
      let b := bs.getD j 0
      let k := j % (64 + t.p2)
      adds.any (fun a => a.die == d && a.beat == b && a.land.any (fun e => e.1 == t.land) && a.flit == k)
        && (k == 0 || decide (64 ≤ k) || q.roundNo b == q.roundNo (bs.getD (j - 1) 0)))

/-- Strand entries give every strand every position once (R220). -/
def Loading.strandWrong (l : Loading) (d : Nat) : Bool :=
  let h := l.header
  let q := l.pat.die d
  h.size % h.strands != 0 || decide (h.strands ≤ q.strand) || decide (h.size / h.strands ≤ q.pos)
    || (l.pat.dies.take d).any (fun o => o.strand == q.strand && o.pos == q.pos)

/-- The spacing of a declared dependency is below 32 beats at some injection (R142, R222). -/
def Pattern.tooClose (q : Pattern) (e : InjDep) : Bool :=
  let beats (t b : Nat) : List Nat := (q.schedule.filter (fun r => r.1 == t)).map (fun r => r.2 + b)
  let n := q.stepBeats
  (beats e.injTable e.injBeat).any (fun i => (beats e.depTable e.depBeat).any (fun a =>
    decide ((i + n - a) % n < 32) && decide (a ≠ i)))

def Loading.checkSplice (l : Loading) : Option Fail :=
  let adds := l.additions
  let h := ceilLog2 l.header.strands
  l.sections (fun s =>
    let d := s.entry.scope
    s.refuse .splicePath (fun i =>
      match i.kind with
      | .slot =>
        let r := SlotRecord.ofNat i.v
        let bs := l.pat.recordBeats i.group r
        (slotInjects r.word && bs.any (fun b => (l.heads d b).isNone))
          || ((List.range 5).any (slotAdds r.word) && bs.any (fun b => !adds.any (fun a => a.die == d && a.beat == b)
            || adds.any (fun a => a.die == d && a.beat == b && adds.any a.apart)))
      | .strand => l.strandWrong d
      | .queue => let q := SpliceQueue.ofNat i.v; q.splice && q.h != h
      | .term =>
        let t := Terminus.ofNat i.v
        let g := l.pat.landing d t.land
        t.valid && (t.h != h || (g.limit + 1 - g.base) % 1024 != 0 || !l.terminusOrder adds d t)
      | .dep => l.sitsOut && l.pat.tooClose (InjDep.ofNat i.v)
      | _ => false))

/-! ### Check 17: static descriptors (R294–R296, R303, R314) -/

/-- Fields that a descriptor's kind leaves zero, or whose range the table gives (R294). -/
def Descriptor.fieldsOk (d : Descriptor) : Bool :=
  let op := d.kind == 3 || d.kind == 6
  let wide : Bool := d.op == 2 || d.op == 7 || d.op == 8
  (op || d.op == 0) && ((op && d.op == 0xA) || d.w == 0) && decide (-192 ≤ d.w) && decide (d.w ≤ 64)
    && !(op && wide && (List.range 8).any (fun j => bit d.mask (2 * j + 1)))
    && (d.kind == 0 || d.kind == 7 || decide (1 ≤ d.count))
    && !((d.kind == 4 || d.kind == 5 || d.kind == 6) && (d.n1 != 1 || d.s2 != 0))

/-- Every unit of every piece of kinds 1–3 lies within the fence and the rim's own stack `i` (R303, R314). -/
def Descriptor.fenced (d : Descriptor) (i : Nat) : Bool :=
  if 1 ≤ d.kind ∧ d.kind ≤ 3 then
    (List.range (d.count * d.piecesPerFlit)).all (fun p =>
      let u := d.pieceAt p
      decide ((d.fenceLo : Int) ≤ u) && decide (u + d.pieceUnits ≤ (d.fenceHi : Int) + 1)
        && decide (((i * stackUnits : Nat) : Int) ≤ u) && decide (u + d.pieceUnits ≤ (((i + 1) * stackUnits : Nat) : Int)))
  else true

/-- The engine of the list that a descriptor stands in. -/
def Section.engineOf (s : Section) (i : Item) : Nat :=
  ((s.items.find? (fun j => j.kind == .list && j.off == i.group)).map (fun j => bits j.v 35 32)).getD 0

def Loading.checkDescriptors (l : Loading) : Option Fail :=
  l.sections (fun s => s.refuse .badDescriptor (fun i => i.kind == .descriptor &&
    (let d := Descriptor.ofNat i.v
     !d.allowed (s.engineOf i) || !d.fieldsOk || !d.fenced (s.entry.scope - 0x8000))))

/-! ### Checks 18 and 19: counts, quiet tail and slack (R216, R289, R314; log entry 46) -/

/-- The rounds of a layer: table, and first beat in the layer. -/
def Pattern.layerRounds (q : Pattern) (layer : Nat) : List (Nat × Nat) :=
  (((List.range q.rounds.length).filter (fun e => (q.layerOf e).layer == layer)).flatMap (fun e =>
    List.replicate (q.rounds.getD e (0, 1)).2 (q.table e))).foldl (fun (acc : List (Nat × Nat) × Nat) t =>
      (acc.1 ++ [(t, acc.2)], acc.2 + q.lengths.getD t 1024)) ([], 0) |>.1

/-- The edge entries of stack index `i` in a layer in the order of R289 and R306, with the round and the beat in the layer. -/
def Pattern.layerEdges (q : Pattern) (i layer : Nat) : List (Nat × Nat × EdgeEntry) :=
  (q.layerRounds layer).zipIdx.flatMap (fun r =>
    (((q.rim i).edges.getD r.1.1 []).insertionSort (fun a b => a.beat < b.beat ∨ (a.beat = b.beat ∧ a.port ≤ b.port))).map
      (fun g => (r.2, r.1.2 + g.beat, g)))

/-- The static descriptors of a list before its first hank wait. -/
def EngineList.known (e : EngineList) : List Descriptor := e.descs.takeWhile (fun d => d.kind != 7)

/-- A list with a hank wait. -/
def EngineList.waits (e : EngineList) : Bool := e.descs.any (fun d => d.kind == 7)

/-- The descriptors that produce flits, or consume them, each with its flits. -/
def EngineList.flits (e : EngineList) (consume : Bool) : List (Descriptor × Nat) :=
  (e.known.filter (fun d => if consume then d.consumes && !d.flitless else d.fetches)).map (fun d => (d, d.flits))

/-- What flit `k` belongs to. -/
def flitOwner {α : Type} : List (α × Nat) → Nat → Option α
  | [], _ => none
  | (d, n) :: rest, k => if k < n then some d else flitOwner rest (k - n)

/-- Flits of descriptors. -/
def flitTotal {α : Type} (ds : List (α × Nat)) : Nat := (ds.map (·.2)).foldl (· + ·) 0

/-- The static descriptors of a list, each with the hank waits before it. -/
def EngineList.static (e : EngineList) : List (Nat × Descriptor) :=
  (e.descs.foldl (fun (acc : List (Nat × Descriptor) × Nat) d =>
    if d.kind = 7 then (acc.1, acc.2 + 1) else (acc.1 ++ [(acc.2, d)], acc.2)) ([], 0)).1

/-- Flits that all the static descriptors of a list produce, or consume. -/
def EngineList.staticFlits (e : EngineList) (consume : Bool) : Nat :=
  ((e.static.filter (fun d => if consume then d.2.consumes && !d.2.flitless else d.2.fetches)).map (fun d => d.2.flits)).foldl (· + ·) 0

/-- The fetch descriptors behind a hank wait, with the waits before each, and their flits. -/
def EngineList.behind (e : EngineList) : List ((Nat × Descriptor) × Nat) :=
  (e.static.filter (fun d => d.2.fetches && decide (0 < d.1))).map (fun d => (d, d.2.flits))

/-- A list's pulls and receives differ from what its static descriptors produce and consume; in a list with hank waits, whose hanks
may add to both, they are fewer (R314; log entry 46). -/
def Pattern.countWrong (q : Pattern) (i : Nat) (e : EngineList) : Bool :=
  let mine := (q.layerEdges i e.layer).map (·.2.2) |>.filter (fun g => g.eng == e.eng)
  let hanks := (mine.filter (fun g => g.receive && g.hank)).length
  let wrong (n want : Nat) : Bool := if e.waits then decide (n < want) else n != want
  hanks != (e.descs.filter (fun d => d.kind == 7)).length
    || wrong (mine.filter (fun g => !g.receive)).length (e.staticFlits false)
    || wrong (mine.filter (fun g => g.receive && !g.hank)).length (e.staticFlits true)

/-- The list under a header of a rim section. -/
def Section.listAt (s : Section) (h : Item) : EngineList :=
  ⟨bits h.v 47 36, bits h.v 35 32,
   (s.items.filter (fun i => i.kind == .descriptor && i.group == h.off)).map (fun i => Descriptor.ofNat i.v)⟩

def Loading.checkCounts (l : Loading) : Option Fail :=
  l.sections (fun s => s.refuse .streamCount (fun i =>
    i.kind == .list && l.pat.countWrong (s.entry.scope - 0x8000) (s.listAt i)))

/-- Table `t` runs as the last round of a layer. -/
def Pattern.endsLayer (q : Pattern) (t : Nat) : Bool :=
  (List.range q.rounds.length).any (fun e => q.table e == t &&
    (e + 1 == q.rounds.length || (q.layerOf (e + 1)).layer != (q.layerOf e).layer))

/-- Pull number `k` of a layer's `n` pulls of a list, in beat `b` of the layer, falls too early (R216, R314): before the slack of its
descriptor after the layer's first beat or, behind a hank wait, after the hank's receive beat. What a hank produces is not known, so
the descriptors behind one are taken as far back as the pulls allow (log entry 46). -/
def EngineList.early (e : EngineList) (hankBeats : List Nat) (n k b : Nat) : Bool :=
  (match flitOwner (e.flits false) k with
   | some d => decide (b < d.slack)
   | none => false)
  || (let rest := n - flitTotal e.behind
      decide (rest ≤ k) &&
        (match flitOwner e.behind (k - rest) with
         | some (j, d) => decide (b < hankBeats.getD (j - 1) 0 + d.slack)
         | none => false))

/-- The pull that an edge entry schedules falls too early in a layer that runs its table (R216, R314). -/
def Pattern.slackShort (q : Pattern) (i t : Nat) (g : EdgeEntry) : Bool :=
  (q.rim i).lists.any (fun e => e.eng == g.eng && !g.receive &&
    let mine := (q.layerEdges i e.layer).filter (fun h => h.2.2.eng == e.eng)
    let pulls := mine.filter (fun h => !h.2.2.receive)
    let hankBeats := (mine.filter (fun h => h.2.2.receive && h.2.2.hank)).map (fun h => h.2.1)
    pulls.zipIdx.any (fun h => h.1.2.2 == g && ((q.layerRounds e.layer).getD h.1.1 (0, 0)).1 == t &&
      e.early hankBeats pulls.length h.2 h.1.2.1))

def Loading.checkBindOff (l : Loading) : Option Fail :=
  l.sections (fun s => s.refuse .bindOff (fun i => i.kind == .edge &&
    ((l.pat.endsLayer i.group && decide (l.len i.group ≤ bits i.v 15 0 + 1024))
      || l.pat.slackShort (s.entry.scope - 0x8000) i.group (EdgeEntry.ofNat i.v))))

/-! ### Check 20: calibration windows (R272) -/

def Loading.checkCalibration (l : Loading) : Option Fail :=
  l.sections (fun s => s.refuse .calWindow (fun i => i.kind == .cal &&
    (let w := CalWindow.ofNat i.v
     decide (w.len < 2100) || decide (l.header.tables ≤ w.table) || decide (l.x.stackRims.length ≤ w.stack)
       || decide (l.len w.table < w.beat + w.len)
       || ((l.pat.rim w.stack).edges.getD w.table []).any (fun g => decide (w.beat ≤ g.beat) && decide (g.beat < w.beat + w.len)))))

/-! ### Checks 21 and 22: rim shares and edge occupancy (R185, R186) -/

/-- The kind under R185 of each flit of stack index `i` in a layer: round of the layer, table, and 0 read, 1 write, 2 remote;
a flit of a descriptor that a hank brings has none (log entry 46). -/
def Pattern.rimKinds (q : Pattern) (i layer : Nat) : List (Nat × Nat) :=
  let edges := q.layerEdges i layer
  let lists := (q.rim i).lists.filter (fun e => e.layer == layer)
  edges.zipIdx.filterMap (fun g =>
    let e := g.1.2.2
    if !e.receive then some (g.1.1, 0)
    else if e.hank then some (g.1.1, 1)
    else
      let k := ((edges.take g.2).filter (fun h => h.2.2.eng == e.eng && h.2.2.receive && !h.2.2.hank)).length
      match (lists.find? (fun m => m.eng == e.eng)).bind (fun m => flitOwner (m.flits true) k) with
      | some d => some (g.1.1, if d.kind = 2 ∨ d.kind = 5 then 1 else 2)
      | none => none)

/-- A round of table `t` moves more flits of a kind than the share allows (R185). -/
def Loading.shareBroken (l : Loading) (i t : Nat) : Bool :=
  let q := l.pat
  let (rd, wr, rm) := l.x.split
  let budget := 25 * l.len t / 14
  ((q.layers.map (·.layer)).dedup).any (fun y =>
    let ks := q.rimKinds i y
    (q.layerRounds y).zipIdx.any (fun r => r.1.1 == t &&
      [(0, rd), (1, wr), (2, rm)].any (fun k =>
        decide (k.2 * budget < 100 * (ks.filter (fun e => e.1 == r.2 && e.2 == k.1)).length))))

def Loading.checkShares (l : Loading) : Option Fail :=
  l.sections (fun s => if s.entry.ty = 0x20 then
    s.refuse .rimSplit (fun i => i.kind == .count && l.shareBroken (s.entry.scope - 0x8000) i.group) else none)

/-- Residues that other partitions lease on port `port` of rim `k`, from the rim or toward it (R178, R186). -/
def Loading.leasedOn (l : Loading) (k port : Nat) (receive : Bool) : Nat :=
  match l.s.facing k port with
  | none => 0
  | some (c, r, side) =>
    (l.s.leases.filter (fun e => e.1 != l.p && e.2.col == c && e.2.row == r
      && e.2.link == (if receive then side else 4 + side))).length

/-- A port of stack index `i` is above 85 % in table `t` (R186). -/
def Loading.portFull (l : Loading) (i t : Nat) : Bool :=
  let k := l.x.stackRims.getD i 0
  let n := l.len t
  (List.range (Part.ports l.s.part k)).any (fun port => [false, true].any (fun receive =>
    let own := (((l.pat.rim i).edges.getD t []).filter (fun g => g.port == port && g.receive == receive)).length
    decide (85 * n < 100 * (own + l.leasedOn k port receive * (n / 64)))))

def Loading.checkOccupancy (l : Loading) : Option Fail :=
  l.sections (fun s => if s.entry.ty = 0x20 then
    s.refuse .edgeOccupancy (fun i => i.kind == .count && l.portFull (s.entry.scope - 0x8000) i.group) else none)

/-! ### Check 23: energy estimates (R415, R424) -/

/-- An estimate of table `t` that breaks a bound. -/
def Loading.estimateWrong (l : Loading) (i : Item) : Bool :=
  let est := bits i.v 63 32
  let stk := bits i.v 95 64
  bits i.v 5 0 != i.off / 16 || est == 0 || decide (est < stk) || decide (stk < bits i.v 127 96)
    || decide (l.x.share * l.s.part.maxW * l.len (bits i.v 5 0) < est * 1024 * 1400)

def Loading.checkEnergy (l : Loading) : Option Fail :=
  match l.img.section? 0x30 wholeScope with
  | none => some (headFail .energy l.header.dirOffset)
  | some s => (failIf (s.items.length != l.header.tables) (s.fail .energy 0)) <|> s.refuse .energy l.estimateWrong

/-! ### Check 24: transit (R178, R183, R184) -/

/-- The transit reserve of the partition that holds a position; 0 where none does. -/
def State.reserveAt (s : State) (c r : Nat) : Nat := ((s.ownerAt c r).map (fun e => e.2.reserve)).getD 64

/-- A router: of a die of the mesh, or the edge router of a rim. -/
inductive RouterAt where
  | die (col row : Nat)
  | rim (k : Nat)
  deriving DecidableEq, Repr

/-- The routers that a lease's flits pass: the die's, and that of the rim where its link joins one. -/
def State.leaseRouters (s : State) (e : Lease) : List RouterAt :=
  let side := e.link % 4
  .die e.col e.row :: (match s.neighbour e.col e.row side, s.edgeOf e.col e.row side with
    | none, some (k, _) => [.rim k]
    | _, _ => [])

/-- Lessees that router `t` would carry. -/
def Loading.lesseesAt (l : Loading) (t : RouterAt) : List Nat :=
  ((l.s.leases.filter (fun h => (l.s.leaseRouters h.2).contains t)).map (·.1) ++ [l.p]).dedup

/-- A requested lease cannot be granted; `before` are the request's entries before it. -/
def Loading.leaseWrong (l : Loading) (before : List Lease) (e : Lease) : Bool :=
  let held := l.s.leases
  decide (l.s.meshW ≤ e.col) || decide (l.s.meshH ≤ e.row) || (l.x.dieAt e.col e.row).isSome
    || (decide (4 ≤ e.link) && ((l.s.neighbour e.col e.row (e.link - 4)).isSome
        || (l.s.edgeOf e.col e.row (e.link - 4)).isNone))
    || decide (e.residue < 64 - l.s.reserveAt e.col e.row)
    || (held.map (·.2) ++ before).contains e
    || (l.s.leaseRouters e).any (fun t => decide (4 < (l.lesseesAt t).length))

/-- The own flit of beat `b` uses a residue kept for transit (R183). -/
def Loading.reserved (l : Loading) (b : Nat) : Bool := decide (64 - l.x.reserve ≤ b % 64)

def Loading.checkTransit (l : Loading) : Option Fail :=
  (failIf (l.header.reserve != 0 && l.header.reserve != l.x.reserve) (headFail .transitLease 47))
    <|> l.sections (fun s => s.refuse .transitLease (fun i =>
      match i.kind with
      | .slot =>
        let r := SlotRecord.ofNat i.v
        (List.range 4).any (fun o => slotSource r.word o != 0) && r.beats.any l.reserved
      | .lease => l.leaseWrong ((s.items.filter (fun j => j.kind == .lease && decide (j.off < i.off))).map
          (fun j => Lease.ofNat j.v)) (Lease.ofNat i.v)
      | .edge =>
        let g := EdgeEntry.ofNat i.v
        !g.receive && l.reserved g.beat && !l.foreignPort (s.entry.scope - 0x8000) g.port
      | _ => false))

/-! ### The load -/

/-- The checks after check 1, in order (R414). -/
def Loading.checks (l : Loading) : Option Fail :=
  l.checkUsedSections <|> l.checkReserved <|> l.checkFeatures <|> l.checkShape <|> l.checkSplit <|> l.checkErrorMode
    <|> l.checkSizes <|> l.checkEncodings <|> l.checkLayers <|> l.checkRegions <|> l.checkSpan <|> l.checkSequences
    <|> l.checkSlots <|> l.checkCredit <|> l.checkSync <|> l.checkSplice <|> l.checkDescriptors <|> l.checkCounts
    <|> l.checkBindOff <|> l.checkCalibration <|> l.checkShares <|> l.checkOccupancy <|> l.checkEnergy
    <|> l.checkTransit

/-- The pattern of an image that partition `p` may load, or why it may not (R187, R414). -/
def State.checkImage (s : State) (p : Nat) (x : Partition) (bs : List Byte) : Except Fail Pattern :=
  let h := Header.ofBytes bs
  let dir := h.directory bs
  match checkFrame bs h dir with
  | some f => .error f
  | none =>
    match readSections h bs dir with
    | .error (e, off) => .error ⟨.imageFormat, e.scope, e.index, off⟩
    | .ok sections =>
      let img : Image := ⟨h, bs, sections⟩
      let l : Loading := ⟨s, p, x, img, img.pattern⟩
      match l.checks with
      | some f => .error f
      | none => .ok l.pat

end Sys2Proof.Machine
end

