-- ==== Sys2Proof/Machine/Commands.lean ====
section
/-! DEFINITION. How a command of a ring starts, is held or is refused, and the general commands
(spec/13_flauri_commands.md R387–R402, R410, R411, spec/14_power_and_energy.md R422, spec/15_reliability_and_sparing.md R452,
spec/16_host_link_and_security.md R473, R478, R487, R492). -/

namespace Sys2Proof.Machine

/-! ### The opcode table (R401) -/

/-- Opcodes of the table. -/
def knownOpcodes : List Nat :=
  [0x0001, 0x0002, 0x0010, 0x0011, 0x0012, 0x0013, 0x0018, 0x0020, 0x0021, 0x0022, 0x0023, 0x0024, 0x0100, 0x0101, 0x0102,
   0x0110, 0x0111, 0x0112, 0x0113, 0x0114, 0x0115, 0x0116, 0x0120, 0x0121, 0x0122, 0x0130, 0x0131]

/-- Admin-only opcodes. -/
def adminOnly (opcode : Nat) : Bool :=
  [0x0002, 0x0010, 0x0011, 0x0012, 0x0013, 0x0020, 0x0021, 0x0022, 0x0023, 0x0024].contains opcode

/-- The security commands, which run one at a time (R487). -/
def secured (opcode : Nat) : Bool := [0x0020, 0x0021, 0x0022, 0x0023, 0x0024].contains opcode

/-- Assigned bits of `PARAM` word `i`. -/
def paramMask (opcode i : Nat) : Nat :=
  let first (n : Nat) : Nat := if i < n then 0xFFFFFFFF else 0
  match opcode with
  | 0x0002 | 0x0021 => first 8
  | 0x0010 => [0x001F1FFF, 0xFFFF, 0x3FFFFFFF, 0x00FF0F1F, 0xFFFFFFFF, 0x7FF].getD i 0
  | 0x0012 => first 7
  | 0x0013 | 0x0018 | 0x0112 | 0x0130 => first 1
  | 0x0113 | 0x0114 | 0x0116 | 0x0122 | 0x0131 => first 2
  | 0x0115 => first 6
  | 0x0120 => [0xFFFFFFFF, 0xFFFF0007, 0xFFFFFFFF].getD i 0
  | 0x0102 | 0x0121 => first 4
  | _ => 0

/-- A reserved bit of the entry is set (R11, R389, R401). -/
def strayParam (opcode : Nat) (e : CmdEntry) : Bool :=
  e.reserved || (List.range e.param.length).any (fun i => paramAt e i &&& paramMask opcode i != paramAt e i)

/-- Features that a command needs (R399, R400). -/
def featuresOf (opcode : Nat) : List Nat :=
  match opcode with
  | 0x0022 => [12]
  | 0x0102 => [9]
  | 0x0115 | 0x0116 => [13]
  | 0x0120 | 0x0122 => [7]
  | 0x0121 => [7, 10]
  | _ => []

/-- The command acts on the context that `CTX` names. -/
def namesContext (opcode : Nat) : Bool :=
  classC opcode || [0x0111, 0x0120, 0x0121, 0x0122].contains opcode

/-- The command has a host buffer at `ADDR`. -/
def usesBuffer (opcode : Nat) : Bool :=
  [0x0011, 0x0018, 0x0020, 0x0021, 0x0022, 0x0023, 0x0024, 0x0101, 0x0110, 0x0113, 0x0114, 0x0115, 0x0116, 0x0122, 0x0130,
   0x0131].contains opcode

/-- Commands whose host transfer ends in a step of its own. -/
def transfers (opcode : Nat) : Bool := [0x0110, 0x0113, 0x0114, 0x0115, 0x0116].contains opcode

/-! ### Starting -/

/-- The command of a request as its ring picked it up, not started. -/
def State.picked? (s : State) (q : Request) (opcode : Nat) : Option Picked :=
  (s.ring (ringNumber q.ring)).picked.find? (fun c => c.opcode == opcode && c.entry == q.entry)

/-- The ring holds an earlier command that matches and has not completed. -/
def Ring.earlier (r : Ring) (c : Picked) (f : Nat → CmdEntry → Bool) : Bool :=
  r.picked.any (fun o => decide (o.order < c.order) && f o.opcode o.entry)
    || r.active.any (fun o => decide (o.order < c.order) && f o.opcode o.entry)

/-- A command of class I that nothing keeps from starting as it is picked up (R393); `held` are the opcodes that wait. -/
def Ring.starts (r : Ring) (held : Nat → Bool) (c : Picked) : Bool :=
  !classC c.opcode && !c.entry.fence && !held c.opcode && (!secured c.opcode || !r.earlier c (fun o _ => secured o))

/-- A picked-up command may start (R393, R487): in its turn, and after those that start as they are picked up. -/
def Ring.mayStart (r : Ring) (held : Nat → Bool) (c : Picked) : Bool :=
  (classC c.opcode || c.entry.fence || !r.picked.any (fun o => decide (o.order < c.order) && r.starts held o))
    && (!classC c.opcode || !r.earlier c (fun o e => classC o && e.part == c.entry.part && e.ctx == c.entry.ctx))
    && (!c.entry.fence || !r.earlier c (fun _ _ => true))
    && (!secured c.opcode || !r.earlier c (fun o _ => secured o))

/-- The command goes on, to complete later. -/
def State.goesOn (s : State) (k : Nat) (c : Picked) (how : Progress) : State :=
  let r := s.ring k
  s.setRing k { r with active := r.active ++ [⟨c.opcode, c.entry, c.order, how⟩] }

/-- A command on a ring that may not carry it (R391). -/
def wrongRing (q : Request) (opcode : Nat) : Bool :=
  match q.ring with
  | .admin => false
  | .part p => adminOnly opcode || q.entry.part.toNat != p.val

/-- A partition that exists and is not in teardown (R412). -/
def State.live? (s : State) (p : Nat) : Option Partition := (s.partition? p).filter (fun x => !x.teardown)

/-- The context that an entry names. -/
def State.context? (s : State) (e : CmdEntry) : Option Context := (s.live? e.part.toNat).bind (fun x => x.context? e.ctx.toNat)

/-- Refused for its bits, its reserved tag, its ring or the missing negotiation (R11, R389, R391, R397). -/
def State.refusal (s : State) (q : Request) (opcode : Nat) : Option Status :=
  if strayParam opcode q.entry then some .reservedNonzero
  else if q.entry.tag = 0xFFFF then some .badParam
  else if wrongRing q opcode then some .wrongRing
  else if s.features = 0 ∧ opcode ≠ 0x0001 ∧ opcode ≠ 0x0002 then some .notNegotiated
  else none

/-- Held until cast-on ends, until diagnosis ends, or until the stream is secure (R452, R478, R492). -/
def State.holdsBack (s : State) (opcode : Nat) : Bool :=
  (s.stage != .ready && !([0x0001, 0x0002, 0x0018].contains opcode || secured opcode))
    || (s.diag && [0x0010, 0x0110, 0x0112, 0x0113, 0x0114, 0x0115, 0x0116].contains opcode)
    || (s.insecure && !servedInsecure opcode)

/-- Refused for a feature, its partition, its context or its buffer's alignment (R389, R400, R403, R412). -/
def State.lacking (s : State) (q : Request) (opcode : Nat) : Option Status :=
  let e := q.entry
  if (featuresOf opcode).any (fun n => !s.features.getLsbD n) then some .feature
  else if (namesPartition opcode ∨ q.ring ≠ .admin) ∧ s.live? e.part.toNat = none then some .noPartition
  else if namesContext opcode ∧ s.context? e = none then some .noContext
  else if usesBuffer opcode ∧ e.addr.toNat % 64 ≠ 0 then some .badParam
  else none

/-- The command waits for the span of a context that is out or moving (R396). -/
def State.awaitsSpan (s : State) (q : Request) (opcode : Nat) : Bool :=
  needsSpan opcode &&
    (match s.context? q.entry with
     | some v => (match v.place with | .resident _ => false | _ => true)
     | none => false)

/-- What becomes of a request: nothing yet, a refusal, or its effect. -/
inductive Gate where
  | waits
  | refused (c : Picked) (st : Status)
  | runs (c : Picked)
  deriving DecidableEq, Repr

/-- The gate of every command, in order: picked up, its turn (R393), refused for its form, held, refused for what it needs
(`check` is the command's own), waiting for its span, and refused for a failed host access (R473). -/
def State.gate (s : State) (q : Request) (opcode : Nat) (check : Option Status) : Gate :=
  match s.picked? q opcode with
  | none => .waits
  | some c =>
    if (s.ring (ringNumber q.ring)).mayStart s.holdsBack c then
      match s.refusal q opcode with
      | some st => .refused c st
      | none =>
        if s.holdsBack opcode then .waits
        else match (s.lacking q opcode).orElse (fun _ => check) with
          | some st => .refused c st
          | none =>
            if s.awaitsSpan q opcode then .waits
            else if ¬ q.hostOk ∧ usesBuffer opcode ∧ ¬ transfers opcode then .refused c .hostAccess
            else .runs c
    else .waits

/-- Complete a command at once (R401). -/
def State.answer (s : State) (q : Request) (opcode : Nat) (c : Picked) (st : Status) (detail : Nat) (result : List W32) :
    State :=
  (s.unpick (ringNumber q.ring) c).complete (ringNumber q.ring) opcode q.entry st detail result

/-- Perform a command: its effect `run`, from the state in which it no longer waits, or its refusal, or nothing yet. -/
def State.serve (s : State) (q : Request) (opcode : Nat) (check : Option Status) (run : Picked → State → State) : Out :=
  match s.gate q opcode check with
  | .waits => .next s
  | .refused c st => .next (s.answer q opcode c st 0 [])
  | .runs c => .next (run c (s.unpick (ringNumber q.ring) c))

/-- Perform a command that waits besides until `ready`. -/
def State.serveWhen (s : State) (q : Request) (opcode : Nat) (check : Option Status) (ready : Bool) (run : Picked → State → State) :
    Out :=
  match s.gate q opcode check with
  | .waits => .next s
  | .refused c st => .next (s.answer q opcode c st 0 [])
  | .runs c => if ready then .next (run c (s.unpick (ringNumber q.ring) c)) else .next s

/-- Complete the command of a request that has started. -/
def State.done (s : State) (q : Request) (opcode : Nat) (st : Status) (result : List W32) : State :=
  s.complete (ringNumber q.ring) opcode q.entry st 0 result

/-- Complete a command later, when its host transfer ends (R393). -/
def State.transfer (s : State) (q : Request) (c : Picked) (st : Status) (detail : Nat) (result : List W32) : State :=
  s.goesOn (ringNumber q.ring) c (.transfer st detail result)

/-- The bytes of a command's host buffer. -/
def State.buffer (s : State) (e : CmdEntry) (n : Nat) : List Byte := s.hostBytes e.addr.toNat n

/-- Write to a command's host buffer. -/
def State.reply (s : State) (e : CmdEntry) (bs : List Byte) : State := s.hostWrite e.addr.toNat bs

/-- A status when a condition holds. -/
def refuseIf (b : Bool) (st : Status) : Option Status := if b then some st else none

/-- The 32-bit words of a number, low word first. -/
def words (n v : Nat) : List W32 := (List.range n).map (fun i => BitVec.ofNat 32 (v / 2 ^ (32 * i)))

/-! ### The general commands -/

/-- NOP (R401). -/
def execNop (q : Request) (s : State) : Out := s.serve q 0x0001 none (fun _ t => t.done q 0x0001 .ok [])

/-- A command whose opcode the table does not have (R401). -/
def execBadOpcodeCommand (q : Request) (opcode : BitVec 16) (s : State) : Out :=
  if knownOpcodes.contains opcode.toNat then .next s
  else match s.picked? q opcode.toNat with
    | none => .next s
    | some c =>
      if (s.ring (ringNumber q.ring)).mayStart s.holdsBack c then .next (s.answer q opcode.toNat c .badOpcode 0 []) else .next s

/-- The vector that `NEGOTIATE` offers (R398). -/
def offered (e : CmdEntry) : BitVec 256 :=
  BitVec.ofNat 256 (((List.range 8).map (fun i => paramAt e i * 2 ^ (32 * i))).foldl (· + ·) 0)

/-- Why `NEGOTIATE` is refused (R398). -/
def State.negotiateCheck (s : State) (e : CmdEntry) : Option Status :=
  if ¬ (offered e).getLsbD 0 ∨ ¬ (offered e).getLsbD 16 then some .feature
  else refuseIf (!s.partitions.isEmpty) .busy

/-- NEGOTIATE (R398); an offered bit that R399 reserves is masked away, not refused (log entry 105). -/
def execNegotiate (q : Request) (s : State) : Out :=
  s.serve q 0x0002 (s.negotiateCheck q.entry) (fun _ t =>
    let accepted := offered q.entry &&& supported
    ({ t with features := accepted } : State).done q 0x0002 .ok (words 8 accepted.toNat))

/-- RING_CREATE (R381, R412): a running ring is not described again. -/
def State.ringCreateCheck (s : State) (e : CmdEntry) : Option Status :=
  if (s.ring (e.part.toNat + 1)).state = .running then some .ringConfig
  else refuseIf (!ringLegal (paramPair e 0) (paramPair e 2) (paramPair e 4) (paramAt e 6)) .badParam

def execRingCreate (q : Request) (s : State) : Out :=
  let e := q.entry
  s.serve q 0x0012 (s.ringCreateCheck e) (fun _ t =>
    (t.startRing (e.part.toNat + 1) (paramPair e 0) (paramPair e 2) (paramPair e 4) (paramAt e 6)).done q 0x0012 .ok [])

/-- SET_ENVELOPE (R422): stored while THROT_N is accepted as asserted. -/
def State.setEnvelope (s : State) (w : Nat) : State :=
  if s.throt then { s with storedEnvelope := some w } else ({ s with envelope := w } : State).relimit

def execSetEnvelope (q : Request) (s : State) : Out :=
  let w := paramAt q.entry 0
  s.serve q 0x0013 (refuseIf (decide (w < s.part.floorW) || decide (s.part.maxW < w)) .envelope) (fun _ t =>
    let t := t.setEnvelope w
    t.done q 0x0013 .ok [BitVec.ofNat 32 t.envelope])

/-- The stacks that `READ_STATUS` covers on a ring (R410). -/
def State.statusStacks (s : State) (r : RingId) : List Nat :=
  match r with
  | .admin => Part.stackList s.part
  | .part p => ((s.partition? p).map Partition.stackRims).getD []

/-- The record that a selector names (R410). -/
def State.statusRecord (s : State) (r : RingId) (selector : Nat) : List Byte :=
  match selector with
  | 0 => s.moduleRecord
  | 1 => s.temperatureRecord (s.statusStacks r)
  | 2 => (s.statusStacks r).flatMap (fun k => (s.rim k).correctionRecord)
  | _ => s.spareRecord

/-- READ_STATUS (R410). -/
def execReadStatus (q : Request) (s : State) : Out :=
  let bs := s.statusRecord q.ring (paramAt q.entry 0)
  s.serve q 0x0018 (refuseIf (decide (3 < paramAt q.entry 0) || decide (q.entry.len.toNat < bs.length)) .badParam) (fun _ t =>
    (t.reply q.entry bs).done q 0x0018 .ok [BitVec.ofNat 32 bs.length])

/-! ### Counters (R380, R402, R411) -/

/-- The records that `READ_COUNTERS` gives; none for a context that does not exist. -/
def Partition.records (x : Partition) (selector ctx : Nat) : Option (List (List Byte)) :=
  match selector with
  | 0 => some [counterRecord 0xFFFF x.counters]
  | 1 => (x.context? ctx).map (fun v => [counterRecord ctx v.counters])
  | _ => some x.allRecords

/-- The records that an entry asks for. -/
def State.askedRecords (s : State) (e : CmdEntry) : Option (List (List Byte)) :=
  (s.live? e.part.toNat).bind (fun x => x.records (paramAt e 0) e.ctx.toNat)

/-- Why `READ_COUNTERS` is refused. -/
def State.readCountersCheck (s : State) (e : CmdEntry) : Option Status :=
  if 2 < paramAt e 0 then some .badParam
  else match s.askedRecords e with
    | none => some .noContext
    | some rs => refuseIf (decide (e.len.toNat < 96 * rs.length)) .badParam

/-- READ_COUNTERS (R380, R402). -/
def execReadCounters (q : Request) (s : State) : Out :=
  let rs := (s.askedRecords q.entry).getD []
  s.serve q 0x0130 (s.readCountersCheck q.entry) (fun _ t =>
    (t.reply q.entry rs.flatten).done q 0x0130 .ok [BitVec.ofNat 32 rs.length])

/-- The bank conflict counters of a die (R129, R411). -/
def Die.conflictBytes (d : Die) : List Byte := (List.range 752).flatMap (fun i => leBytes 8 (Sparse.getD 0 d.conflicts i))

/-- What `READ_PERF` writes; none for an index outside the partition or a selector of neither kind (R411). -/
def State.perf (s : State) (e : CmdEntry) : Option (List Byte) :=
  (s.live? e.part.toNat).bind (fun x =>
    match paramAt e 0 with
    | 0 => if paramAt e 1 < x.size then some (x.die (paramAt e 1)).conflictBytes else none
    | 1 => (x.stackRims[paramAt e 1]?).map (fun k => (s.rim k).counterBytes)
    | _ => none)

/-- READ_PERF (R411). -/
def execReadPerf (q : Request) (s : State) : Out :=
  let bs := s.perf q.entry
  s.serve q 0x0131 (match bs with | none => some .badParam | some b => refuseIf (decide (q.entry.len.toNat < b.length)) .badParam)
    (fun _ t => (t.reply q.entry (bs.getD [])).done q 0x0131 .ok [])

/-! ### Host transfers -/

/-- HOST_TRANSFER_COMPLETE (R309, R393, R409): once the hub has served its units, the command's completion is posted, and class C
commands behind it may start. -/
def execHostTransferComplete (ring : RingId) (tag : BitVec 16) (s : State) : Out :=
  let k := ringNumber ring
  match (s.ring k).active.findSome? (fun a =>
    match a.progress with
    | .transfer st detail result => if a.entry.tag = tag then some (a, st, detail, result) else none
    | _ => none) with
  | none => .next s
  | some (a, st, detail, result) =>
    match a.hostUnits with
    | none => .next s
    | some (out, n) =>
      match s.hubServe a.entry.part.toNat out n with
      | none => .next s
      | some s => .next (s.finish k a st detail result)

end Sys2Proof.Machine
end

