-- ==== Sys2Proof/Machine/Manager.lean ====
section
/-! DEFINITION. Partitions and contexts: creation, destruction and the context window
(spec/12_partitions_and_contexts.md R348–R380, spec/13_flauri_commands.md R395, R402, R408, spec/14_power_and_energy.md R423). -/

namespace Sys2Proof.Machine

/-! ### PARTITION_CREATE (R348–R354, R401, R423) -/

/-- What `PARTITION_CREATE` asks for. -/
structure NewPart where
  col0 : Nat
  row0 : Nat
  width : Nat
  height : Nat
  mask : Nat
  split : Nat × Nat × Nat
  reserve : Nat
  ways : Nat
  sitOut : Bool
  slots : Nat
  hostShare : Nat
  quantum : Nat
  share : Nat
  deriving DecidableEq, Repr

/-- Shapes of a part (R348). -/
def partShapes : Part → List (Nat × Nat)
  | .gq4_256 => [(4, 4), (8, 4), (4, 8), (8, 8), (16, 4), (16, 8), (8, 16), (16, 16)]
  | .gq4_128 => [(4, 4), (8, 4), (4, 8), (8, 8), (16, 4), (16, 8)]
  | .gq4_064 => [(4, 4), (8, 4), (16, 4)]

/-- The parameters of the command; an energy share of 0 selects the default (R423), and a host share has no such value (R354; log
entry 51). -/
def NewPart.ofEntry (part : Part) (e : CmdEntry) : NewPart :=
  let p (i : Nat) : Nat := paramAt e i
  let width := bits (p 0) 12 8
  let height := bits (p 0) 20 16
  let dies := width * height
  let share := bits (p 5) 10 0
  { col0 := bits (p 0) 3 0, row0 := bits (p 0) 7 4, width, height, mask := bits (p 1) 15 0,
    split := (bits (p 2) 7 0, bits (p 2) 15 8, bits (p 2) 23 16), reserve := bits (p 2) 29 24,
    ways := bits (p 3) 3 0, sitOut := bit (p 3) 4, slots := bits (p 3) 11 8,
    hostShare := bits (p 3) 23 16, quantum := p 4,
    share := if share = 0 then 1024 * dies / part.skeins else share }

/-- The shape and its place are those of R348. -/
def State.shapeOk (s : State) (h : NewPart) : Bool :=
  (partShapes s.part).contains (h.width, h.height) && h.col0 % h.width == 0 && h.row0 % h.height == 0
    && decide (h.col0 + h.width ≤ s.meshW) && decide (h.row0 + h.height ≤ s.meshH)

/-- The shape covers a logical position. -/
def NewPart.covers (h : NewPart) (c r : Nat) : Bool :=
  decide (h.col0 ≤ c) && decide (c < h.col0 + h.width) && decide (h.row0 ≤ r) && decide (r < h.row0 + h.height)

/-- A named die belongs to a partition, one in teardown included (R351). -/
def State.shapeTaken (s : State) (h : NewPart) : Bool :=
  s.partitions.any (fun e => (List.range e.2.size).any (fun d => h.covers (e.2.position d).1 (e.2.position d).2))

/-- A named die's links carry a lease outside the new reserve (R351, R353). -/
def State.leaseOutside (s : State) (h : NewPart) : Bool :=
  s.leases.any (fun l => h.covers l.2.col l.2.row && decide (l.2.residue < 64 - h.reserve))

/-- The stack mask keeps R352 and R454. -/
def State.stacksOk (s : State) (h : NewPart) : Bool :=
  let ks := (List.range 16).filter (fun k => bit h.mask k)
  16 * ks.length == h.width * h.height && ks.all (fun k => s.stackUsable k && (s.rimOwner k).isNone)

/-- Every attribute lies in its range (R354, R423). -/
def State.attributesOk (s : State) (h : NewPart) : Bool :=
  let (r, w, m) := h.split
  let one (v : Nat) : Bool := decide (1 ≤ v) && decide (v ≤ 98)
  let given := (s.partitions.map (fun e => e.2.share)).foldl (· + ·) 0
  decide (h.reserve ≤ 32) && one r && one w && one m && r + w + m == 100 && decide (h.ways ≤ 8)
    && decide (1 ≤ h.slots) && decide (h.slots ≤ 8) && decide (1 ≤ h.hostShare) && decide (h.hostShare ≤ 255)
    && decide (h.quantum ≤ 10000) && decide (1 ≤ h.share) && decide (given + h.share ≤ 1024)

/-- Why `PARTITION_CREATE` is refused (R351), the first case that applies. -/
def State.createCheck (s : State) (e : CmdEntry) : Option Status :=
  let h := NewPart.ofEntry s.part e
  let lacks (n : Nat) : Bool := !s.features.getLsbD n
  if (0 < h.reserve ∧ lacks 6) ∨ (0 < h.ways ∧ lacks 8) ∨ (h.sitOut ∧ lacks 5) then some .feature
  else if ¬ s.shapeOk h then some .partitionShape
  else if s.shapeTaken h ∨ s.leaseOutside h then some .partitionBusy
  else if ¬ s.stacksOk h then some .stackSelect
  else refuseIf (!s.attributesOk h) .partitionAttr

/-- A partition at its creation; `key` numbers its swap key, and the next its window key (R344, R368). -/
def NewPart.partition (h : NewPart) (now key : Nat) : Partition :=
  { col0 := h.col0, row0 := h.row0, width := h.width, height := h.height, stackMask := h.mask, reserve := h.reserve,
    split := h.split, reductionWays := h.ways, sitOutMode := h.sitOut, slots := h.slots, hostShare := h.hostShare,
    quantum := h.quantum, share := h.share, running := none, switchedIn := now, lastIn := none, run := .reset, response := .none, dies := [],
    edge := [], crossing := [], tether := [], contexts := [], credit := 0, hot := false, estSum := 0, measSum := 0, swapNumber := 0,
    swapped := [], hostServed := (0, 0), switchCost := [], heldLeases := [], evictionNumber := 0, swapKey := some key, windowKey := some (key + 1), window := none,
    windowFullPosted := false, evicting := none, counters := [], clamps := 0, unresolved := 0, teardown := false,
    destroyer := none }

/-- A rim whose stack is assigned under a new key (R262). -/
def Rim.assigned (r : Rim) (key : Nat) : Rim :=
  { r with stack := [], key := some (Config.rimKeys key), cache := [], ctx := .idle, outstanding := [], writes := [], tokens := bucketDepth }

/-- The lowest partition number that no partition holds (R350). -/
def State.freePartition (s : State) : Nat := ((List.range 16).find? (fun p => (s.partition? p).isNone)).getD 0

/-- Create the partition, its keys and its stacks' keys. -/
def State.createPartition (s : State) (h : NewPart) : State :=
  let x := h.partition s.time s.keyNumber
  let s := s.setPartition s.freePartition x
  let n := s.keyNumber + 2
  let s := x.stackRims.zipIdx.foldl (fun t e => t.setRim e.1 ((t.rim e.1).assigned (n + e.2))) s
  { s with keyNumber := n + x.stackRims.length }

/-- PARTITION_CREATE (R350, R351). -/
def execPartitionCreate (q : Request) (s : State) : Out :=
  s.serve q 0x0010 (s.createCheck q.entry) (fun _ t =>
    (t.createPartition (NewPart.ofEntry t.part q.entry)).done q 0x0010 .ok [BitVec.ofNat 32 t.freePartition])

/-! ### PARTITION_DESTROY (R375–R377, R395, R402) -/

/-- Destroy a partition for the command `by_`, up to its teardown (R375, R395). -/
def State.destroy (s : State) (p : Nat) (x : Partition) (by_ : Option (Nat × Nat)) : State :=
  (s.stopPartition p x .killed by_).beginTeardown p

/-- Why `PARTITION_DESTROY` is refused (R402). -/
def State.destroyCheck (s : State) (e : CmdEntry) : Option Status :=
  match s.live? e.part.toNat with
  | some x => refuseIf (decide (e.len.toNat < 96 * (1 + x.contexts.length))) .badParam
  | none => none

/-- The partition's teardown begun for a command, which its records await (R376, R380). -/
def State.destroyFor (s : State) (q : Request) (c : Picked) (p : Nat) (x : Partition) : State :=
  let s := s.stopPartition p x .killed (some (ringNumber q.ring, c.order))
  let s := match s.partition? p with
    | some y => s.setPartition p { y with destroyer := some (ringNumber q.ring, q.entry) }
    | none => s
  (s.beginTeardown p).goesOn (ringNumber q.ring) c .destroy

/-- PARTITION_DESTROY: it completes, with the final records, when the teardown does (R376, R380). -/
def execPartitionDestroy (q : Request) (s : State) : Out :=
  s.serve q 0x0011 (s.destroyCheck q.entry) (fun c t =>
    match t.partition? q.entry.part.toNat with
    | some x => t.destroyFor q c q.entry.part.toNat x
    | none => t)

/-! ### Contexts (R357, R370, R378, R408) -/

/-- The lowest context number that no context holds (log entry 52). -/
def Partition.freeContext (x : Partition) : Nat := ((List.range 64).find? (fun c => (x.context? c).isNone)).getD 0

/-- Why `CONTEXT_CREATE` is refused (R400, R408). -/
def State.contextCreateCheck (s : State) (e : CmdEntry) : Option Status :=
  match s.live? e.part.toNat with
  | none => none
  | some x =>
    if 64 ≤ x.contexts.length then some .ctxLimit
    else refuseIf (x.freeSlots.isEmpty && !s.features.getLsbD 9) .feature

/-- The partition with a new context: resident where a pair is free, and running where no context runs (R357, R370; log
entry 30). -/
def Partition.addContext (x : Partition) (now : Nat) : Partition :=
  let c := x.freeContext
  match x.freeSlots with
  | j :: _ =>
    let x := x.setContext c (.created (.resident j) now)
    if x.running.isNone then { x with running := some c, switchedIn := now, lastIn := some c } else x
  | [] => x.setContext c (.created (.out none) now)

/-- CONTEXT_CREATE (R357). -/
def execContextCreate (q : Request) (s : State) : Out :=
  let p := q.entry.part.toNat
  s.serve q 0x0100 (s.contextCreateCheck q.entry) (fun _ t =>
    match t.partition? p with
    | none => t
    | some x =>
      (t.setPartition p (x.addContext t.time)).done q 0x0100 .ok
        [BitVec.ofNat 32 x.freeContext, if x.freeSlots.isEmpty then 0 else 1])

/-- The partition without a context; where it ran, none runs and its die state is cleared (R378). -/
def Partition.dropContext (x : Partition) (c : Nat) : Partition :=
  let evicting := match x.evicting with
    | some (j, o) => if o = c then none else some (j, o)
    | none => none
  let x : Partition := { x with contexts := Sparse.erase x.contexts c, evicting, lastIn := if x.lastIn = some c then none else x.lastIn }
  if x.running = some c then { x.cleared with running := none } else x

/-- Kill a context's job, write its record and free its pair or its place (R378, R380). -/
def State.destroyContext (s : State) (e : CmdEntry) (p c : Nat) : State :=
  let s := s.endJob p c .killed .killed 0 true
  let s := s.endActive .killed (fun _ o a => namesContext o && a.part == e.part && a.ctx == e.ctx)
  match s.partition? p with
  | none => s
  | some x =>
    let record := ((x.context? c).map (fun v => counterRecord c v.counters)).getD []
    let s := s.reply e record
    let s := if x.running = some c then s.clearRims x else s
    s.setPartition p (x.dropContext c)

/-- CONTEXT_DESTROY (R378, R402). -/
def execContextDestroy (q : Request) (s : State) : Out :=
  s.serve q 0x0101 (refuseIf (decide (q.entry.len.toNat < 96)) .badParam) (fun _ t =>
    (t.destroyContext q.entry q.entry.part.toNat q.entry.ctx.toNat).done q 0x0101 .ok [])

/-- Why `CONTEXT_WINDOW` is refused (R408, R473). -/
def State.windowCheck (s : State) (e : CmdEntry) : Option Status :=
  let base := paramPair e 0
  let len := paramPair e 2
  if base % 4096 ≠ 0 ∨ len % 4096 ≠ 0 then some .badParam
  else match s.live? e.part.toNat with
    | none => none
    | some x => refuseIf (!x.extents.all (fun t => decide (base ≤ t.1) && decide (t.2 ≤ base + len))) .ctxWindow

/-- The partition with a context window; a larger one ends the lack of room for an eviction (R370). -/
def Partition.withWindow (x : Partition) (base len : Nat) : Partition :=
  let larger : Bool := match x.window with | some (_, n) => decide (n < len) | none => true
  { x with window := some (base, len), windowFullPosted := x.windowFullPosted && !larger }

/-- CONTEXT_WINDOW (R370, R408). -/
def execContextWindow (q : Request) (s : State) : Out :=
  let p := q.entry.part.toNat
  s.serve q 0x0102 (s.windowCheck q.entry) (fun _ t =>
    match t.partition? p with
    | none => t
    | some x =>
      (t.setPartition p (x.withWindow (paramPair q.entry 0) (paramPair q.entry 2))).done q 0x0102 .ok [])

end Sys2Proof.Machine
end

