-- ==== Sys2Proof/Machine/Jobs.lean ====
section
/-! DEFINITION. The commands of a job: loading and unloading a pattern, running steps, moving stack data, checkpoints and the
sequence table (spec/13_flauri_commands.md R403–R409, R413, R414, spec/12_partitions_and_contexts.md R371,
spec/15_reliability_and_sparing.md R456–R462, spec/11_sequences_and_kv_cache.md R315, R320, R321, R334, R335, R345), and the
completion of a stack transaction (spec/09_stack_memory.md R258–R261, R268). -/

namespace Sys2Proof.Machine

/-! ### LOAD_PATTERN (R403, R414, R461) -/

/-- An M-tile that runs nothing, with its SRAM, accumulators and activity level (log entry 53). -/
def MTile.fresh (t : MTile) : MTile :=
  { MTile.zeroed with sram := t.sram, acc := t.acc, level := t.level, target := t.target, heldLevel := t.heldLevel, idle := t.idle }

/-- A V-tile that runs nothing, with its SRAM and registers. -/
def VTile.fresh (t : VTile) : VTile := { VTile.zeroed with sram := t.sram, regs := t.regs }

/-- A core that runs nothing, with its registers. -/
def Core.fresh (c : Core) : Core := { Core.zeroed with x := c.x }

/-- C-tile 3 with the sequence-table runtime installed: its SRAM and its four cores (R315; log entry 73). -/
def Die.installRuntime (d : Die) : Die :=
  ({ d with c := d.c.filter (fun e => decide (e.1 < 12)) } : Die).setMemory 24 (Mem.writeBytes [] 0 (Config.sequenceRuntime.take (64 * ctileUnits)))

/-- Place a pattern on a die (R130, R180, R315, R403, R524): its credit tables and initial contents, events and conflict counters at
zero, nothing under way, and the runtime where the image has a sequence table. -/
def Die.load (d : Die) (q : DiePattern) : Die :=
  let d := d.landStores (fun _ => true)
  let d := { Die.zeroed with
    m := Sparse.mapVals (fun _ t => t.fresh) d.m,
    v := Sparse.mapVals (fun _ t => t.fresh) d.v,
    c := Sparse.mapVals (fun _ c => c.fresh) d.c,
    csram := d.csram, buffer := d.buffer, parityBad := d.parityBad,
    credits := (q.credits.zipIdx.filter (fun e => e.1.valid)).map (fun e => (e.2, e.1)) }
  let d := if q.seqCfg.isSome then d.installRuntime else d
  q.contents.foldl (fun d e => d.writeMem e.mem (64 * e.base) e.data) d

/-- Rims at the load of a pattern (R310): no engine work, counters at zero. -/
def RimContext.load (r : RimContext) : RimContext := { RimContext.idle with frames := r.frames }

/-- Dies `0` to `n` − 1 with a pattern placed over what `was` holds. -/
def Pattern.place (q : Pattern) (n : Nat) (was : SMap Die) : SMap Die :=
  (List.range n).map (fun d => (d, (Sparse.getD Die.zeroed was d).load (q.die d)))

/-- A saved context with a pattern placed (R403). -/
def Saved.load (z : Saved) (q : Pattern) (n : Nat) : Saved :=
  { Saved.zeroed with slot := z.slot, dies := q.place n z.dies, rims := z.rims.map RimContext.load }

/-- The partition's dies with the running context's pattern placed (R403). -/
def Partition.load (x : Partition) (q : Pattern) : Partition :=
  { x with
    dies := q.place x.size x.dies, edge := [], crossing := [], tether := [], response := .none, clamps := 0, unresolved := 0,
    run := { Run.reset with clock := x.run.clock, elapsed := x.run.elapsed, holds := x.run.holds, frozen := x.run.frozen,
                            frozenBeats := x.run.frozenBeats, unreconciled := x.run.unreconciled } }

/-- The step index a load starts at (R50, R461). -/
def Context.firstStep (v : Context) (q : Pattern) : Nat :=
  match v.restored with
  | some (hash, step) => if hash = q.hash then step else 0
  | none => 0

/-- The context with the pattern loaded, its table empty (R321, R324). -/
def Context.load (v : Context) (q : Pattern) : Context :=
  { v with pattern := some q, step := v.firstStep q, restored := none, seq := .empty }

/-- Begin the job of an accepted pattern (R371, R403, R334, R335). -/
def State.placePattern (s : State) (p c : Nat) (x : Partition) (v : Context) (q : Pattern) : State :=
  let w := v.load q
  let s :=
    if x.running = some c then
      let s := x.stackRims.foldl (fun t k => t.setRim k { (t.rim k).complete with ctx := (t.rim k).ctx.load }) s
      s.setPartition p (((x.load q).setContext c w).count c jobsStarted 1)
    else
      let saved := (v.saved.getD Saved.zeroed).load q x.size
      s.setPartition p ((x.setContext c { w with saved := some saved }).count c jobsStarted 1)
  match (q.die 0).seqCfg with
  | some g => s.clearLists p c g x.stackRims.length
  | none => s

/-- What a load refusal reports (R390, R414). -/
def Fail.words (f : Fail) : List W32 := [BitVec.ofNat 32 f.index, BitVec.ofNat 32 f.off]

/-- Count payload bytes over the host link for a context (R379). -/
def State.countHost (s : State) (p c n : Nat) : State :=
  match s.partition? p with
  | some x => s.setPartition p (x.count c Sys2Proof.Machine.hostBytes n)
  | none => s

/-- Read the image, apply the checks, and place the pattern or refuse it. -/
def State.loadPattern (s : State) (q : Request) (c : Picked) (p n : Nat) (x : Partition) (v : Context) : State :=
  if ¬ q.hostOk then s.transfer q c .hostAccess 0 []
  else
    let len := q.entry.len.toNat
    match s.checkImage p x (s.buffer q.entry len) with
    | .error f => (s.countHost p n len).transfer q c f.status f.detail f.words
    | .ok pat => ((s.placePattern p n x v pat).countHost p n len).transfer q c .ok 0 (words 12 pat.hash.toNat)

/-- The partition and the context that an entry names, with their numbers. -/
def State.named (s : State) (e : CmdEntry) : Option (Partition × Context) :=
  (s.live? e.part.toNat).bind (fun x => (x.context? e.ctx.toNat).map (fun v => (x, v)))

/-- Why a load or a restore is refused (R403, R460). -/
def State.patternCheck (s : State) (e : CmdEntry) : Option Status :=
  match s.named e with
  | some (_, v) => refuseIf v.pattern.isSome .busy
  | none => none

/-- LOAD_PATTERN (R403): the checks and the placement, and the completion when the image's transfer ends. -/
def execLoadPattern (q : Request) (s : State) : Out :=
  s.serve q 0x0110 (s.patternCheck q.entry) (fun c t =>
    match t.named q.entry with
    | some (x, v) => t.loadPattern q c q.entry.part.toNat q.entry.ctx.toNat x v
    | none => t)

/-! ### UNLOAD_PATTERN (R404) -/

/-- Why `UNLOAD_PATTERN` and `RUN_STEPS` are refused for want of a pattern. -/
def State.unloadCheck (s : State) (e : CmdEntry) : Option Status :=
  match s.named e with
  | some (_, v) => refuseIf v.pattern.isNone .noPattern
  | none => none

/-- End the job: completed when no step is commanded, else killed and cleared; class C commands picked up before it that have not
started are killed. -/
def State.unload (s : State) (k : Nat) (w : Picked) (e : CmdEntry) (p c : Nat) (v : Context) : State :=
  let s := s.endWaiting .killed (some (k, w.order)) (fun _ o a => classC o && a.part == e.part && a.ctx == e.ctx)
  if v.steps.isNone then s.endJob p c .completed .killed 0 false else s.endJob p c .killed .killed 0 true

/-- UNLOAD_PATTERN. -/
def execUnloadPattern (q : Request) (s : State) : Out :=
  s.serve q 0x0111 (s.unloadCheck q.entry) (fun w t =>
    match t.named q.entry with
    | some (_, v) => (t.unload (ringNumber q.ring) w q.entry q.entry.part.toNat q.entry.ctx.toNat v).done q 0x0111 .ok []
    | none => t)

/-! ### RUN_STEPS (R361, R405) -/

/-- Why `RUN_STEPS` is refused. -/
def State.runCheck (s : State) (e : CmdEntry) : Option Status :=
  (s.unloadCheck e).orElse (fun _ => refuseIf (decide (paramAt e 0 < 1) || decide (65535 < paramAt e 0)) .badParam)

/-- The context with steps commanded. -/
def Context.command (v : Context) (k : Nat) (e : CmdEntry) : Context :=
  { v with steps := some { ring := k, entry := e, total := paramAt e 0, done := 0, entries := 1, belay := 0, energy := 0 } }

/-- RUN_STEPS: the context becomes runnable, and a completion follows each step. -/
def execRunSteps (q : Request) (s : State) : Out :=
  let p := q.entry.part.toNat
  s.serve q 0x0112 (s.runCheck q.entry) (fun c t =>
    match t.named q.entry with
    | some (x, v) =>
      (t.setPartition p (x.runnableNow q.entry.ctx.toNat t.time (v.command (ringNumber q.ring) q.entry))).goesOn
        (ringNumber q.ring) c .steps
    | none => t)

/-! ### STACK_WRITE and STACK_READ (R409) -/

/-- A range of `n` bytes at partition stack address `a` lies in the span (R254, R358). -/
def Partition.rangeOk (x : Partition) (a n : Nat) : Bool :=
  decide (a / 2 ^ 37 < x.stackRims.length) && decide (withinStack a + n ≤ 64 * x.spanUnits)

/-- Why a transfer is refused (R401, R409). -/
def State.stackCheck (s : State) (e : CmdEntry) : Option Status :=
  if e.len.toNat % 64 ≠ 0 then some .badParam
  else match s.live? e.part.toNat with
    | some x => refuseIf (!x.rangeOk (paramPair e 0) e.len.toNat) .stackRegion
    | none => none

/-- Bytes of a transfer as they arrive: what the source holds, or free bytes where the link reported the access as failed (R473;
log entry 54). -/
def State.arrived (s : State) (ok : Bool) (bs : List Byte) : List Byte × State := if ok then (bs, s) else s.freeBytes bs.length

/-- The rims that a transfer of `n` bytes from byte `a` of every stack goes through serve it now (R265, R273, R308). -/
def State.stacksReady (s : State) (p a n : Nat) : Bool :=
  ((s.partition? p).map (fun x => (List.range x.stackRims.length).all (fun i => s.remoteReady p (64 * i * stackUnits + a) n))).getD true

/-- STACK_WRITE: it starts once the rim serves it. -/
def execStackWrite (q : Request) (s : State) : Out :=
  let p := q.entry.part.toNat
  let c := q.entry.ctx.toNat
  let n := q.entry.len.toNat
  s.serveWhen q 0x0113 (s.stackCheck q.entry) (s.remoteReady p (paramPair q.entry 0) n) (fun w t =>
    let (bs, t) := t.arrived q.hostOk (t.buffer q.entry n)
    ((t.writeSpanBytes p c (paramPair q.entry 0) bs).countHost p c n).transfer q w
      (if q.hostOk then .ok else .hostAccess) 0 [])

/-- STACK_READ: it starts once the rim serves it. -/
def execStackRead (q : Request) (s : State) : Out :=
  let p := q.entry.part.toNat
  let c := q.entry.ctx.toNat
  let n := q.entry.len.toNat
  s.serveWhen q 0x0114 (s.stackCheck q.entry) (s.remoteReady p (paramPair q.entry 0) n) (fun w t =>
    let (bs, t) := t.spanBytes p c (paramPair q.entry 0) n
    let (bs, t) := t.arrived q.hostOk bs
    ((t.reply q.entry bs).countHost p c n).transfer q w (if q.hostOk then .ok else .hostAccess) 0 [])

/-! ### CHECKPOINT and RESTORE (R456–R461) -/

/-- Why `CHECKPOINT` is refused (R456). -/
def State.checkpointCheck (s : State) (e : CmdEntry) : Option Status :=
  let a := paramPair e 0
  let n := paramPair e 2
  let m := paramPair e 4
  match s.live? e.part.toNat with
  | none => none
  | some x =>
    refuseIf (n % 64 != 0 || decide (2 ^ 37 ≤ a) || decide (2 ^ 37 ≤ m) || !x.rangeOk a n || !x.rangeOk m n
      || (decide (a < m + n) && decide (m < a + n)) || decide (e.len.toNat < 4096 + x.stackRims.length * n)) .badParam

/-- CHECKPOINT (R457): the context is blocked until it completes. -/
def execCheckpoint (q : Request) (s : State) : Out :=
  let p := q.entry.part.toNat
  s.serve q 0x0115 (s.checkpointCheck q.entry) (fun c t =>
    match t.named q.entry with
    | some (x, v) =>
      (t.setPartition p (x.setContext q.entry.ctx.toNat
        { v with checkpoint := some ⟨ringNumber q.ring, q.entry, t.time⟩ })).goesOn (ringNumber q.ring) c .checkpoint
    | none => t)

/-- A checkpoint in host memory: bytes per stack, step, pattern hash, data hash (R458). -/
structure CheckpointHeader where
  magic : Nat
  stackCount : Nat
  step : Nat
  size : Nat
  pattern : BitVec 384
  dataHash : BitVec 384
  deriving DecidableEq, Repr

def CheckpointHeader.ofBytes (bs : List Byte) : CheckpointHeader :=
  ⟨field bs 0 4, field bs 5 1, field bs 8 8, field bs 16 8, BitVec.ofNat 384 (field bs 56 48), BitVec.ofNat 384 (field bs 104 48)⟩

/-- `MAGIC`, `STACKS` and `LEN` agree with the partition (R460). -/
def CheckpointHeader.agrees (h : CheckpointHeader) (nStacks len : Nat) : Bool :=
  h.magic == 0x47434B31 && h.stackCount == nStacks && decide (4096 + nStacks * h.size ≤ len)

/-- Write the stacks' data of a checkpoint into the range of every stack. -/
def State.restoreData (s : State) (p c nStacks a n : Nat) (bs : List Byte) : State :=
  foldRange nStacks s (fun t i => t.writeSpanBytes p c (64 * i * stackUnits + a) (slice bs (n * i) n))

/-- Read a checkpoint, check it and write its data (R460, R461). A range that leaves the span is a parameter outside its range. -/
def State.restore (s : State) (q : Request) (w : Picked) (p c : Nat) (x : Partition) (v : Context) : State :=
  let e := q.entry
  let n := x.stackRims.length
  let h := CheckpointHeader.ofBytes (s.buffer e 4096)
  let a := withinStack (paramPair e 0)
  if ¬ q.hostOk then s.transfer q w .hostAccess 0 []
  else if e.len.toNat < 4096 ∨ ¬ h.agrees n e.len.toNat then s.transfer q w .badParam 1 []
  else if ¬ x.rangeOk a h.size then s.transfer q w .badParam 0 []
  else
    let bs := s.hostBytes (e.addr.toNat + 4096) (n * h.size)
    if Config.sha384 bs ≠ h.dataHash then
      let (free, s) := s.freeBytes (n * h.size)
      ((s.restoreData p c n a h.size free).countHost p c (4096 + n * h.size)).transfer q w .badParam 2 []
    else
      let s := s.setPartition p (x.setContext c { v with restored := some (h.pattern, h.step) })
      ((s.restoreData p c n a h.size bs).countHost p c (4096 + n * h.size)).transfer q w .ok 0 []

/-- The rims serve the data of the checkpoint that an entry names. -/
def State.restoreReady (s : State) (e : CmdEntry) : Bool :=
  s.stacksReady e.part.toNat (withinStack (paramPair e 0)) (CheckpointHeader.ofBytes (s.buffer e 4096)).size

/-- RESTORE: it starts once the rims serve it. -/
def execRestore (q : Request) (s : State) : Out :=
  s.serveWhen q 0x0116 (s.patternCheck q.entry) (s.restoreReady q.entry) (fun c t =>
    match t.named q.entry with
    | some (x, v) => t.restore q c q.entry.part.toNat q.entry.ctx.toNat x v
    | none => t)

/-! ### The sequence table (R319–R321, R406, R407) -/

/-- The sequence-table configuration of a context's pattern. -/
def Context.seqCfg (v : Context) : Option SeqConfig := v.pattern.bind (fun q => (q.die 0).seqCfg)

/-- Why a command that the hub holds for a table phase is refused (R320, R406, R407); lateness was judged when it was picked up. -/
def State.heldCheck (s : State) (q : Request) (opcode : Nat) : Option Status :=
  let e := q.entry
  match s.named e with
  | none => none
  | some (x, v) =>
    if v.seqCfg.isNone then some .noSeqTable
    else if (s.picked? q opcode).any (·.late) then some .seqLate
    else refuseIf (x.running != some e.ctx.toNat && decide (4096 ≤ v.heldSeq.length)) .busy

/-- Hold a command for the table phase of its effective step. -/
def State.holdSeq (s : State) (q : Request) (c : Picked) (isAdmit : Bool) : State :=
  match s.named q.entry with
  | none => s
  | some (x, v) =>
    let v := { v with heldSeq := v.heldSeq ++ [⟨ringNumber q.ring, q.entry, isAdmit⟩] }
    (s.setPartition q.entry.part.toNat (x.setContext q.entry.ctx.toNat v)).goesOn (ringNumber q.ring) c .sequence

/-- SEQ_ADMIT (R406). -/
def execSeqAdmit (q : Request) (s : State) : Out :=
  s.serve q 0x0120 (s.heldCheck q 0x0120) (fun c t => t.holdSeq q c true)

/-- SEQ_SWAP_WINDOW (R345, R473): its base is 4 KiB aligned. -/
def execSeqSwapWindow (q : Request) (s : State) : Out :=
  s.serve q 0x0121 ((refuseIf (paramPair q.entry 0 % 4096 != 0) .badParam).orElse (fun _ => s.heldCheck q 0x0121))
    (fun c t => t.holdSeq q c false)

/-- Why `SEQ_READ` is refused (R401, R407). -/
def State.seqReadCheck (s : State) (e : CmdEntry) : Option Status :=
  match s.named e with
  | none => none
  | some (_, v) =>
    match v.seqCfg with
    | none => some .noSeqTable
    | some g => refuseIf (decide (g.slots < paramAt e 0 + paramAt e 1) || decide (e.len.toNat < 64 * paramAt e 1)) .badParam

/-- SEQ_READ (R319, R407): the entries as the last table phase left them. -/
def execSeqRead (q : Request) (s : State) : Out :=
  let e := q.entry
  s.serve q 0x0122 (s.seqReadCheck e) (fun _ t =>
    match t.named e with
    | none => t
    | some (_, v) =>
      let bs := (List.range (paramAt e 1)).flatMap (fun i => v.seq.slotBytes (paramAt e 0 + i))
      ((t.reply e bs).countHost e.part.toNat e.ctx.toNat bs.length).done q 0x0122 .ok [])

/-! ### Stack transactions (R258–R261, R268) -/

/-- Where unit `u` of rim `k` lies in context `c` of the partition: its stack index and its unit within the span. -/
def Partition.spanPlace (x : Partition) (c k u : Nat) : Option (Nat × Nat) :=
  match x.stackIndex k, (x.context? c).bind Context.slot? with
  | some i, some j => if u / x.spanUnits = j then some (i, u % x.spanUnits) else none
  | _, _ => none

/-- Byte of the buffer of a `STACK_READ` in progress that unit `u` of rim `k` begins at, where the command reads the unit. -/
def State.readsAt (s : State) (k u : Nat) (a : Active) : Option Int :=
  let e := a.entry
  match a.opcode, a.progress, (s.live? e.part.toNat).bind (fun x => x.spanPlace e.ctx.toNat k u) with
  | 0x0114, .transfer _ _ _, some (i, w) =>
    let o : Int := ((64 * (i * stackUnits + w) : Nat) : Int) - ((paramPair e 0 : Nat) : Int)
    if -64 < o ∧ o < (e.len.toNat : Int) then some o else none
  | _, _, _ => none

/-- The first `STACK_READ` in progress that reads unit `u` of rim `k`, with its ring and the unit's place in its buffer. -/
def State.stackReader (s : State) (k u : Nat) : Option (Nat × Active × Int) :=
  s.rings.findSome? (fun r => r.2.active.findSome? (fun a => (s.readsAt k u a).map (fun o => (r.1, a, o))))

/-- Bytes `o` to `o` + 63 of a read's buffer hold free bytes. -/
def State.spoilBuffer (s : State) (a : Active) (o : Int) : State :=
  let (bs, s) := s.freeBytes 64
  let n := a.entry.len.toNat
  foldRange 64 s (fun t i =>
    let b := o + (i : Int)
    if 0 ≤ b ∧ b < (n : Int) then t.hostWrite (a.entry.addr.toNat + b.toNat) [bs.getD i 0] else t)

/-- The command completes with a status of its own. -/
def Active.ends (a : Active) (st : Status) : Active := { a with progress := .transfer st 0 [] }

/-- A read of the remote path that the rim cannot correct (R260): a hardware fault, no data delivered, and the command that it
belongs to ends with the fault's code (log entry 116). -/
def State.failRead (s : State) (k u j : Nat) (a : Active) (o : Int) : State :=
  let s := s.spoilBuffer a o
  let r := s.ring j
  (s.setRing j { r with active := r.active.map (fun b => if b = a then a.ends .hwStackUe else b) }).uncorrectable k u false

/-- Unit `u` of rim `k` is read by a swap copy or a checkpoint in progress (R342, R457). -/
def State.copyReads (s : State) (k u : Nat) : Bool :=
  s.partitions.any (fun e => e.2.contexts.any (fun v =>
    match e.2.spanPlace v.1 k u with
    | none => false
    | some (i, w) =>
      let frame : Bool := match v.2.pattern.bind (fun q => (q.die 0).seqCfg) with
        | some g => v.2.seq.copies.any (fun y => y.toHost && y.stack == i && decide (g.frameUnit y.frame ≤ w)
            && decide (64 * w < 64 * g.frameUnit y.frame + g.frameBytes))
        | none => false
      let mirror : Bool := match v.2.checkpoint with
        | some c =>
          let n := paramPair c.entry 2 / 64
          let holds (a : Nat) : Bool := decide (a / 64 ≤ w) && decide (w < a / 64 + n)
          holds (withinStack (paramPair c.entry 0)) || holds (withinStack (paramPair c.entry 4))
        | none => false
      frame || mirror))

/-- A read of the remote path completes with a number of wrong symbols (R258–R261); what a copy reads beyond what the code detects is
left as it is (log entry 116). -/
def State.remoteCompletes (s : State) (k u symbols : Nat) : State :=
  let noted := s.setRim k ((s.rim k).noteCorrection u symbols s.timeUs)
  match s.stackReader k u with
  | some (j, a, o) =>
    if symbols = 0 then s
    else if symbols ≤ 3 then noted
    else if symbols ≤ 5 ∨ Config.eccDetects s.fresh then ({ s with fresh := s.fresh + 1 } : State).failRead k u j a o
    else ({ s with fresh := s.fresh + 1 } : State).spoilBuffer a o
  | none =>
    if ¬ s.copyReads k u ∨ symbols = 0 then s
    else if symbols ≤ 3 then noted
    else if symbols ≤ 5 ∨ Config.eccDetects s.fresh then ({ s with fresh := s.fresh + 1 } : State).uncorrectable k u false
    else { s with fresh := s.fresh + 1 }

/-- TRANSACTION_COMPLETE (R258–R261, R268): a stack read completes, the oldest of its unit that the controller holds, or one of the
remote path. -/
def execTransactionComplete (rim : RimId) (unit : BitVec 31) (symbols : Fin 73) (s : State) : Out :=
  let r := s.rim rim
  if r.thermal = .stopped then .next s
  else match r.outstanding.find? (fun t => t.unit == unit.toNat) with
    | some t => .next (s.readCompletes rim t symbols)
    | none => .next (s.remoteCompletes rim unit.toNat symbols)

end Sys2Proof.Machine
end

