-- ==== Sys2Proof/Machine/Security.lean ====
section
/-! DEFINITION. Sessions, attestation, IDE keys, firmware update and the debug port
(spec/16_host_link_and_security.md R482–R495). -/

namespace Sys2Proof.Machine

/-- Exactly `n` bytes: what is given, zeros after it. -/
def fit (n : Nat) (bs : List Byte) : List Byte := (bs ++ zeroBytes n).take n

/-- The info text of R488. -/
def sessionInfo : List Byte := "GQ4 session".toList.map (fun c => BitVec.ofNat 8 c.toNat)

/-! ### SESSION_OPEN (R488) -/

/-- What the module writes at byte 128 of the session buffer. -/
def sessionReply (host pub nonce : List Byte) : List Byte :=
  let mine := fit 97 pub ++ zeroBytes 31 ++ nonce
  mine ++ fit 96 (Config.identitySign (host ++ mine)) ++ zeroBytes 128

/-- The exchange, with ephemeral key number `keyNumber`. -/
def State.openSession (s : State) (q : Request) : State :=
  let host := s.buffer q.entry 128
  match Config.ecdh s.keyNumber (slice host 0 97) with
  | none => s.done q 0x0020 .auth []
  | some x =>
    let pub := Config.ephemeralPublic s.keyNumber
    let (nonce, s) := s.entropyBytes 32
    let s : State := { s with keyNumber := s.keyNumber + 1,
                              session := some ⟨Config.hkdf x nonce sessionInfo, nonce, none⟩ }
    (s.hostWrite (q.entry.addr.toNat + 128) (sessionReply host pub nonce)).done q 0x0020 .ok []

/-- SESSION_OPEN. -/
def execSessionOpen (q : Request) (s : State) : Out :=
  s.serve q 0x0020 (refuseIf (decide (q.entry.len.toNat < 512)) .badParam) (fun _ t => t.openSession q)

/-! ### ATTEST (R489) -/

/-- What `CONFIG_HASH` is taken over; the spec does not give the bytes (log entry 55). -/
def State.configFields (s : State) : List Nat :=
  [s.features.toNat, s.part.code, leNat s.spareRecord] ++ s.partitions.flatMap (fun e =>
    let x := e.2
    [x.col0, x.row0, x.width, x.height, x.stackMask, x.reserve, x.split.1, x.split.2.1, x.split.2.2, x.reductionWays,
     if x.sitOutMode then 1 else 0, x.slots, x.hostShare, x.quantum, x.share])

/-- `PATTERN_HASH` of a partition. -/
def State.patternHash (s : State) (p : Nat) : Nat :=
  (((s.partition? p).bind Partition.pattern?).map (fun q => q.hash.toNat)).getD 0

/-- Bytes 0–927 of the report. -/
def State.attestBody (s : State) (e : CmdEntry) : List Byte :=
  let fw := s.runningImage
  leBytes 4 0x47545341 ++ leBytes 1 1 ++ leBytes 1 (if s.debugOpen then 1 else 0) ++ zeroBytes 2 ++ leBytes 8 s.bootCount
    ++ leBytes 1 (field fw 4 1) ++ leBytes 3 (field fw 5 3) ++ leBytes 4 (fwSvn fw)
    ++ (List.range 8).flatMap (fun i => leBytes 4 (paramAt e i))
    ++ leBytes 48 (Config.sha384 fw).toNat ++ leBytes 48 (Config.sha384 (Config.configBytes s.configFields)).toNat
    ++ (List.range 16).flatMap (fun p => leBytes 48 (s.patternHash p)) ++ zeroBytes 8

/-- The report and the certificate chain. -/
def State.attestation (s : State) (e : CmdEntry) : List Byte :=
  let body := s.attestBody e
  body ++ fit 96 (Config.identitySign body) ++ Config.certificateChain

/-- ATTEST. -/
def execAttest (q : Request) (s : State) : Out :=
  let bs := (s.attestation q.entry).take q.entry.len.toNat
  s.serve q 0x0021 (refuseIf (decide (q.entry.len.toNat < 9216)) .badParam) (fun _ t =>
    (t.reply q.entry bs).done q 0x0021 .ok [BitVec.ofNat 32 bs.length])

/-! ### IDE_KEY (R491) -/

/-- The plain text of a sealed block that the session accepts: none without a session, for a stale `SEQ` or a false tag. -/
def State.unseal (s : State) (bs : List Byte) : Option (Session × List Byte) :=
  match s.session with
  | none => none
  | some z =>
    let fresh : Bool := match z.seqMax with | none => true | some m => decide (m < field bs 0 8)
    if fresh then
      (Config.gcmOpen z.key (slice bs 0 8 ++ zeroBytes 4) (slice bs 0 16) (slice bs 16 128) (slice bs 144 16)).map
        (fun t => ({ z with seqMax := some (field bs 0 8) }, t))
    else none

/-- Completions and events that waited for the stream are posted (R492). -/
def State.resumePosts (s : State) : State := s.rings.foldl (fun t e => (t.drainUnposted e.1).drainEvents e.1) s

/-- Install the receive key set at once; the set before it is accepted for 1 s, and host accesses go on (R491, R492). -/
def State.installKeys (s : State) (z : Session) (plain : List Byte) : State :=
  let k := field plain 0 1
  State.resumePosts { s with
    session := some z,
    ide := { s.ide with
      secure := true, keys := Sparse.set s.ide.keys k (slice plain 16 88), current := some k,
      old := if s.ide.current = some k then none else s.ide.current, installed := s.time } }

/-- IDE_KEY: a key set is 0 or 1. -/
def execIdeKey (q : Request) (s : State) : Out :=
  s.serve q 0x0022 (refuseIf (decide (q.entry.len.toNat < 160)) .badParam) (fun _ t =>
    match t.unseal (t.buffer q.entry 160) with
    | none => t.done q 0x0022 .auth []
    | some (z, plain) =>
      if 1 < field plain 0 1 then t.done q 0x0022 .badParam [] else (t.installKeys z plain).done q 0x0022 .ok [])

/-! ### FW_UPDATE (R482, R483, R485) -/

/-- `DETAIL` of a failed check; none where the image verifies. -/
def State.fwFault (s : State) (bs : List Byte) : Option Nat :=
  if ¬ fwShape bs ∨ ¬ s.fwSigned bs then some 1
  else if fwSvn bs < s.minSvn then some 2
  else if ¬ fwBodyOk bs then some 3
  else none

/-- Write the inactive slot and mark it active. -/
def State.installFirmware (s : State) (bs : List Byte) : State :=
  let slot := 1 - s.activeSlot
  { s with firmware := Sparse.set s.firmware slot ⟨fwBytes bs⟩, activeSlot := slot }

/-- FW_UPDATE. -/
def execFwUpdate (q : Request) (s : State) : Out :=
  let bs := s.buffer q.entry q.entry.len.toNat
  s.serve q 0x0023 none (fun _ t =>
    match t.fwFault bs with
    | some d => t.complete (ringNumber q.ring) 0x0023 q.entry .auth d []
    | none => (t.installFirmware bs).done q 0x0023 .ok [BitVec.ofNat 32 (fwVersion bs)])

/-! ### DEBUG_UNLOCK (R494, R495) -/

/-- Bytes of a token that are zero. -/
def tokenZeros (bs : List Byte) : Bool := (slice bs 4 4 ++ slice bs 161 159 ++ slice bs 416 96).all (fun b => b == 0)

/-- A token is valid for this module and this cast-on. -/
def State.tokenOk (s : State) (bs : List Byte) : Bool :=
  let key := slice bs 64 97
  field bs 0 4 == 0x47444231 && slice bs 8 48 == leBytes 48 (Config.sha384 Config.identityPublic).toNat
    && field bs 56 8 == s.bootCount && tokenZeros bs
    && ((s.keyIntact 0 && decide (Config.sha384 key = Config.keyHash 0))
        || (s.keyIntact 1 && decide (Config.sha384 key = Config.keyHash 1)))
    && Config.ecdsaVerify key (slice bs 0 320) (slice bs 320 96)

/-- Destroy every partition and every volatile key; the port opens once teardown is complete (R495; log entry 124). -/
def State.unlockDebug (s : State) (q : Request) (c : Picked) : State :=
  let s := s.partitions.foldl (fun t e => if e.2.teardown then t else t.destroy e.1 e.2 (some (ringNumber q.ring, c.order))) s
  let s : State := { s with session := none, ide := .unused, debugWait := some (ringNumber q.ring, q.entry) }
  (s.goesOn (ringNumber q.ring) c .destroy).openDebug

/-- DEBUG_UNLOCK. -/
def execDebugUnlock (q : Request) (s : State) : Out :=
  s.serve q 0x0024 (refuseIf (decide (q.entry.len.toNat < 512)) .badParam) (fun c t =>
    if t.tokenOk (t.buffer q.entry 512) then t.unlockDebug q c else t.done q 0x0024 .auth [])

end Sys2Proof.Machine
end

