-- ==== Sys2Proof/Machine/VTile.lean ====
section
/-! DEFINITION. Meanings of the V-tile rows: lane arithmetic, special functions, row reductions, conversions, SRAM access,
remote writes, events and loops (spec/04_vector_and_control_tiles.md, spec/05_scratchpads.md R123–R129). -/

namespace Sys2Proof.Machine

/-! ### Lane arithmetic -/

/-- Element halves of a paired bf16 lane (R86). -/
def loHalf (w : W32) : Nat := w.toNat % 65536

def hiHalf (w : W32) : Nat := w.toNat / 65536

def pairLane (lo hi : Nat) : W32 := BitVec.ofNat 32 (lo + 65536 * hi)

/-- Apply an operation on numbers to a lane, rounded once (R29): one FP32 element, or two bf16 elements. -/
def numLane (ty : Nat) (f : Num → Num → Num → Num) (a b c : W32) : W32 :=
  if ty = 1 then
    pairLane (Num.toBf16 (f (bf16.decode (loHalf a)) (bf16.decode (loHalf b)) (bf16.decode (loHalf c))))
      (Num.toBf16 (f (bf16.decode (hiHalf a)) (bf16.decode (hiHalf b)) (bf16.decode (hiHalf c))))
  else Num.toFp32 (f (Num.ofFp32 a) (Num.ofFp32 b) (Num.ofFp32 c))

/-- `FSGN` on one element of `n` bits (R95): `fmt` gives the NaN test and the canonical NaN. -/
def signElem (fmt : Fmt) (fn a b : Nat) : Nat :=
  let m := 2 ^ fmt.magBits
  if (fmt.decode a).isNan then fmt.nanCode
  else match fn with
    | 0 => a % m
    | 1 => if a < m then a + m else a - m
    | _ => a % m + (b / m) * m

/-- `FCMP` on two numbers (R90, R95). -/
def compareElem (fn : Nat) (a b : Num) : Bool :=
  match fn, Num.compare a b with
  | 3, none => true
  | 3, some _ => false
  | _, none => false
  | 0, some o => o == .eq
  | 1, some o => o == .lt
  | _, some o => o != .gt

/-- `IALU` on one lane (R90, R95): shift counts are bits [4:0] of b. -/
def ialuLane (fn : Nat) (a b : W32) : W32 :=
  let k := b.toNat % 32
  match fn with
  | 0 => a + b
  | 1 => a - b
  | 2 => a &&& b
  | 3 => a ||| b
  | 4 => a ^^^ b
  | 5 => a <<< k
  | 6 => a >>> k
  | 7 => a.sshiftRight k
  | 8 => if a.toInt < b.toInt then a else b
  | 9 => if a.toInt < b.toInt then b else a
  | _ => a * b

/-- `SFU` on one lane (R96, R97): a bf16 element goes through FP32 and is rounded once. -/
def sfuLane (ty fn : Nat) (a : W32) : W32 :=
  if ty = 1 then
    let go (h : Nat) : Nat := Num.toBf16 (Num.ofFp32 (sfuFp32 fn (BitVec.ofNat 32 (h * 65536))))
    pairLane (go (loHalf a)) (go (hiHalf a))
  else sfuFp32 fn a

/-- One lane of an arithmetic, comparison, select or special-function instruction (R90). `SEL` tests the bits of c against zero in
every `TYPE`, so −0.0 selects a (log entry 94). -/
def aluLane (f : VFields) (a b c : W32) : W32 :=
  match f.op with
  | 0x01 => numLane f.ty (fun x y _ => Num.add x y) a b c
  | 0x02 => numLane f.ty (fun x y _ => Num.add x y.neg) a b c
  | 0x03 => numLane f.ty (fun x y _ => Num.mul x y) a b c
  | 0x04 => numLane f.ty (fun x y z => Num.add (Num.mul x y) z) a b c
  | 0x05 => numLane f.ty (fun x y z => Num.add z (Num.mul x y).neg) a b c
  | 0x06 => numLane f.ty (fun x y _ => Num.minimum x y) a b c
  | 0x07 => numLane f.ty (fun x y _ => Num.maximum x y) a b c
  | 0x08 =>
    if f.ty = 1 then pairLane (signElem bf16 f.fn (loHalf a) (loHalf b)) (signElem bf16 f.fn (hiHalf a) (hiHalf b))
    else BitVec.ofNat 32 (signElem fp32 f.fn a.toNat b.toNat)
  | 0x09 =>
    if f.ty = 1 then
      let go (x y : Nat) : Nat := if compareElem f.fn (bf16.decode x) (bf16.decode y) then 0xFFFF else 0
      pairLane (go (loHalf a) (loHalf b)) (go (hiHalf a) (hiHalf b))
    else if compareElem f.fn (Num.ofFp32 a) (Num.ofFp32 b) then 0xFFFFFFFF else 0
  | 0x0A =>
    if f.ty = 1 then
      pairLane (if loHalf c ≠ 0 then loHalf a else loHalf b) (if hiHalf c ≠ 0 then hiHalf a else hiHalf b)
    else if c ≠ 0 then a else b
  | 0x0B => ialuLane f.fn a b
  | _ => sfuLane f.ty f.fn a

/-- Write `VD` lane by lane from the three sources, read at issue (R92). -/
def aluTile (f : VFields) (x : VTile) : VTile :=
  x.setReg f.vd (mkLanes (fun i => aluLane f (lane (x.reg f.va) i) (lane (x.reg f.vb) i) (lane (x.reg f.vc) i)))

/-! ### Row reductions -/

/-- One stage of the tree: neighbours combined (R98). -/
def treeStage (op : W32 → W32 → W32) : List W32 → List W32
  | a :: b :: r => op a b :: treeStage op r
  | r => r

/-- The tree over 256 lanes (R98). -/
def treeReduce (op : W32 → W32 → W32) (p : List W32) : W32 := (foldRange 8 p (fun l _ => treeStage op l)).headD 0

/-- The operation of a row reduction on FP32 or int32 words (R98). -/
def reduceOp (f : VFields) (a b : W32) : W32 :=
  match f.op with
  | 0x21 => numLane 0 (fun x y _ => Num.maximum x y) a b 0
  | 0x22 => numLane 0 (fun x y _ => Num.minimum x y) a b 0
  | _ => if f.ty = 2 then a + b else numLane 0 (fun x y _ => Num.add x y) a b 0

/-- Lane `p[i]` of a register before the tree (R98, R100). -/
def reduceLane (f : VFields) (a b : W32) : W32 :=
  let half (h : Nat) : W32 := BitVec.ofNat 32 (h * 65536)
  if f.op = 0x23 then
    let mul (x y : W32) : W32 := numLane 0 (fun p q _ => Num.mul p q) x y 0
    if f.ty = 1 then reduceOp f (mul (half (loHalf a)) (half (loHalf b))) (mul (half (hiHalf a)) (half (hiHalf b)))
    else mul a b
  else if f.ty = 1 then reduceOp f (half (loHalf a)) (half (hiHalf a))
  else a

/-- The tree of register `k` of the run. -/
def registerTree (f : VFields) (x : VTile) (k : Nat) : W32 :=
  let a := x.reg (f.va + k)
  let b := x.reg (f.vb + k)
  treeReduce (reduceOp f) (mkLanes (fun i => reduceLane f (lane a i) (lane b i)))

/-- The reduction over the run, trees combined in ascending register order (R99). -/
def reduceRun (f : VFields) (x : VTile) : W32 :=
  foldRange f.cnt (registerTree f x 0) (fun s k => reduceOp f s (registerTree f x (k + 1)))

def reduceTile (f : VFields) (x : VTile) : VTile := x.setReg f.vd (mkLanes (fun _ => reduceRun f x))

/-! ### Conversions -/

/-- Bytes of a register (R86). -/
def regBytes (r : List W32) : List Byte := wordBytes ((List.range lanes).map (lane r))

/-- Replace bytes of a register from byte `at`. -/
def putRegBytes (r : List W32) (at_ : Nat) (bs : List Byte) : List W32 :=
  let old := regBytes r
  bytesToLanes (old.take at_ ++ bs ++ old.drop (at_ + bs.length))

/-- The seed, step, tile number and draw of R50 for a V-tile. -/
structure Draw where
  seed : W64
  step : Nat
  tile : Nat
  draw : Nat
  deriving DecidableEq, Repr

/-- The rounding of element `e` (R48–R50). -/
def roundingOf (f : VFields) (r : Draw) (e : Nat) : Rounding :=
  match f.rnd with
  | 1 => .towardZero
  | 2 => .stochastic (srDraw r.seed r.step r.tile r.draw e)
  | _ => .nearestEven

/-- `CVT` (R102). -/
def cvtTile (f : VFields) (r : Draw) (x : VTile) : VTile :=
  let src := x.reg f.va
  let at_ := f.slot * f.slotBytes
  let narrow (fmt : Fmt) (bytes : Nat) (toInf : Bool) : VTile :=
    x.setReg f.vd (putRegBytes (x.reg f.vd) at_ ((List.range lanes).flatMap (fun i =>
      leBytes bytes (fmt.encode (roundingOf f r i) toInf (Num.ofFp32 (lane src i))))))
  let widen (fmt : Fmt) (bytes : Nat) : VTile :=
    let bs := regBytes src
    x.setReg f.vd (mkLanes (fun i => Num.toFp32 (fmt.decode (leNat ((bs.drop (at_ + bytes * i)).take bytes)))))
  match f.fn with
  | 0 => narrow bf16 2 true
  | 1 => narrow e4m3 1 false
  | 2 => narrow e5m2 1 false
  | 3 => widen bf16 2
  | 4 => widen e4m3 1
  | 5 => widen e5m2 1
  | _ =>
    let bs := regBytes src ++ regBytes (x.reg (f.va + 1))
    x.setReg f.vd (mkLanes (fun i => ax64ToFp32 (BitVec.ofNat 64 (leNat ((bs.drop (8 * i)).take 8)))))

/-- Element `e` of the input of a `CVMX` (R86, R103). -/
def elementOf (ty : Nat) (r : List W32) (e : Nat) : Num :=
  if ty = 1 then bf16.decode ((if e % 2 = 0 then loHalf else hiHalf) (lane r (e / 2))) else Num.ofFp32 (lane r e)

/-- Pack element codes of `width` bits as one little-endian bit stream (R31). -/
def packCodes (width : Nat) (codes : List Nat) : Nat := codes.foldr (fun c acc => c + acc * 2 ^ width) 0

/-- `CVMX` (R103): elements into slot j of `VD`, then scales into bytes b × j + q of `VC`: the order where `VC` is `VD` is the
model's choice (log entry 95). -/
def cvmxTile (f : VFields) (r : Draw) (x : VTile) : VTile :=
  match operandFmt f.fn with
  | none => x
  | some o =>
    let src := x.reg f.va
    let blocks := (List.range f.blocks).map (fun q =>
      mxBlock o (fun i => roundingOf f r (32 * q + i)) ((List.range 32).map (fun i => elementOf f.ty src (32 * q + i))))
    let bytes := blocks.flatMap (fun b => leBytes (mxBlockBytes f.fn) (packCodes o.width b.2))
    let x := x.setReg f.vd (putRegBytes (x.reg f.vd) (f.slot * f.slotBytes) bytes)
    x.setReg f.vc (putRegBytes (x.reg f.vc) (f.blocks * f.slot) (blocks.map (fun b => BitVec.ofNat 8 b.1)))

/-- `DVMX` (R103); an element outside FP32's range or precision is rounded once to it (log entry 98). -/
def dvmxTile (f : VFields) (x : VTile) : VTile :=
  match operandFmt f.fn with
  | none => x
  | some o =>
    let bs := regBytes (x.reg f.va)
    let scales := regBytes (x.reg f.vb)
    let rd (i : Nat) : Byte := bs.getD i 0
    x.setReg f.vd (mkLanes (fun i =>
      let code := packedCode rd (f.slot * f.slotBytes) o.width i
      Num.toFp32 (mxDecode o.elem code (scales.getD (8 * f.slot + i / 32) 0).toNat)))

/-- `CVB` (R104). -/
def cvbTile (f : VFields) (x : VTile) : VTile :=
  let scales := regBytes (x.reg f.vb)
  let c := (lane (x.reg f.vc) 0).toNat
  x.setReg f.vd (mkLanes (fun i =>
    bsiToFp32 (lane (x.reg f.va) i) (scales.getD (4 * (f.imm.toNat % 64) + i / 64) 0).toNat c))

/-! ### Effects -/

/-- Where the word's operation changes only the tile. -/
def tileEffect (x : Site) (v : Nat) (tile : VTile) : Effect := .done (x.die.setVtile v tile)

/-- Accept V-tile words of one opcode. -/
def isV (op : Nat) (w : VOp) : Bool :=
  match w with
  | .word f => f.op == op
  | .loop .. => op == 0x3A

/-- Arithmetic, comparison, select, integer and special-function instructions. -/
def aluEffect (x : Site) (v : Nat) (tile : VTile) : VOp → Effect
  | .word f => tileEffect x v (aluTile f tile)
  | _ => .hold

def reduceEffect (x : Site) (v : Nat) (tile : VTile) : VOp → Effect
  | .word f => tileEffect x v (reduceTile f tile)
  | _ => .hold

/-- The draw inputs of a tile at a site (R50): tile number 32 × die + V-tile. -/
def drawOf (x : Site) (v : Nat) (tile : VTile) : Draw :=
  ⟨x.pat.seed, x.context.step, 32 * x.d + v, tile.draw⟩

/-- A stochastic instruction advances the tile's draw index (R50). -/
def drawn (f : VFields) (tile : VTile) : VTile :=
  if f.stochastic then { tile with draw := (tile.draw + 1) % 65536 } else tile

def convertEffect (x : Site) (v : Nat) (tile : VTile) (g : VFields → Draw → VTile → VTile) : VOp → Effect
  | .word f => tileEffect x v (drawn f (g f (drawOf x v tile) tile))
  | _ => .hold

/-- Bank conflict counter `b` of V-tile `v` (R116, R129): after 8 × 32 M-tile operand and 8 × 2 accumulator banks. -/
def vBank (v b : Nat) : Nat := 272 + 32 * v + b

/-- Add to a conflict counter, saturating at 2^48 − 1 (R129). -/
def Die.conflict (d : Die) (i n : Nat) : Die :=
  { d with conflicts := Sparse.setD 0 d.conflicts i (min (2 ^ 48 - 1) (Sparse.getD 0 d.conflicts i + n)) }

/-- The requests that a strided access leaves waiting (R125, R129): k units of one register in one bank leave
k (k − 1) ÷ 2; requests of different sources are timing (log entry 121). -/
def stridedConflicts (m : AccessMode) (imm : Int) (regs v : Nat) (d : Die) : Die :=
  foldRange regs d (fun d r =>
    let banks := (List.range 16).map (fun u => (m.unitAt imm r u).toNat % 32)
    (List.range 32).foldl (fun d b => let k := banks.count b; if k ≤ 1 then d else d.conflict (vBank v b) (k * (k - 1) / 2)) d)

/-- Access-mode entry `fn` of a V-tile at a site. -/
def modeOf (x : Site) (v fn : Nat) : AccessMode := (x.pat.die x.d).accessMode v fn

/-- A register read from 1,024 bytes given by a byte accessor. -/
def registerFrom (rd : Nat → Byte) : List W32 :=
  mkLanes (fun i => BitVec.ofNat 32 (leNat ((List.range 4).map (fun j => rd (4 * i + j)))))

/-- Contiguous `LD` (R90, R124). -/
def loadRegs (f : VFields) (tile : VTile) : VTile :=
  foldRange (f.cnt + 1) tile (fun t r =>
    t.setReg (f.vd + r) (registerFrom (fun i => Mem.read tile.sram (64 * f.imm.toNat + 1024 * r + i))))

/-- Strided `LD` (R124). -/
def loadStrided (f : VFields) (m : AccessMode) (tile : VTile) : VTile :=
  foldRange (f.cnt + 1) tile (fun t r =>
    t.setReg (f.vd + r) (registerFrom (fun i => Mem.read tile.sram (64 * (m.unitAt f.imm r (i / 64)).toNat + i % 64))))

/-- Transposing `LD` (R128): register q receives columns 4q to 4q + 3 of a 128 × 128 block of 16-bit elements. -/
def loadTurned (f : VFields) (tile : VTile) : VTile :=
  foldRange (f.cnt + 1) tile (fun t q =>
    t.setReg (f.vd + q) (registerFrom (fun i =>
      let e := i / 2
      Mem.read tile.sram (64 * f.imm.toNat + 256 * (e % 128) + 2 * (4 * q + e / 128) + i % 2))))

/-- `LD` (R90, R123–R128): contiguous, or by the die's access-mode entry. -/
def loadEffect (x : Site) (v : Nat) (tile : VTile) : VOp → Effect
  | .word f =>
    if f.fn = 0 then
      match x.die.parityAt (8 + v) (64 * f.imm.toNat) (1024 * (f.cnt + 1)) with
      | some e => .detected e.1 e.2
      | none => tileEffect x v (loadRegs f tile)
    else
      let m := modeOf x v f.fn
      if m.kind = 1 then
        if 31 < f.cnt ∨ ¬ inMemory f.imm 512 tileUnits then .fault .faultEncoding
        else match x.die.parityAt (8 + v) (64 * f.imm.toNat) 32768 with
          | some e => .detected e.1 e.2
          | none => tileEffect x v (loadTurned f tile)
      else if m.kind ≠ 0 ∨ 4 < m.piece ∨ ¬ m.inRange f.imm (f.cnt + 1) then .fault .faultEncoding
      else
        let units := (List.range (16 * (f.cnt + 1))).map (fun i => (m.unitAt f.imm (i / 16) (i % 16)).toNat)
        match units.findSome? (fun u => x.die.parityAt (8 + v) (64 * u) 64) with
        | some e => .detected e.1 e.2
        | none => .done (stridedConflicts m f.imm (f.cnt + 1) v (x.die.setVtile v (loadStrided f m tile)))
  | _ => .hold

/-- The bytes of the run of registers from `VA`. -/
def runBytes (f : VFields) (tile : VTile) : List (Nat × List Byte) :=
  (List.range (f.cnt + 1)).map (fun r => (r, regBytes (tile.reg (f.va + r))))

/-- Contiguous store of a register run into the V-tile's own SRAM. -/
def storeRegs (f : VFields) (v : Nat) (tile : VTile) (d : Die) : Die :=
  (runBytes f tile).foldl (fun d e => d.writeMem (8 + v) (64 * f.imm.toNat + 1024 * e.1) e.2) d

/-- Strided store (R124), pieces in ascending order. -/
def storeStrided (f : VFields) (m : AccessMode) (v : Nat) (tile : VTile) (d : Die) : Die :=
  (runBytes f tile).foldl (fun d e =>
    foldRange 16 d (fun d u => d.writeMem (8 + v) (64 * (m.unitAt f.imm e.1 u).toNat) ((e.2.drop (64 * u)).take 64))) d

/-- `ST` (R90, R124); a transposing entry is forbidden (R128). -/
def storeEffect (x : Site) (v : Nat) (tile : VTile) : VOp → Effect
  | .word f =>
    if f.fn = 0 then .done (storeRegs f v tile x.die)
    else
      let m := modeOf x v f.fn
      if m.kind ≠ 0 ∨ 4 < m.piece ∨ ¬ m.inRange f.imm (f.cnt + 1) then .fault .faultEncoding
      else .done (stridedConflicts m f.imm (f.cnt + 1) v (storeStrided f m v tile x.die))
  | _ => .hold

/-- `LDB` (R90): word `FN` of the unit at `IMM` in every lane. -/
def broadcastEffect (x : Site) (v : Nat) (tile : VTile) : VOp → Effect
  | .word f =>
    let a := 64 * f.imm.toNat + 4 * f.fn
    match x.die.parityAt (8 + v) a 4 with
    | some e => .detected e.1 e.2
    | none => tileEffect x v (tile.setReg f.vd (mkLanes (fun _ => BitVec.ofNat 32 (wordAt tile.sram a 4))))
  | _ => .hold

/-- `PUT` (R90): the owner's write into its own SRAM, remote writes of one register each under credit (R131), or pushes
through the crossing to the tile's push queue (R151, R161). -/
def putEffect (x : Site) (v : Nat) (tile : VTile) : VOp → Effect
  | .word f =>
    if f.fn = 2 then
      .done { x.die with pushes := x.die.pushes ++ (List.range (f.cnt + 1)).map (fun r =>
        ⟨8 + v, 0, .reg f.ty, tile.reg (f.va + r), x.part.run.clock + 3 + r⟩) }
    else if f.fn = 0 ∧ f.vd = v then .done (storeRegs f v tile x.die)
    else
      let mem := if f.fn = 0 then 8 + f.vd else if f.fn = 1 then 20 else f.vd
      let ws := (runBytes f tile).map (fun e => (64 * f.imm.toNat + 1024 * e.1, e.2))
      match x.die.issueWrites 2 v 0 mem ws x.part.run.elapsed with
      | none => .fault .faultCredit
      | some d => .done d
  | _ => .hold

/-! ### Rows -/

def execFadd (t : VRef) (w : W64) (s : State) : Out :=
  .next (runV s t.part t.die t.tile w (isV 0x01) (fun x tile op => aluEffect x t.tile tile op))

def execFsub (t : VRef) (w : W64) (s : State) : Out :=
  .next (runV s t.part t.die t.tile w (isV 0x02) (fun x tile op => aluEffect x t.tile tile op))

def execFmul (t : VRef) (w : W64) (s : State) : Out :=
  .next (runV s t.part t.die t.tile w (isV 0x03) (fun x tile op => aluEffect x t.tile tile op))

def execFma (t : VRef) (w : W64) (s : State) : Out :=
  .next (runV s t.part t.die t.tile w (isV 0x04) (fun x tile op => aluEffect x t.tile tile op))

def execFnma (t : VRef) (w : W64) (s : State) : Out :=
  .next (runV s t.part t.die t.tile w (isV 0x05) (fun x tile op => aluEffect x t.tile tile op))

def execFmin (t : VRef) (w : W64) (s : State) : Out :=
  .next (runV s t.part t.die t.tile w (isV 0x06) (fun x tile op => aluEffect x t.tile tile op))

def execFmax (t : VRef) (w : W64) (s : State) : Out :=
  .next (runV s t.part t.die t.tile w (isV 0x07) (fun x tile op => aluEffect x t.tile tile op))

def execFsgn (t : VRef) (w : W64) (s : State) : Out :=
  .next (runV s t.part t.die t.tile w (isV 0x08) (fun x tile op => aluEffect x t.tile tile op))

def execFcmp (t : VRef) (w : W64) (s : State) : Out :=
  .next (runV s t.part t.die t.tile w (isV 0x09) (fun x tile op => aluEffect x t.tile tile op))

def execSel (t : VRef) (w : W64) (s : State) : Out :=
  .next (runV s t.part t.die t.tile w (isV 0x0A) (fun x tile op => aluEffect x t.tile tile op))

def execIalu (t : VRef) (w : W64) (s : State) : Out :=
  .next (runV s t.part t.die t.tile w (isV 0x0B) (fun x tile op => aluEffect x t.tile tile op))

def execSfu (t : VRef) (w : W64) (s : State) : Out :=
  .next (runV s t.part t.die t.tile w (isV 0x10) (fun x tile op => aluEffect x t.tile tile op))

def execCvt (t : VRef) (w : W64) (s : State) : Out :=
  .next (runV s t.part t.die t.tile w (isV 0x18) (fun x tile op => convertEffect x t.tile tile cvtTile op))

def execCvmx (t : VRef) (w : W64) (s : State) : Out :=
  .next (runV s t.part t.die t.tile w (isV 0x19) (fun x tile op => convertEffect x t.tile tile cvmxTile op))

def execDvmx (t : VRef) (w : W64) (s : State) : Out :=
  .next (runV s t.part t.die t.tile w (isV 0x1A)
    (fun x tile op => convertEffect x t.tile tile (fun f _ y => dvmxTile f y) op))

def execCvb (t : VRef) (w : W64) (s : State) : Out :=
  .next (runV s t.part t.die t.tile w (isV 0x1B)
    (fun x tile op => convertEffect x t.tile tile (fun f _ y => cvbTile f y) op))

def execRsum (t : VRef) (w : W64) (s : State) : Out :=
  .next (runV s t.part t.die t.tile w (isV 0x20) (fun x tile op => reduceEffect x t.tile tile op))

def execRmax (t : VRef) (w : W64) (s : State) : Out :=
  .next (runV s t.part t.die t.tile w (isV 0x21) (fun x tile op => reduceEffect x t.tile tile op))

def execRmin (t : VRef) (w : W64) (s : State) : Out :=
  .next (runV s t.part t.die t.tile w (isV 0x22) (fun x tile op => reduceEffect x t.tile tile op))

def execRdot (t : VRef) (w : W64) (s : State) : Out :=
  .next (runV s t.part t.die t.tile w (isV 0x23) (fun x tile op => reduceEffect x t.tile tile op))

def execLd (t : VRef) (w : W64) (s : State) : Out :=
  .next (runV s t.part t.die t.tile w (isV 0x30) (fun x tile op => loadEffect x t.tile tile op))

def execSt (t : VRef) (w : W64) (s : State) : Out :=
  .next (runV s t.part t.die t.tile w (isV 0x31) (fun x tile op => storeEffect x t.tile tile op))

def execLdb (t : VRef) (w : W64) (s : State) : Out :=
  .next (runV s t.part t.die t.tile w (isV 0x32) (fun x tile op => broadcastEffect x t.tile tile op))

def execPut (t : VRef) (w : W64) (s : State) : Out :=
  .next (runV s t.part t.die t.tile w (isV 0x33) (fun x tile op => putEffect x t.tile tile op))

/-- V-tile `WAIT` (R524): the tile waits until EVENT_WAIT_COMPLETE. -/
def execVtWait (t : VRef) (w : W64) (s : State) : Out :=
  .next (runV s t.part t.die t.tile w (isV 0x38) (fun x tile op => match op with
    | .word f => tileEffect x t.tile { tile with prog := { tile.prog with waiting := some (f.imm.toNat % 256) } }
    | _ => .hold))

/-- V-tile `SIG` (R119, R524). A V-tile with held writes does not issue, so its earlier remote writes have been accepted. -/
def execVtSig (t : VRef) (w : W64) (s : State) : Out :=
  .next (runV s t.part t.die t.tile w (isV 0x39) (fun x _ op => match op with
    | .word f => .done (x.die.signal (f.imm.toNat % 256))
    | _ => .hold))

/-- V-tile `LOOP` (R91). -/
def execVtLoop (t : VRef) (w : W64) (s : State) : Out :=
  .next (runV s t.part t.die t.tile w (isV 0x3A) (fun x tile op => match op with
    | .loop body count rinc ainc =>
      let first := tile.prog.pc + 8
      tileEffect x t.tile { tile with prog := { tile.prog with
        loop := some ⟨first, first + 8 * body, count, 0, ainc, 0, rinc⟩ } }
    | _ => .hold))

/-- V-tile `END` (R88). -/
def execVtEnd (t : VRef) (w : W64) (s : State) : Out :=
  .next (runV s t.part t.die t.tile w (isV 0x3F) (fun x tile _ =>
    tileEffect x t.tile { tile with prog := { tile.prog with ended := true, loop := none } }))

end Sys2Proof.Machine
end

