-- ==== Sys2Proof/Machine/Dispatch.lean ====
section
/-! DEFINITION. The meaning of every command: one arm per row of the table, each a direct call. -/

namespace Sys2Proof.Machine

def exec (i : Instr) (s : State) : Host.Outcome State Fault Refusal :=
  match i with
  | .nop q => Sys2Proof.Machine.execNop q s
  | .negotiate q => Sys2Proof.Machine.execNegotiate q s
  | .partitionCreate q => Sys2Proof.Machine.execPartitionCreate q s
  | .partitionDestroy q => Sys2Proof.Machine.execPartitionDestroy q s
  | .ringCreate q => Sys2Proof.Machine.execRingCreate q s
  | .setEnvelope q => Sys2Proof.Machine.execSetEnvelope q s
  | .readStatus q => Sys2Proof.Machine.execReadStatus q s
  | .sessionOpen q => Sys2Proof.Machine.execSessionOpen q s
  | .attest q => Sys2Proof.Machine.execAttest q s
  | .ideKey q => Sys2Proof.Machine.execIdeKey q s
  | .fwUpdate q => Sys2Proof.Machine.execFwUpdate q s
  | .debugUnlock q => Sys2Proof.Machine.execDebugUnlock q s
  | .contextCreate q => Sys2Proof.Machine.execContextCreate q s
  | .contextDestroy q => Sys2Proof.Machine.execContextDestroy q s
  | .contextWindow q => Sys2Proof.Machine.execContextWindow q s
  | .loadPattern q => Sys2Proof.Machine.execLoadPattern q s
  | .unloadPattern q => Sys2Proof.Machine.execUnloadPattern q s
  | .runSteps q => Sys2Proof.Machine.execRunSteps q s
  | .stackWrite q => Sys2Proof.Machine.execStackWrite q s
  | .stackRead q => Sys2Proof.Machine.execStackRead q s
  | .checkpoint q => Sys2Proof.Machine.execCheckpoint q s
  | .restore q => Sys2Proof.Machine.execRestore q s
  | .seqAdmit q => Sys2Proof.Machine.execSeqAdmit q s
  | .seqSwapWindow q => Sys2Proof.Machine.execSeqSwapWindow q s
  | .seqRead q => Sys2Proof.Machine.execSeqRead q s
  | .readCounters q => Sys2Proof.Machine.execReadCounters q s
  | .readPerf q => Sys2Proof.Machine.execReadPerf q s
  | .badOpcodeCommand q opcode => Sys2Proof.Machine.execBadOpcodeCommand q opcode s
  | .watchedLineInvalidate ring writes => Sys2Proof.Machine.execWatchedLineInvalidate ring writes s
  | .ringEnable => Sys2Proof.Machine.execRingEnable s
  | .bar0Write offset wide value => Sys2Proof.Machine.execBar0Write offset wide value s
  | .msiXCoalesceExpiry vector => Sys2Proof.Machine.execMsiXCoalesceExpiry vector s
  | .mma t w => Sys2Proof.Machine.execMma t w s
  | .mmv t w => Sys2Proof.Machine.execMmv t w s
  | .drn t w => Sys2Proof.Machine.execDrn t w s
  | .acz t w => Sys2Proof.Machine.execAcz t w s
  | .acl t w => Sys2Proof.Machine.execAcl t w s
  | .gap t w => Sys2Proof.Machine.execGap t w s
  | .mtWait t w => Sys2Proof.Machine.execMtWait t w s
  | .mtSig t w => Sys2Proof.Machine.execMtSig t w s
  | .mtLoop t w => Sys2Proof.Machine.execMtLoop t w s
  | .mtEnd t w => Sys2Proof.Machine.execMtEnd t w s
  | .accumulatorEntryStart t bank => Sys2Proof.Machine.execAccumulatorEntryStart t bank s
  | .spill t => Sys2Proof.Machine.execSpill t s
  | .arrayResultReady t => Sys2Proof.Machine.execArrayResultReady t s
  | .fadd t w => Sys2Proof.Machine.execFadd t w s
  | .fsub t w => Sys2Proof.Machine.execFsub t w s
  | .fmul t w => Sys2Proof.Machine.execFmul t w s
  | .fma t w => Sys2Proof.Machine.execFma t w s
  | .fnma t w => Sys2Proof.Machine.execFnma t w s
  | .fmin t w => Sys2Proof.Machine.execFmin t w s
  | .fmax t w => Sys2Proof.Machine.execFmax t w s
  | .fsgn t w => Sys2Proof.Machine.execFsgn t w s
  | .fcmp t w => Sys2Proof.Machine.execFcmp t w s
  | .sel t w => Sys2Proof.Machine.execSel t w s
  | .ialu t w => Sys2Proof.Machine.execIalu t w s
  | .sfu t w => Sys2Proof.Machine.execSfu t w s
  | .cvt t w => Sys2Proof.Machine.execCvt t w s
  | .cvmx t w => Sys2Proof.Machine.execCvmx t w s
  | .dvmx t w => Sys2Proof.Machine.execDvmx t w s
  | .cvb t w => Sys2Proof.Machine.execCvb t w s
  | .rsum t w => Sys2Proof.Machine.execRsum t w s
  | .rmax t w => Sys2Proof.Machine.execRmax t w s
  | .rmin t w => Sys2Proof.Machine.execRmin t w s
  | .rdot t w => Sys2Proof.Machine.execRdot t w s
  | .ld t w => Sys2Proof.Machine.execLd t w s
  | .st t w => Sys2Proof.Machine.execSt t w s
  | .ldb t w => Sys2Proof.Machine.execLdb t w s
  | .put t w => Sys2Proof.Machine.execPut t w s
  | .vtWait t w => Sys2Proof.Machine.execVtWait t w s
  | .vtSig t w => Sys2Proof.Machine.execVtSig t w s
  | .vtLoop t w => Sys2Proof.Machine.execVtLoop t w s
  | .vtEnd t w => Sys2Proof.Machine.execVtEnd t w s
  | .ctInteger c w => Sys2Proof.Machine.execCtInteger c w s
  | .ctIntegerImmediate c w => Sys2Proof.Machine.execCtIntegerImmediate c w s
  | .shiftIn c w => Sys2Proof.Machine.execShiftIn c w s
  | .multiply c w => Sys2Proof.Machine.execMultiply c w s
  | .divide c w => Sys2Proof.Machine.execDivide c w s
  | .ctLoad c w => Sys2Proof.Machine.execCtLoad c w s
  | .ctStore c w => Sys2Proof.Machine.execCtStore c w s
  | .dieRead c w => Sys2Proof.Machine.execDieRead c w s
  | .dieWrite c w => Sys2Proof.Machine.execDieWrite c w s
  | .fence c w => Sys2Proof.Machine.execFence c w s
  | .branch c w => Sys2Proof.Machine.execBranch c w s
  | .jal c w => Sys2Proof.Machine.execJal c w s
  | .jalr c w => Sys2Proof.Machine.execJalr c w s
  | .tsend c w => Sys2Proof.Machine.execTsend c w s
  | .trecv c w => Sys2Proof.Machine.execTrecv c w s
  | .tpoll c w => Sys2Proof.Machine.execTpoll c w s
  | .seqPortRead c w => Sys2Proof.Machine.execSeqPortRead c w s
  | .seqPortSignal c w => Sys2Proof.Machine.execSeqPortSignal c w s
  | .seqPortWait c w => Sys2Proof.Machine.execSeqPortWait c w s
  | .seqPortSetReady c w => Sys2Proof.Machine.execSeqPortSetReady c w s
  | .ctFault c w => Sys2Proof.Machine.execCtFault c w s
  | .ctEnd c w => Sys2Proof.Machine.execCtEnd c w s
  | .eventWaitComplete d event => Sys2Proof.Machine.execEventWaitComplete d event s
  | .creditHoldTimeout d => Sys2Proof.Machine.execCreditHoldTimeout d s
  | .errorResponseDecision p => Sys2Proof.Machine.execErrorResponseDecision p s
  | .restoreHoldRelease p => Sys2Proof.Machine.execRestoreHoldRelease p s
  | .sequencerStart d => Sys2Proof.Machine.execSequencerStart d s
  | .sequencerSignal d => Sys2Proof.Machine.execSequencerSignal d s
  | .syncPoint d => Sys2Proof.Machine.execSyncPoint d s
  | .syncTimeout d flag => Sys2Proof.Machine.execSyncTimeout d flag s
  | .roundStart p => Sys2Proof.Machine.execRoundStart p s
  | .stepEnd p => Sys2Proof.Machine.execStepEnd p s
  | .roundAdmission p => Sys2Proof.Machine.execRoundAdmission p s
  | .heldRoundAdmit p => Sys2Proof.Machine.execHeldRoundAdmit p s
  | .ledgerWindowEnd meanW vin overheadW => Sys2Proof.Machine.execLedgerWindowEnd meanW vin overheadW s
  | .reconciliation p measuredUj => Sys2Proof.Machine.execReconciliation p measuredUj s
  | .domainFreeze p => Sys2Proof.Machine.execDomainFreeze p s
  | .domainResume p => Sys2Proof.Machine.execDomainResume p s
  | .reEntry wire => Sys2Proof.Machine.execReEntry wire s
  | .belayTimeout wire => Sys2Proof.Machine.execBelayTimeout wire s
  | .slotEntry d => Sys2Proof.Machine.execSlotEntry d s
  | .fabricDelivery d => Sys2Proof.Machine.execFabricDelivery d s
  | .pushArrival d queue => Sys2Proof.Machine.execPushArrival d queue s
  | .flitCheckFailure p at_ => Sys2Proof.Machine.execFlitCheckFailure p at_ s
  | .linkLoss a b => Sys2Proof.Machine.execLinkLoss a b s
  | .terminusFirstPass d term => Sys2Proof.Machine.execTerminusFirstPass d term s
  | .terminusSecondPass d term => Sys2Proof.Machine.execTerminusSecondPass d term s
  | .resync p => Sys2Proof.Machine.execResync p s
  | .tetherDelivery p position => Sys2Proof.Machine.execTetherDelivery p position s
  | .tetherWordCheckFailure a b => Sys2Proof.Machine.execTetherWordCheckFailure a b s
  | .heartbeat silent => Sys2Proof.Machine.execHeartbeat silent s
  | .dieLoss n cause => Sys2Proof.Machine.execDieLoss n cause s
  | .bindOffCheck rim => Sys2Proof.Machine.execBindOffCheck rim s
  | .bindOffRelease rim => Sys2Proof.Machine.execBindOffRelease rim s
  | .stagingPullCheck e => Sys2Proof.Machine.execStagingPullCheck e s
  | .stagingFlitComplete e => Sys2Proof.Machine.execStagingFlitComplete e s
  | .receivePlaceCheck e hank => Sys2Proof.Machine.execReceivePlaceCheck e hank s
  | .stagingPlaceFree e hank => Sys2Proof.Machine.execStagingPlaceFree e hank s
  | .rimEdgePull rim port => Sys2Proof.Machine.execRimEdgePull rim port s
  | .rimEdgeReceive rim port => Sys2Proof.Machine.execRimEdgeReceive rim port s
  | .stagingHankTimeout e => Sys2Proof.Machine.execStagingHankTimeout e s
  | .hankRead e => Sys2Proof.Machine.execHankRead e s
  | .nullDescriptor e => Sys2Proof.Machine.execNullDescriptor e s
  | .readStream e => Sys2Proof.Machine.execReadStream e s
  | .writeStream e => Sys2Proof.Machine.execWriteStream e s
  | .operationStream e => Sys2Proof.Machine.execOperationStream e s
  | .gather e => Sys2Proof.Machine.execGather e s
  | .scatter e => Sys2Proof.Machine.execScatter e s
  | .indexedOperation e => Sys2Proof.Machine.execIndexedOperation e s
  | .hankWait e => Sys2Proof.Machine.execHankWait e s
  | .transactionComplete rim unit symbols => Sys2Proof.Machine.execTransactionComplete rim unit symbols s
  | .iadd32 rim unit operand mask => Sys2Proof.Machine.execIadd32 rim unit operand mask s
  | .iadd64 rim unit operand mask => Sys2Proof.Machine.execIadd64 rim unit operand mask s
  | .imin32 rim unit operand mask => Sys2Proof.Machine.execImin32 rim unit operand mask s
  | .imax32 rim unit operand mask => Sys2Proof.Machine.execImax32 rim unit operand mask s
  | .umin32 rim unit operand mask => Sys2Proof.Machine.execUmin32 rim unit operand mask s
  | .umax32 rim unit operand mask => Sys2Proof.Machine.execUmax32 rim unit operand mask s
  | .imin64 rim unit operand mask => Sys2Proof.Machine.execImin64 rim unit operand mask s
  | .imax64 rim unit operand mask => Sys2Proof.Machine.execImax64 rim unit operand mask s
  | .bsiadd rim unit operand mask => Sys2Proof.Machine.execBsiadd rim unit operand mask s
  | .xfadd rim unit operand mask window => Sys2Proof.Machine.execXfadd rim unit operand mask window s
  | .finalize rim unit => Sys2Proof.Machine.execFinalize rim unit s
  | .flush rim unit => Sys2Proof.Machine.execFlush rim unit s
  | .refresh rim channel => Sys2Proof.Machine.execRefresh rim channel s
  | .scrubOwed rim => Sys2Proof.Machine.execScrubOwed rim s
  | .scrub rim unit symbols => Sys2Proof.Machine.execScrub rim unit symbols s
  | .calibration rim => Sys2Proof.Machine.execCalibration rim s
  | .forcedCalibration rim => Sys2Proof.Machine.execForcedCalibration rim s
  | .calibrationComplete rim => Sys2Proof.Machine.execCalibrationComplete rim s
  | .stackTemperatureSample rim sensor => Sys2Proof.Machine.execStackTemperatureSample rim sensor s
  | .dieTemperatureSample n junction => Sys2Proof.Machine.execDieTemperatureSample n junction s
  | .coolantSample inlet outlet => Sys2Proof.Machine.execCoolantSample inlet outlet s
  | .tablePhase p => Sys2Proof.Machine.execTablePhase p s
  | .tablePhaseComplete p => Sys2Proof.Machine.execTablePhaseComplete p s
  | .swapCopyComplete p hostOk => Sys2Proof.Machine.execSwapCopyComplete p hostOk s
  | .swapTimeout p => Sys2Proof.Machine.execSwapTimeout p s
  | .contextSwitch p => Sys2Proof.Machine.execContextSwitch p s
  | .eviction p => Sys2Proof.Machine.execEviction p s
  | .bringIn p hostOk => Sys2Proof.Machine.execBringIn p hostOk s
  | .teardownComplete p => Sys2Proof.Machine.execTeardownComplete p s
  | .diagnosis failed => Sys2Proof.Machine.execDiagnosis failed s
  | .checkpointMirrorComplete p hostOk => Sys2Proof.Machine.execCheckpointMirrorComplete p hostOk s
  | .checkpointDrainTimeout p => Sys2Proof.Machine.execCheckpointDrainTimeout p s
  | .clockPointDecision => Sys2Proof.Machine.execClockPointDecision s
  | .clockChange => Sys2Proof.Machine.execClockChange s
  | .throtNAssert => Sys2Proof.Machine.execThrotNAssert s
  | .throtNRelease => Sys2Proof.Machine.execThrotNRelease s
  | .emergOffN => Sys2Proof.Machine.execEmergOffN s
  | .emergOffRelease => Sys2Proof.Machine.execEmergOffRelease s
  | .powerGood => Sys2Proof.Machine.execPowerGood s
  | .inputOutOfRange => Sys2Proof.Machine.execInputOutOfRange s
  | .powerLoss => Sys2Proof.Machine.execPowerLoss s
  | .converterFault converter => Sys2Proof.Machine.execConverterFault converter s
  | .castOn => Sys2Proof.Machine.execCastOn s
  | .linkTrained rate narrow => Sys2Proof.Machine.execLinkTrained rate narrow s
  | .castOnReady failed => Sys2Proof.Machine.execCastOnReady failed s
  | .perstNAssert => Sys2Proof.Machine.execPerstNAssert s
  | .hotReset => Sys2Proof.Machine.execHotReset s
  | .linkRetrain => Sys2Proof.Machine.execLinkRetrain s
  | .ideIntegrityFailure => Sys2Proof.Machine.execIdeIntegrityFailure s
  | .ideTxKeySwitch => Sys2Proof.Machine.execIdeTxKeySwitch s
  | .ideOldKeyExpiry => Sys2Proof.Machine.execIdeOldKeyExpiry s
  | .snapRefresh => Sys2Proof.Machine.execSnapRefresh s
  | .entdaa address => Sys2Proof.Machine.execEntdaa address s
  | .setdasa address => Sys2Proof.Machine.execSetdasa address s
  | .rstdaa => Sys2Proof.Machine.execRstdaa s
  | .setnewda address => Sys2Proof.Machine.execSetnewda address s
  | .getpid => Sys2Proof.Machine.execGetpid s
  | .getbcr => Sys2Proof.Machine.execGetbcr s
  | .getdcr => Sys2Proof.Machine.execGetdcr s
  | .getstatus => Sys2Proof.Machine.execGetstatus s
  | .getmrl => Sys2Proof.Machine.execGetmrl s
  | .getmwl => Sys2Proof.Machine.execGetmwl s
  | .rstact action => Sys2Proof.Machine.execRstact action s
  | .i3cPrivateWrite bytes => Sys2Proof.Machine.execI3cPrivateWrite bytes s
  | .i3cPrivateRead count => Sys2Proof.Machine.execI3cPrivateRead count s
  | .hostTransferComplete ring tag => Sys2Proof.Machine.execHostTransferComplete ring tag s
  | .converterTemperatureSample converter degrees => Sys2Proof.Machine.execConverterTemperatureSample converter degrees s
  | .i3cTargetReady => Sys2Proof.Machine.execI3cTargetReady s

end Sys2Proof.Machine
end

