-- ==== Sys2Proof/Safety.lean ====
section
/-! DEFINITION. What statements speak of: the part of the state that only the module's own events change, the module's standing
conditions, words that issue, the agreement of a rim cache with its stack, and commands that a ring accepts. -/

namespace Sys2Proof.Machine

/-- The state that commands of a partition, its dies, its rims and its rings leave alone: the part, supply, protection pins,
power settings, cast-on, firmware, fuses, link, features, clock point, the I3C target and the queue of commands. -/
structure ModuleView where
  part : Part
  power : Power
  converters : BitVec 16
  perst : Bool
  throt : Bool
  throtAt : Nat
  emerg : Bool
  pwrgd : Drive
  thermtripN : Drive
  envelope : Nat
  storedEnvelope : Option Nat
  coolantIn : Int
  coolantOut : Int
  stage : Stage
  fallback : Bool
  firmware : SMap FirmwareSlot
  activeSlot : Nat
  runningImage : List Byte
  keyRevoked : Bool × Bool
  minSvn : Nat
  bootCount : Nat
  serial : W64
  linkUp : Bool
  linkRate : Nat
  linkNarrow : Bool
  features : BitVec 256
  clockLow : Bool
  i3cReady : Bool
  i3cAddress : Option (BitVec 7)
  i3cOffset : BitVec 7
  pending : List Instr
  deriving DecidableEq, Repr

/-- The module's own part of a state. -/
def State.view (s : State) : ModuleView :=
  { part := s.part, power := s.power, converters := s.converters, perst := s.perst, throt := s.throt, throtAt := s.throtAt,
    emerg := s.emerg, pwrgd := s.pwrgd, thermtripN := s.thermtripN, envelope := s.envelope,
    storedEnvelope := s.storedEnvelope, coolantIn := s.coolantIn, coolantOut := s.coolantOut, stage := s.stage,
    fallback := s.fallback, firmware := s.firmware, activeSlot := s.activeSlot, runningImage := s.runningImage,
    keyRevoked := s.keyRevoked, minSvn := s.minSvn, bootCount := s.bootCount, serial := s.serial, linkUp := s.linkUp,
    linkRate := s.linkRate, linkNarrow := s.linkNarrow, features := s.features, clockLow := s.clockLow,
    i3cReady := s.i3cReady, i3cAddress := s.i3cAddress, i3cOffset := s.i3cOffset, pending := s.pending }

/-- The module's part of a next state. -/
def outView (o : Out) : Option ModuleView :=
  match o with
  | .next t => some t.view
  | .fault _ => none
  | .refused _ => none

/-- The standing conditions of the module (R398, R422, R477, R479, R485, R500): PWRGD is high exactly under power-good; past
stage 0 and with the link up there is power-good, and past stage 0 PERST_N is not asserted; the envelope, and a stored one, lie
between the floor and the part's maximum, and one is stored only under THROT_N; accepted features are supported; and the active
firmware slot is 0 or 1. -/
structure ModuleView.Sound (v : ModuleView) : Prop where
  powerGood : v.pwrgd = .high ↔ v.power = .good
  running : v.stage ≠ .reset → v.power = .good ∧ v.perst = false
  linked : v.linkUp = true → v.power = .good
  envelope : v.part.floorW ≤ v.envelope ∧ v.envelope ≤ v.part.maxW
  stored : ∀ w, v.storedEnvelope = some w → v.throt = true ∧ v.part.floorW ≤ w ∧ w ≤ v.part.maxW
  features : v.features &&& supported = v.features
  slot : v.activeSlot ≤ 1

/-- The invariant of every step. -/
def State.Inv (s : State) : Prop := s.view.Sound

/-! ### Words that issue (R54, R60, R88, R94, R107, R137) -/

/-- The word `w` stands at the program position of M-tile `t`, which runs on a die that is not stopped in a domain that is not
frozen, waits for nothing, has no remote write held, and decodes to an operation that issues there as `op`. -/
structure MIssues (s : State) (t : MRef) (w : BitVec 128) (x : Site) (op : MOp) : Prop where
  site : s.site t.part t.die = some x
  goes : x.die.stopped = false
  running : (x.die.mtile t.tile).prog.running = true
  open_ : (x.die.mtile t.tile).prog.ended = false
  free : (x.die.mtile t.tile).prog.waiting = none
  unheld : x.die.noneHeld 1 t.tile = true
  inside : (x.die.mtile t.tile).prog.pc + 16 ≤ 64 * tileUnits
  clean : x.die.parityAt t.tile (x.die.mtile t.tile).prog.pc 16 = none
  stored : wordAt (x.die.mtile t.tile).sram (x.die.mtile t.tile).prog.pc 16 = w.toNat
  decoded : ∃ raw, decodeM w = .ok raw ∧ effectiveM (x.die.mtile t.tile).prog raw = op
  legal : op.legal = true
  placed : misplacedM (x.die.mtile t.tile) op = false

/-- The same for V-tile `t`: its pushes do not hold it either, and its `LOOP` is not inside a loop. -/
structure VIssues (s : State) (t : VRef) (w : W64) (x : Site) (op : VOp) : Prop where
  site : s.site t.part t.die = some x
  goes : x.die.stopped = false
  running : (x.die.vtile t.tile).prog.running = true
  open_ : (x.die.vtile t.tile).prog.ended = false
  free : (x.die.vtile t.tile).prog.waiting = none
  unheld : x.die.noneHeld 2 t.tile = true
  room : x.die.pushBacklog (8 + t.tile) ≤ 8
  inside : (x.die.vtile t.tile).prog.pc + 8 ≤ 64 * tileUnits
  clean : x.die.parityAt (8 + t.tile) (x.die.vtile t.tile).prog.pc 8 = none
  stored : wordAt (x.die.vtile t.tile).sram (x.die.vtile t.tile).prog.pc 8 = w.toNat
  decoded : ∃ raw, decodeV w = .ok raw ∧ effectiveV (x.die.vtile t.tile).prog raw = op
  legal : op.legal = true
  nested : ∀ b c r a, op = .loop b c r a → (x.die.vtile t.tile).prog.loop = none

/-- The same for a C-tile core, which issues in frozen beats too (log entry 15). -/
structure CIssues (s : State) (c : CRef) (w : W32) (x : Site) (f : CFields) : Prop where
  site : s.siteAny c.part c.die = some x
  goes : x.die.stopped = false
  running : (x.die.core c.core).running = true
  free : (x.die.core c.core).waiting = none
  unheld : x.die.noneHeld 3 c.core = true
  inside : (x.die.core c.core).pc + 4 ≤ 64 * ctileUnits
  clean : x.die.parityAt (coreMem c.core) (x.die.core c.core).pc 4 = none
  stored : wordAt (x.die.memory (coreMem c.core)) (x.die.core c.core).pc 4 = w.toNat
  decoded : decodeC w = .ok f

/-- The next state in which M-tile `t` of the site has become `y` and its program has moved past the word; nothing else of the
state has changed. -/
def issuedM (s : State) (t : MRef) (x : Site) (y : MTile) : Out :=
  .next (s.putDie x (advanceM t.tile (x.die.setMtile t.tile y)))

/-- The same for V-tile `t`. -/
def issuedV (s : State) (t : VRef) (x : Site) (y : VTile) : Out :=
  .next (s.putDie x (advanceV t.tile (x.die.setVtile t.tile y)))

/-- The next state in which core `c` of the site has become `y`; nothing else of the state has changed. -/
def issuedC (s : State) (c : CRef) (x : Site) (y : Core) : Out := .next (s.putDie x (x.die.setCore c.core y))

/-! ### The rim cache -/

/-- The cache of a rim agrees with its stack and write queue (R256, R274, R276): a unit has one line, a line and a write that waits
hold 64 bytes, and a line that is not dirty holds what a read beneath the cache returns: the last write that waits, else what the
stack holds. -/
def Rim.Coherent (r : Rim) : Prop :=
  (r.cache.map (·.unit)).Nodup ∧ (∀ w ∈ r.writes, w.data.length = 64) ∧
    ∀ l ∈ r.cache, l.data.length = 64 ∧ (l.dirty = false → l.data = r.below l.unit)

/-! ### Commands of the rings -/

/-- A ring has picked up the command as `c`, its turn has come (R393), and nothing holds it back or refuses it before its own
check (R389, R391, R396, R397, R400, R452, R473, R478, R492). -/
structure Accepts (s : State) (q : Request) (opcode : Nat) (c : Picked) : Prop where
  picked : s.picked? q opcode = some c
  turn : (s.ring (ringNumber q.ring)).mayStart s.holdsBack c = true
  formed : s.refusal q opcode = none
  unheld : s.holdsBack opcode = false
  able : s.lacking q opcode = none
  here : s.awaitsSpan q opcode = false
  reached : q.hostOk = true

end Sys2Proof.Machine
end

