-- ==== Sys2Proof/Certificates/Slice0/Obligations.lean ====
section
/-! DEFINITION. The statements about the module, for the provers. -/

open Sys2Proof Sys2Proof.Machine

/-! ### M-tiles -/

/-- R62, R67, R70, R73, R75, R83, R522: an `MMA` or `MMV` that issues with clean operands. The first of a half-width pair waits
for its second. A group (one instruction, or the two of a pair) whose reused operands are in the cells and whose tiles no queue
entry uses begins, once its level may be reached and until then only asks for it: with `STAT` 0 or 2 once no spill of a tile of
it is owed, and with `STAT` 1 in the cells, which hold its tiles or are filled from them. Each of these commands completes as
stated, `exec` answering a next state: `mma`, `mmv`. -/
def Obligations.ArrayInstructionsBegin : Prop :=
  ∀ (s : State) (t : MRef) (w : BitVec 128) (x : Site) (f : MmaFields), MIssues s t w x (.mma f) →
    x.die.arrayBad t.tile f = none →
    let y := x.die.mtile t.tile
    let z := y.displace
    let command := if f.vector then Instr.mmv t w else Instr.mma t w
    let first := !f.vector && f.shape == 3 && f.pair
    let begins (u : MTile) (fs : List MmaFields) : Out :=
      if (x.die.setMtile t.tile u).levelReady t.tile (groupLevel fs) then issuedM s t x (u.arrays fs)
      else .next (s.putDie x (x.die.setMtile t.tile { u with want := some (groupLevel fs) }))
    (first = true → y.reuseOk f = true → exec command s = issuedM s t x { y with first := some f }) ∧
    (first = false → ∀ fs, (y.first = none ∧ fs = [f] ∧ y.reuseOk f = true ∨ ∃ a, y.first = some a ∧ fs = [a, f] ∧
        y.reuseOk a = true ∧ { y with chain := some a.heldKey }.reuseOk f = true) →
      (∀ g ∈ fs, (x.die.entries t.tile).all (fun e => e.tile != g.acc) = true) →
      (f.stat ≠ 1 → (∀ g ∈ fs, z.spillOwed g.acc = false) → exec command s = begins { z with first := none } fs) ∧
      (f.stat = 1 → y.holds fs = true → exec command s = begins { y with first := none } fs) ∧
      (f.stat = 1 → y.holds fs = false → (∀ g ∈ fs, z.spillOwed g.acc = false ∧ z.inFlight g.acc = false) →
        exec command s = begins { z with hold := some (z.filled fs), first := none } fs))

/-- R61, R62, R70, R73: with no other instruction in flight, an array instruction that writes accumulator memory leaves in every
element that it covers the ordered sum of R73 over the tile's word or the zero word, its held operand taken from the cells and
the other from operand SRAM, and every other element of every accumulator tile as it was. -/
def Obligations.ArrayResultsLand : Prop :=
  ∀ (y : MTile) (f : MmaFields) (a b : OperandFmt), f.formats = some (a, b) → f.stat ≠ 1 → y.flights = [] →
    ∀ tile e, e < tileElems → accAt ((y.array f false false).landOne).acc tile e =
      if tile = f.acc then
        match f.subOf (e / 128) (e % 128) with
        | some (q, i, j) =>
          f.element a b (fun k => y.operandA f a b q i k) (fun k => y.operandB f a b q k j) (accAt y.acc tile e)
        | none => accAt y.acc tile e
      else accAt y.acc tile e

/-- R72, R75: `DRN`, `ACZ` and `ACL` enter the tile's queue while it holds fewer than four, behind the work that is not
finished, and one that names the held tile makes it spill; a fifth holds issue. Each of these commands completes as stated,
`exec` answering a next state: `drn`, `acz`, `acl`. -/
def Obligations.QueueInstructionsEnter : Prop :=
  ∀ (s : State) (t : MRef) (w : BitVec 128) (x : Site) (op : MOp), MIssues s t w x op →
    let y := x.die.mtile t.tile
    let enters (a : Nat) : Out :=
      let z := if y.hold.any (fun h => h.names a) then y.displace else y
      if (x.die.entries t.tile).length < 4 then
        issuedM s t x { z with work := (x.die.setMtile t.tile z).liveWork t.tile ++ [.entry ⟨op, false⟩] }
      else .next s
    (∀ a fp32 clr dst addr id, op = .drn a fp32 clr dst addr id → exec (.drn t w) s = enters a) ∧
    (∀ a, op = .acz a → exec (.acz t w) s = enters a) ∧
    (∀ a fp32 addr, op = .acl a fp32 addr → exec (.acl t w) s = enters a)

/-- R54, R59, R75, R81, R82, R83, R119, R524: what `GAP`, `WAIT`, `SIG`, `LOOP` and `END` do to their tile when they issue; a
`GAP` that raises the level waits until it may be reached, and a `SIG` issues once no remote write of the tile is queued. R59:
past a word that is not the last of a loop body the program goes to the next word; past the last, back to the body's first word
in the next iteration while one is left, and else on. R88, R91, R119, R524: what `WAIT`, `SIG`, `LOOP` and `END` of a V-tile do
when they issue. R80, R83: in one beat the M-tiles of a die change their levels by at most 8 units together. Each of these
commands completes as stated, `exec` answering a next state: `gap`, `mtWait`, `mtSig`, `mtLoop`, `mtEnd`, `vtWait`, `vtSig`,
`vtLoop`, `vtEnd`. -/
def Obligations.TilesAreControlled : Prop :=
  (∀ (s : State) (t : MRef) (w : BitVec 128) (x : Site) (op : MOp), MIssues s t w x op →
    let y := x.die.mtile t.tile
    let on (len : Nat) : MTile := { y with busy := y.busy + len, idle := 0, want := none }
    (∀ level len, op = .gap false level len → level ≠ 63 → exec (.gap t w) s =
      if x.die.levelReady t.tile level then issuedM s t x { on len with ramp := none, target := level }
      else .next (s.putDie x (x.die.setMtile t.tile { y with want := some level }))) ∧
    (∀ len, op = .gap false 63 len → exec (.gap t w) s = issuedM s t x { on len with ramp := none, target := y.level }) ∧
    (∀ level len, op = .gap true level len → exec (.gap t w) s = issuedM s t x
      { on len with ramp := some ⟨len, 0, y.level, y.nextLevel⟩ }) ∧
    (∀ e, op = .wait e → exec (.mtWait t w) s = issuedM s t x { y with prog := { y.prog with waiting := some e } }) ∧
    (∀ e, op = .sig e → exec (.mtSig t w) s =
      if (x.die.entries t.tile).any AccEntry.remote then .next s
      else .next (s.putDie x (advanceM t.tile (x.die.signal e)))) ∧
    (∀ count body a b r, op = .loop count body a b r → exec (.mtLoop t w) s = issuedM s t x
      { y with prog := { y.prog with loop := some ⟨y.prog.pc + 16, y.prog.pc + 16 + 16 * body, count, 0, a, b, r⟩ } }) ∧
    (op = .finish → exec (.mtEnd t w) s = issuedM s t x
      { y.displace with prog := { y.prog with ended := true, loop := none } })) ∧
  (∀ (p : Prog) (l : LoopState) (size : Nat), p.loop = some l →
    (p.pc + size ≠ l.stop → p.advance size = { p with pc := p.pc + size }) ∧
    (p.pc + size = l.stop → l.iter + 1 < l.count →
      p.advance size = { p with pc := l.first, loop := some { l with iter := l.iter + 1 } }) ∧
    (p.pc + size = l.stop → l.count ≤ l.iter + 1 → p.advance size = { p with pc := p.pc + size, loop := none })) ∧
  (∀ (s : State) (t : VRef) (w : W64) (x : Site) (op : VOp), VIssues s t w x op →
    let y := x.die.vtile t.tile
    (∀ f, op = .word f → f.op = 0x38 → exec (.vtWait t w) s =
      issuedV s t x { y with prog := { y.prog with waiting := some (f.imm.toNat % 256) } }) ∧
    (∀ f, op = .word f → f.op = 0x39 → exec (.vtSig t w) s =
      .next (s.putDie x (advanceV t.tile (x.die.signal (f.imm.toNat % 256))))) ∧
    (∀ body count r a, op = .loop body count r a → exec (.vtLoop t w) s =
      issuedV s t x { y with prog := { y.prog with
        loop := some ⟨y.prog.pc + 8, y.prog.pc + 8 + 8 * body, count, 0, a, 0, r⟩ } }) ∧
    (∀ f, op = .word f → f.op = 0x3F → exec (.vtEnd t w) s =
      issuedV s t x { y with prog := { y.prog with ended := true, loop := none } })) ∧
  (∀ (d : Die), ((List.range 8).map (fun t =>
    ((d.levels.mtile t).level - (d.mtile t).level) + ((d.mtile t).level - (d.levels.mtile t).level))).sum ≤ 8)

/-- R72, R76, R78, R135: ACCUMULATOR_ENTRY_START on an entry that is the oldest unfinished work of its bank and whose tile no
array instruction in flight writes. `ACZ` leaves the zero word in every element of its tile; `ACL` the value read from the
operand SRAM; a `DRN` writes its rows to the tile's own SRAM, to another scratchpad of the die under credit, or as pushes, and
with `CLR` leaves zero words; accumulator words that are written get their parity anew; and an entry that is complete leaves the
queue. R72, R75, R135, R522: SPILL writes the oldest displaced hold whose banks no earlier work takes back, columns 0–63 to the
left tile and columns 64–127 to the right one, and leaves every other element as it was. ARRAY_RESULT_READY takes the oldest
instruction out of flight. The words written get their parity anew. Each of these commands completes as stated, `exec` answering
a next state: `accumulatorEntryStart`, `spill`, `arrayResultReady`. -/
def Obligations.AccumulatorEntriesAndSpillsRun : Prop :=
  (∀ (s : State) (t : MRef) (bank : Fin 2) (x : Site) (e : AccEntry), s.site t.part t.die = some x →
    x.die.stopped = false → x.die.nextEntry t.tile bank = some e → (x.die.mtile t.tile).inFlight e.tile = false →
    let y := x.die.mtile t.tile
    let rest := (x.die.liveWork t.tile).erase (.entry e)
    let left (clr : Bool) (a : Nat) := if clr then accUpdate y.acc a (fun _ => some 0) else y.acc
    let started (clr : Bool) (a : Nat) := x.die.setMtile t.tile
      { y with acc := left clr a, work := .entry { e with started := true } :: rest }
    (∀ a, e.op = .acz a → exec (.accumulatorEntryStart t bank) s = .next (s.putDie x ((x.die.setMtile t.tile
      { y with acc := accUpdate y.acc a (fun _ => some 0), work := rest }).accWritten t.tile (inTile a)))) ∧
    (∀ a fp32 addr, e.op = .acl a fp32 addr →
      x.die.parityAt t.tile (64 * addr.toNat) (64 * drainUnits fp32) = none →
      ∃ z : Nat → W64, exec (.accumulatorEntryStart t bank) s = .next (s.putDie x ((x.die.setMtile t.tile
          { y with acc := accUpdate y.acc a (fun i => some (z i)), work := rest }).accWritten t.tile (inTile a))) ∧
        ∀ i, z i = if fp32 then fp32ToAx64 (BitVec.ofNat 32 (wordAt y.sram (64 * addr.toNat + 4 * i) 4))
          else Num.toAx64 (Num.ofAx64 (BitVec.ofNat 64 (wordAt y.sram (64 * addr.toNat + 8 * i) 8)))) ∧
    (∀ a fp32 clr dst addr id, e.op = .drn a fp32 clr dst addr id → x.die.accBad t.tile (inTile a) = none →
      let rows := drainRows y.acc a fp32 addr.toNat
      (dst = 0 → exec (.accumulatorEntryStart t bank) s = .next (s.putDie x (rows.foldl
        (fun d r => d.writeMem t.tile r.1 r.2) (x.die.setMtile t.tile { y with acc := left clr a, work := rest })))) ∧
      (dst = 1 → exec (.accumulatorEntryStart t bank) s =
        match (started clr a).issueWrites 1 t.tile (a / 8) (if id = 12 then 20 else 8 + id) rows x.part.run.elapsed with
        | some d => .next (s.putDie x d)
        | none => .next (s.softFault x.p .faultCredit x.d)) ∧
      (1 < dst → exec (.accumulatorEntryStart t bank) s = .next (s.putDie x
        { started clr a with pushes := (started clr a).pushes ++ rows.zipIdx.map (fun r =>
          ⟨t.tile, a / 8, if fp32 then .fpRow else .axRow, pushWords r.1.2, x.part.run.clock + 3 + r.2⟩) })))) ∧
  (∀ (s : State) (t : MRef) (x : Site), s.site t.part t.die = some x →
    let y := x.die.mtile t.tile
    (∀ h, nextSpill [] (x.die.liveWork t.tile) = some h → y.filling h = false →
      ∃ z : MTile, exec (.spill t) s = .next (s.putDie x ((x.die.setMtile t.tile z).accWritten t.tile h.writes)) ∧
        z = { y with acc := z.acc, work := (x.die.liveWork t.tile).erase (.spill h) } ∧
        ∀ tile e, e < tileElems → accAt z.acc tile e =
          if tile = (if e % 128 < 64 then h.left else h.right) then Sparse.getD 0 h.sums e else accAt y.acc tile e) ∧
    (∀ f rest, y.flights = f :: rest → ∃ z : MTile,
      exec (.arrayResultReady t) s = .next (s.putDie x ((x.die.setMtile t.tile z).accWritten t.tile y.lands)) ∧
      z = { y with acc := z.acc, flights := rest } ∧
      (f.cells = true → z.acc = y.acc) ∧
      (f.cells = false → ∀ tile e, e < tileElems → accAt z.acc tile e =
        if tile ∈ f.tiles then (Sparse.get? f.values e).getD (accAt y.acc tile e) else accAt y.acc tile e)))

/-! ### V-tiles -/

/-- R90, R92: a lane instruction that issues writes `VD`, lane i from lanes i of its sources as they stand at issue, and changes
no other register. R48, R50, R101–R104: a conversion that issues writes the registers that its rule gives; one that rounds
stochastically takes the tile's draw index and advances it by one. Each of these commands completes as stated, `exec` answering
a next state: `fadd`, `fsub`, `fmul`, `fma`, `fnma`, `fmin`, `fmax`, `fsgn`, `fcmp`, `sel`, `ialu`, `sfu`, `cvt`, `cvmx`,
`dvmx`, `cvb`. -/
def Obligations.VectorInstructionsWriteVd : Prop :=
  (∀ (s : State) (t : VRef) (w : W64) (x : Site) (f : VFields), VIssues s t w x (.word f) →
    let y := x.die.vtile t.tile
    ∀ e ∈ [(0x01, Instr.fadd), (0x02, Instr.fsub), (0x03, Instr.fmul), (0x04, Instr.fma), (0x05, Instr.fnma),
        (0x06, Instr.fmin), (0x07, Instr.fmax), (0x08, Instr.fsgn), (0x09, Instr.fcmp), (0x0A, Instr.sel),
        (0x0B, Instr.ialu), (0x10, Instr.sfu)],
      f.op = e.1 → ∃ v : List W32, exec (e.2 t w) s = issuedV s t x (y.setReg f.vd v) ∧ v.length = 256 ∧
        ∀ i, i < 256 → lane v i = aluLane f (lane (y.reg f.va) i) (lane (y.reg f.vb) i) (lane (y.reg f.vc) i)) ∧
  (∀ (s : State) (t : VRef) (w : W64) (x : Site) (f : VFields), VIssues s t w x (.word f) →
    let y := x.die.vtile t.tile
    let r : Draw := ⟨x.pat.seed, x.context.step, 32 * x.d + t.tile, y.draw⟩
    let moved (z : VTile) : VTile := if f.stochastic then { z with draw := (z.draw + 1) % 65536 } else z
    (f.op = 0x18 → exec (.cvt t w) s = issuedV s t x (moved (cvtTile f r y))) ∧
    (f.op = 0x19 → exec (.cvmx t w) s = issuedV s t x (moved (cvmxTile f r y))) ∧
    (f.op = 0x1A → exec (.dvmx t w) s = issuedV s t x (moved (dvmxTile f y))) ∧
    (f.op = 0x1B → exec (.cvb t w) s = issuedV s t x (moved (cvbTile f y))))

/-- R90, R95, R523: the operations of the lanes, on FP32 elements (`TYPE` 0) with one rounding, on both halves of a paired bf16
lane (`TYPE` 1), and on int32 words. R108: the results of the integer, multiply and divide sub-functions; shifts by 64 or more
and the one quotient and remainder that do not fit are free (log entries 17, 18), and signed division truncates (log entry 20).
R98, R99: `RSUM` with `TYPE` int32 is the exact wrapping sum of every lane of the registers `VA` to `VA` + `CNT`. -/
def Obligations.OperationsCompute : Prop :=
  (∀ (f : VFields) (a b c : W32),
    let A := Num.ofFp32 a
    let B := Num.ofFp32 b
    let C := Num.ofFp32 c
    let k := b.toNat % 32
    (f.ty = 0 →
      (f.op = 0x01 → aluLane f a b c = Num.toFp32 (A.add B)) ∧
      (f.op = 0x02 → aluLane f a b c = Num.toFp32 (A.add B.neg)) ∧
      (f.op = 0x03 → aluLane f a b c = Num.toFp32 (A.mul B)) ∧
      (f.op = 0x04 → aluLane f a b c = Num.toFp32 ((A.mul B).add C)) ∧
      (f.op = 0x05 → aluLane f a b c = Num.toFp32 (C.add (A.mul B).neg)) ∧
      (f.op = 0x06 → aluLane f a b c = Num.toFp32 (A.minimum B)) ∧
      (f.op = 0x07 → aluLane f a b c = Num.toFp32 (A.maximum B)) ∧
      (f.op = 0x09 → aluLane f a b c = if compareElem f.fn A B then 0xFFFFFFFF else 0)) ∧
    (f.ty ≠ 1 → f.op = 0x0A → aluLane f a b c = if c ≠ 0 then a else b) ∧
    (f.ty = 1 → f.op = 0x0A → aluLane f a b c = pairLane (if loHalf c ≠ 0 then loHalf a else loHalf b)
      (if hiHalf c ≠ 0 then hiHalf a else hiHalf b)) ∧
    (f.ty = 1 → f.op = 0x01 → aluLane f a b c =
      pairLane (Num.toBf16 ((bf16.decode (loHalf a)).add (bf16.decode (loHalf b))))
        (Num.toBf16 ((bf16.decode (hiHalf a)).add (bf16.decode (hiHalf b))))) ∧
    (f.op = 0x0B →
      (f.fn = 0 → aluLane f a b c = a + b) ∧ (f.fn = 1 → aluLane f a b c = a - b) ∧
      (f.fn = 2 → aluLane f a b c = a &&& b) ∧ (f.fn = 3 → aluLane f a b c = a ||| b) ∧
      (f.fn = 4 → aluLane f a b c = a ^^^ b) ∧ (f.fn = 5 → aluLane f a b c = a <<< k) ∧
      (f.fn = 6 → aluLane f a b c = a >>> k) ∧ (f.fn = 7 → aluLane f a b c = a.sshiftRight k) ∧
      (f.fn = 8 → (aluLane f a b c).toInt = min a.toInt b.toInt) ∧
      (f.fn = 9 → (aluLane f a b c).toInt = max a.toInt b.toInt) ∧ (f.fn = 10 → aluLane f a b c = a * b))) ∧
  (∀ (a b : W64),
    integerOp 0 a b = a + b ∧ integerOp 1 a b = a - b ∧ integerOp 2 a b = a &&& b ∧ integerOp 3 a b = a ||| b ∧
    integerOp 4 a b = a ^^^ b ∧
    (b.toNat < 64 → integerOp 5 a b = a <<< b.toNat ∧ integerOp 6 a b = a >>> b.toNat ∧
      integerOp 7 a b = a.sshiftRight b.toNat) ∧
    integerOp 8 a b = (if a.toInt < b.toInt then 1 else 0) ∧ integerOp 9 a b = (if a.toNat < b.toNat then 1 else 0) ∧
    (integerOp 10 a b).toInt = min a.toInt b.toInt ∧ (integerOp 11 a b).toInt = max a.toInt b.toInt ∧
    (integerOp 12 a b).toNat = min a.toNat b.toNat ∧ (integerOp 13 a b).toNat = max a.toNat b.toNat ∧
    (∀ k, k < 64 → (integerOp 14 a b = BitVec.ofNat 64 k ↔ a.getLsbD (63 - k) = true ∧ a.toNat < 2 ^ (64 - k))) ∧
    integerOp 15 a b = BitVec.ofNat 64 ((List.range 64).countP (fun i => a.getLsbD i)) ∧
    multiplyOp 0 a b = a * b ∧ (multiplyOp 2 a b).toNat = a.toNat * b.toNat / 2 ^ 64 ∧
    (multiplyOp 1 a b).toInt = a.toInt * b.toInt / 2 ^ 64 ∧
    (b = 0 → divideOp 0 a b = BitVec.allOnes 64 ∧ divideOp 1 a b = BitVec.allOnes 64 ∧ divideOp 2 a b = a ∧
      divideOp 3 a b = a) ∧
    (b ≠ 0 → (divideOp 1 a b).toNat = a.toNat / b.toNat ∧ (divideOp 3 a b).toNat = a.toNat % b.toNat) ∧
    (b ≠ 0 → ¬ (a = BitVec.intMin 64 ∧ b = BitVec.allOnes 64) →
      (divideOp 0 a b).toInt = a.toInt.tdiv b.toInt ∧ (divideOp 2 a b).toInt = a.toInt.tmod b.toInt)) ∧
  (∀ (f : VFields) (y : VTile), f.op = 0x20 → f.ty = 2 →
    reduceRun f y = ((List.range (f.cnt + 1)).map (fun k => ((List.range 256).map (lane (y.reg (f.va + k)))).sum)).sum)

/-- R98, R99: a row reduction that issues combines the lanes of each register in the tree's fixed order and the registers' trees
in ascending register order, and writes the one result into every lane of `VD`. Each of these commands completes as stated,
`exec` answering a next state: `rsum`, `rmax`, `rmin`, `rdot`. -/
def Obligations.ReductionsCombineInOrder : Prop :=
  ∀ (s : State) (t : VRef) (w : W64) (x : Site) (f : VFields), VIssues s t w x (.word f) →
    let y := x.die.vtile t.tile
    ∀ e ∈ [(0x20, Instr.rsum), (0x21, Instr.rmax), (0x22, Instr.rmin), (0x23, Instr.rdot)], f.op = e.1 →
      let op (a b : W32) : W32 :=
        if f.op = 0x21 then Num.toFp32 ((Num.ofFp32 a).maximum (Num.ofFp32 b))
        else if f.op = 0x22 then Num.toFp32 ((Num.ofFp32 a).minimum (Num.ofFp32 b))
        else if f.ty = 2 then a + b else Num.toFp32 ((Num.ofFp32 a).add (Num.ofFp32 b))
      let times (a b : W32) : W32 := Num.toFp32 ((Num.ofFp32 a).mul (Num.ofFp32 b))
      let lo (a : W32) : W32 := a <<< 16
      let hi (a : W32) : W32 := a >>> 16 <<< 16
      let start (a b : W32) : W32 :=
        if f.op = 0x23 then (if f.ty = 1 then op (times (lo a) (lo b)) (times (hi a) (hi b)) else times a b)
        else if f.ty = 1 then op (lo a) (hi a) else a
      ∃ (p : Nat → Nat → Nat → W32) (q : Nat → W32),
        (∀ k i, i < 256 → p k 0 i = start (lane (y.reg (f.va + k)) i) (lane (y.reg (f.vb + k)) i)) ∧
        (∀ k j i, j < 8 → i < 256 / 2 ^ (j + 1) → p k (j + 1) i = op (p k j (2 * i)) (p k j (2 * i + 1))) ∧
        q 0 = p 0 8 0 ∧ (∀ k, k < f.cnt → q (k + 1) = op (q k) (p (k + 1) 8 0)) ∧
        exec (e.2 t w) s = issuedV s t x (y.setReg f.vd (List.replicate 256 (q f.cnt)))

/-- R90, R124: a contiguous `LD` gives lane i of register `VD` + r the little-endian word at byte 64 × `IMM` + 1,024 × r + 4 × i
of the tile's SRAM, for r from 0 to `CNT`, and leaves every other register; `LDB` gives every lane of `VD` the word `FN` of the
unit at `IMM`. R90, R123–R129: what `LD` and `ST` do through an access-mode entry of the die, which is the strided entry of
zeros where the pattern gives none: a strided entry moves the units it names and counts their bank conflicts, a transposing
entry serves a load of a 128 × 128 block, and an entry that is reserved, out of range or transposing for a store is the fault of
R94. Each of these commands completes as stated, `exec` answering a next state: `ld`, `st`, `ldb`. -/
def Obligations.LoadsFillRegisters : Prop :=
  (∀ (s : State) (t : VRef) (w : W64) (x : Site) (f : VFields), VIssues s t w x (.word f) →
    let y := x.die.vtile t.tile
    (f.op = 0x30 → f.fn = 0 → x.die.parityAt (8 + t.tile) (64 * f.imm.toNat) (1024 * (f.cnt + 1)) = none →
      ∃ z : VTile, exec (.ld t w) s = issuedV s t x z ∧ z = { y with regs := z.regs } ∧
        (∀ r, r ≤ f.cnt → ∀ i, i < 256 →
          lane (z.reg (f.vd + r)) i = BitVec.ofNat 32 (wordAt y.sram (64 * f.imm.toNat + 1024 * r + 4 * i) 4)) ∧
        (∀ q, q < f.vd ∨ f.vd + f.cnt < q → z.reg q = y.reg q)) ∧
    (f.op = 0x32 → x.die.parityAt (8 + t.tile) (64 * f.imm.toNat + 4 * f.fn) 4 = none →
      exec (.ldb t w) s = issuedV s t x
        (y.setReg f.vd (List.replicate 256 (BitVec.ofNat 32 (wordAt y.sram (64 * f.imm.toNat + 4 * f.fn) 4)))))) ∧
  (∀ (s : State) (t : VRef) (w : W64) (x : Site) (f : VFields), VIssues s t w x (.word f) → f.fn ≠ 0 →
    let y := x.die.vtile t.tile
    let m := (x.pat.die x.d).accessMode t.tile f.fn
    let after (d : Die) : Out := .next (s.putDie x (advanceV t.tile d))
    let faults : Out := .next (s.softFault x.p .faultEncoding x.d)
    (m.kind = 0 → m.piece ≤ 4 → m.inRange f.imm (f.cnt + 1) = true →
      (f.op = 0x30 → ((List.range (16 * (f.cnt + 1))).map (fun i => (m.unitAt f.imm (i / 16) (i % 16)).toNat)).findSome?
          (fun u => x.die.parityAt (8 + t.tile) (64 * u) 64) = none →
        exec (.ld t w) s = after (stridedConflicts m f.imm (f.cnt + 1) t.tile
          (x.die.setVtile t.tile (loadStrided f m y)))) ∧
      (f.op = 0x31 → exec (.st t w) s = after (stridedConflicts m f.imm (f.cnt + 1) t.tile
        (storeStrided f m t.tile y x.die)))) ∧
    (m.kind = 1 → f.op = 0x30 → f.cnt ≤ 31 → inMemory f.imm 512 tileUnits = true →
      x.die.parityAt (8 + t.tile) (64 * f.imm.toNat) 32768 = none → exec (.ld t w) s = issuedV s t x (loadTurned f y)) ∧
    (m.kind ≠ 0 → f.op = 0x31 → exec (.st t w) s = faults) ∧
    (1 < m.kind ∨ m.kind = 0 ∧ (4 < m.piece ∨ m.inRange f.imm (f.cnt + 1) = false) ∨
        m.kind = 1 ∧ (31 < f.cnt ∨ inMemory f.imm 512 tileUnits = false) → f.op = 0x30 → exec (.ld t w) s = faults))

/-- R90, R124: a contiguous `ST`, and a `PUT` into the tile's own SRAM, store the `CNT` + 1 registers from `VA` at byte 64 ×
`IMM` of that SRAM: byte 1,024 × r + 4 × i + j of the stored bytes is byte j of lane i of register `VA` + r, every other byte of
the SRAM reads as before, and no register changes. R90, R131, R161: a `PUT` to the local port queues its registers in the
crossing; one to another scratchpad of the die is one remote write for each register, in order, and is a credit fault where no
entry of the credit table covers one. Each of these commands completes as stated, `exec` answering a next state: `st`, `put`. -/
def Obligations.StoresAndPutsMoveRegisters : Prop :=
  (∀ (s : State) (t : VRef) (w : W64) (x : Site) (f : VFields), VIssues s t w x (.word f) → f.fn = 0 →
    let y := x.die.vtile t.tile
    let base := 64 * f.imm.toNat
    ∀ command, (f.op = 0x31 ∧ command = Instr.st t w ∨ f.op = 0x33 ∧ f.vd = t.tile.val ∧ command = Instr.put t w) →
      ∃ d : Die, exec command s = .next (s.putDie x (advanceV t.tile d)) ∧ d = storeRegs f t.tile y x.die ∧
        (d.vtile t.tile).regs = y.regs ∧
        (∀ v, v ≠ t.tile.val → d.vtile v = x.die.vtile v) ∧ d.m = x.die.m ∧ d.buffer = x.die.buffer ∧
        (∀ a, Mem.read (d.vtile t.tile).sram a =
          if base ≤ a ∧ a < base + 1024 * (f.cnt + 1) then
            BitVec.ofNat 8 ((lane (y.reg (f.va + (a - base) / 1024)) ((a - base) % 1024 / 4)).toNat / 256 ^ ((a - base) % 4))
          else Mem.read y.sram a)) ∧
  (∀ (s : State) (t : VRef) (w : W64) (x : Site) (f : VFields), VIssues s t w x (.word f) → f.op = 0x33 →
    let y := x.die.vtile t.tile
    let mem := if f.fn = 0 then 8 + f.vd else if f.fn = 1 then 20 else f.vd
    let writes := (runBytes f y).map (fun e => (64 * f.imm.toNat + 1024 * e.1, e.2))
    (f.fn = 2 → exec (.put t w) s = .next (s.putDie x (advanceV t.tile
      { x.die with pushes := x.die.pushes ++ (List.range (f.cnt + 1)).map (fun r =>
          ⟨8 + t.tile, 0, .reg f.ty, y.reg (f.va + r), x.part.run.clock + 3 + r⟩) }))) ∧
    (f.fn ≠ 2 → ¬ (f.fn = 0 ∧ f.vd = t.tile.val) →
      exec (.put t w) s =
        match x.die.issueWrites 2 t.tile 0 mem writes x.part.run.elapsed with
        | some d => .next (s.putDie x (advanceV t.tile d))
        | none => .next (s.softFault x.p .faultCredit x.d)))

/-! ### C-tile cores -/

/-- R106, R107, R108: the instructions that only compute a register write it, x0 excepted, and go on to the next word. R88,
R107, R108: where `FENCE`, branches, `JAL`, `JALR` and `END` leave the core; `JAL` and `JALR` write pc + 4, and `JALR` reads its
target before. Each of these commands completes as stated, `exec` answering a next state: `ctInteger`, `ctIntegerImmediate`,
`shiftIn`, `multiply`, `divide`, `fence`, `branch`, `jal`, `jalr`, `tpoll`, `seqPortRead`, `ctEnd`. -/
def Obligations.CoreRegisterAndFlowInstructions : Prop :=
  (∀ (s : State) (c : CRef) (w : W32) (x : Site) (f : CFields), CIssues s c w x f →
    let y := x.die.core c.core
    let a := y.reg f.rs1
    let b := y.reg f.rs2
    let gives (v : W64) : Out := issuedC s c x { (if f.rd = 0 then y else { y with x := Sparse.setD 0 y.x f.rd v }) with pc := y.pc + 4 }
    (f.op = 0x00 → exec (.ctInteger c w) s = gives (integerOp f.fn a b)) ∧
    (1 ≤ f.op ∧ f.op ≤ 7 → exec (.ctIntegerImmediate c w) s = gives (immediateOp f.op a f)) ∧
    (f.op = 0x08 → exec (.shiftIn c w) s = gives ((y.reg f.rd <<< 16) ||| BitVec.ofNat 64 f.immU)) ∧
    (f.op = 0x0C → exec (.multiply c w) s = gives (multiplyOp f.fn a b)) ∧
    (f.op = 0x0D → exec (.divide c w) s = gives (divideOp f.fn a b)) ∧
    (f.op = 0x2A → exec (.tpoll c w) s = gives (BitVec.ofNat 64 y.rx.length)) ∧
    (f.op = 0x30 → f.fn ∈ [0, 1, 2, 6] → exec (.seqPortRead c w) s = gives (BitVec.ofNat 64
      (if f.fn = 0 then x.part.run.beat else if f.fn = 1 then x.part.run.rounds
        else if f.fn = 2 then x.context.step else x.d)))) ∧
  (∀ (s : State) (c : CRef) (w : W32) (x : Site) (f : CFields), CIssues s c w x f →
    let y := x.die.core c.core
    let a := y.reg f.rs1
    let b := y.reg f.rd
    let there := (BitVec.ofNat 64 y.pc + BitVec.ofInt 64 (4 * f.imm)).toNat
    let link := y.setReg f.rd (BitVec.ofNat 64 (y.pc + 4))
    let taken := (f.op = 0x20 ∧ a = b) ∨ (f.op = 0x21 ∧ a ≠ b) ∨ (f.op = 0x22 ∧ a.toInt < b.toInt) ∨
      (f.op = 0x23 ∧ b.toInt ≤ a.toInt) ∨ (f.op = 0x24 ∧ a.toNat < b.toNat) ∨ (f.op = 0x25 ∧ b.toNat ≤ a.toNat)
    (f.op = 0x1E → exec (.fence c w) s = issuedC s c x { y with pc := y.pc + 4 }) ∧
    (0x20 ≤ f.op ∧ f.op ≤ 0x25 → taken → exec (.branch c w) s = issuedC s c x { y with pc := there }) ∧
    (0x20 ≤ f.op ∧ f.op ≤ 0x25 → ¬ taken → exec (.branch c w) s = issuedC s c x { y with pc := y.pc + 4 }) ∧
    (f.op = 0x26 → exec (.jal c w) s = issuedC s c x { link with pc := there }) ∧
    (f.op = 0x27 → exec (.jalr c w) s = issuedC s c x { link with pc := (a + BitVec.ofInt 64 f.imm).toNat }) ∧
    (f.op = 0x3F → exec (.ctEnd c w) s = issuedC s c x { y with running := false }))

/-- R108, R109, R121, R122, R131, R135: loads from and stores to the core's own SRAM, reads of the die buffer, and die writes
under credit. A load whose bytes are clean writes their value, extended as its opcode says; a store moves on, and its bytes are
in the SRAM from the fourth cycle after; a die access outside its map and a die write without a credit entry are software
faults. A load or store outside the SRAM is a fault as R94 by the model's choice (log entry 96). Each of these commands
completes as stated, `exec` answering a next state: `ctLoad`, `ctStore`, `dieRead`, `dieWrite`. -/
def Obligations.CoreMemoryInstructions : Prop :=
  (∀ (s : State) (c : CRef) (w : W32) (x : Site) (f : CFields), CIssues s c w x f →
    let y := x.die.core c.core
    let a := coreAddress y f
    let n := accessBytes f.op
    let fails (st : Status) : Out := .next (s.softFault x.p st x.d)
    (0x10 ≤ f.op ∧ f.op ≤ 0x16 → 64 * ctileUnits < a + n → exec (.ctLoad c w) s = fails .faultEncoding) ∧
    (0x10 ≤ f.op ∧ f.op ≤ 0x16 → a + n ≤ 64 * ctileUnits → x.die.parityAt (coreMem c.core) a n = none →
      exec (.ctLoad c w) s = issuedC s c x (y.put f.rd
        (if 0x14 ≤ f.op then BitVec.ofInt 64 (signed (8 * n) (wordAt (x.die.memory (coreMem c.core)) a n))
         else BitVec.ofNat 64 (wordAt (x.die.memory (coreMem c.core)) a n)))) ∧
    (0x18 ≤ f.op ∧ f.op ≤ 0x1B → 64 * ctileUnits < a + n → exec (.ctStore c w) s = fails .faultEncoding) ∧
    (0x18 ≤ f.op ∧ f.op ≤ 0x1B → a + n ≤ 64 * ctileUnits →
      (n = 8 ∧ a % 8 = 0) ∨ x.die.parityAt (coreMem c.core) a n = none → exec (.ctStore c w) s =
        .next (s.putDie x ((x.die.addStore ⟨c.core / 4, c.core, s.beat, a, leBytes n (y.reg f.rd).toNat⟩).setCore c.core
          y.next))) ∧
    (f.op = 0x1C → a < bufferBase ∨ bufferBase + 0x00800000 < a + 8 → exec (.dieRead c w) s = fails .faultDieAccess) ∧
    (f.op = 0x1C → bufferBase ≤ a → a + 8 ≤ bufferBase + 0x00800000 → x.die.parityAt 20 (a - bufferBase) 8 = none →
      exec (.dieRead c w) s = issuedC s c x (y.put f.rd (BitVec.ofNat 64 (wordAt x.die.buffer (a - bufferBase) 8)))) ∧
    (f.op = 0x1D → dieWriteTarget a = none → exec (.dieWrite c w) s = fails .faultDieAccess) ∧
    (∀ mem at_, f.op = 0x1D → dieWriteTarget a = some (mem, at_) → exec (.dieWrite c w) s =
      match x.die.issueWrite 3 c.core 0 mem at_ (leBytes 8 (y.reg f.rd).toNat) x.part.run.elapsed with
      | some d => .next (s.putDie x (d.setCore c.core y.next))
      | none => fails .faultCredit)) ∧
  (∀ (d : Die) (e : CoreStore) (now : Nat), d.stores = [e] → d.visibleStores now =
    if now < e.beat + 4 then d else { d.writeMem (21 + e.ctile) e.addr e.data with stores := [] })

/-- R108, R110, R189, R190: `TSEND` puts a packet with the core's own tether address into the partition's tether network and
moves on, or is a tether fault where the address names no node of the partition; `TRECV` takes the oldest packet, or waits.
R108, R111, R413, R524: the sequencer port's signal, wait and ready flag, and `FAULT`. The signal adds one to the event's count
and refills credits; the wait holds the core; setting a flag lets a sync point that waits on it drop its belay and clear the
flag in the beat after; `FAULT` ends the job with the code in `DETAIL`. Register values that name no event or flag are free (log
entry 19). Each of these commands completes as stated, `exec` answering a next state: `tsend`, `trecv`, `seqPortSignal`,
`seqPortWait`, `seqPortSetReady`, `ctFault`. -/
def Obligations.CorePortsAndTether : Prop :=
  (∀ (s : State) (c : CRef) (w : W32) (x : Site) (f : CFields), CIssues s c w x f →
    let y := x.die.core c.core
    let dest := (y.reg f.rs1).toNat
    let moved := x.part.setDie x.d (x.die.setCore c.core y.next)
    (f.op = 0x28 → dest < 65536 → x.part.reaches dest = true → exec (.tsend c w) s = .next (s.setPartition x.p
      { moved with tether := x.part.tether ++ [(dest, s.beat, ⟨c.core + 32 * x.d, (y.reg f.rs2).setWidth 32⟩)] })) ∧
    (f.op = 0x28 → ¬ (dest < 65536 ∧ x.part.reaches dest = true) →
      exec (.tsend c w) s = .next (s.softFault x.p .faultTether x.d)) ∧
    (∀ p rest, f.op = 0x29 → y.rx = p :: rest → exec (.trecv c w) s = issuedC s c x
      { (y.setReg f.rd (BitVec.ofNat 64 (p.payload.toNat + 2 ^ 32 * p.src))).next with rx := rest }) ∧
    (f.op = 0x29 → y.rx = [] → exec (.trecv c w) s = issuedC s c x { y.next with waiting := some (.packet f.rd) })) ∧
  (∀ (s : State) (c : CRef) (w : W32) (x : Site) (f : CFields), CIssues s c w x f →
    let y := x.die.core c.core
    let v := y.reg f.rs1
    (f.op = 0x30 → f.fn = 3 → v.toNat < 256 → exec (.seqPortSignal c w) s =
      .next (s.putDie x ((x.die.signal v.toNat).setCore c.core y.next))) ∧
    (f.op = 0x30 → f.fn = 4 → v.toNat < 256 → exec (.seqPortWait c w) s =
      issuedC s c x { y.next with waiting := some (.event v.toNat) }) ∧
    (f.op = 0x30 → f.fn = 5 → v.toNat < 16 → exec (.seqPortSetReady c w) s =
      .next ((s.putDie x ({ x.die with ready := x.die.ready ||| (1#16 <<< v.toNat) }.setCore c.core y.next)).releaseSyncs
        c.part c.die)) ∧
    (f.op = 0x38 → exec (.ctFault c w) s = .next (s.softFault x.p .faultProgram f.immU)))

/-- R524: EVENT_WAIT_COMPLETE takes one signal of an event whose count is at least 1 and lets the first waiter go on, M-tiles
before V-tiles before cores and each group in ascending order; no other unit's wait ends. Under its conditions the command
completes, `exec` answering a next state: `eventWaitComplete`. -/
def Obligations.OneSignalReleasesOneWait : Prop :=
  ∀ (s : State) (d : DRef) (event : BitVec 8) (x : Site), s.siteAny d.part d.die = some x → x.die.stopped = false →
    0 < x.die.eventCount event.toNat → s.frozen d.part = false →
    let n := x.die.eventCount event.toNat
    let e := event.toNat
    let waitsM (t : Nat) := (x.die.mtile t).prog.waiting = some e
    let waitsV (t : Nat) := (x.die.vtile t).prog.waiting = some e
    let waitsC (t : Nat) := (x.die.core t).waiting = some (.event e)
    (∀ t, t < 8 → waitsM t → (∀ u, u < t → ¬ waitsM u) → exec (.eventWaitComplete d event) s =
      .next (s.putDie x ((x.die.setMtile t
        { x.die.mtile t with prog := { (x.die.mtile t).prog with waiting := none } }).setEvent e (n - 1)))) ∧
    (∀ t, t < 12 → waitsV t → (∀ u, u < t → ¬ waitsV u) → (∀ u, u < 8 → ¬ waitsM u) →
      exec (.eventWaitComplete d event) s = .next (s.putDie x ((x.die.setVtile t
        { x.die.vtile t with prog := { (x.die.vtile t).prog with waiting := none } }).setEvent e (n - 1)))) ∧
    (∀ t, t < 16 → waitsC t → (∀ u, u < t → ¬ waitsC u) → (∀ u, u < 8 → ¬ waitsM u) → (∀ u, u < 12 → ¬ waitsV u) →
      exec (.eventWaitComplete d event) s =
        .next (s.putDie x ((x.die.setCore t { x.die.core t with waiting := none }).setEvent e (n - 1)))) ∧
    ((∀ u, u < 8 → ¬ waitsM u) → (∀ u, u < 12 → ¬ waitsV u) → (∀ u, u < 16 → ¬ waitsC u) →
      exec (.eventWaitComplete d event) s = .next s)

/-! ### Sequencers, rounds and steps -/

/-- R54, R88, R111, R112, R168, R169, R524: what a die's sequencer does with the entry that is due. A start begins a unit that
has reached `END` at byte 64 × `ARG` and is a busy-start fault of any other; a signal counts; a sync point clears a set flag or
raises belay; and a sync belay whose flag is not set and that is older than the sync timeout, which runs on while the domain is
frozen, ends the job and is dropped. R134: CREDIT_HOLD_TIMEOUT ends the job with a sync-timeout fault once a write of the die
has been held, over unfrozen beats, for longer than the pattern's sync timeout; before that it changes nothing. Each of these
commands completes as stated, `exec` answering a next state: `creditHoldTimeout`, `sequencerStart`, `sequencerSignal`,
`syncPoint`, `syncTimeout`. -/
def Obligations.SequencersAct : Prop :=
  ((∀ (s : State) (d : DRef) (x : Site), s.site d.part d.die = some x →
    (∀ e, x.due = some e →
      let t := x.die.mtile e.unit
      let v := x.die.vtile e.unit
      let c := x.die.core e.unit
      let after (y : Die) : Out := .next (s.putDie x { y with seqPos := y.seqPos + 1 })
      let f := e.arg % 16
      (e.act = 0 → x.die.mDone e.unit = true → exec (.sequencerStart d) s = after (x.die.setMtile e.unit
        { t with prog := ⟨true, false, true, 64 * e.arg, none, none⟩, chain := none, held := none, first := none,
                 want := none })) ∧
      (e.act = 1 → x.die.vDone e.unit = true → exec (.sequencerStart d) s = after (x.die.setVtile e.unit
        { v with prog := ⟨true, false, true, 64 * e.arg, none, none⟩ })) ∧
      (e.act = 2 → x.die.cDone e.unit = true → exec (.sequencerStart d) s = after (x.die.setCore e.unit
        { c with pc := 64 * e.arg, running := true, started := true, waiting := none })) ∧
      ((e.act = 0 ∧ x.die.mDone e.unit = false) ∨ (e.act = 1 ∧ x.die.vDone e.unit = false) ∨
        (e.act = 2 ∧ x.die.cDone e.unit = false) →
        exec (.sequencerStart d) s = .next (s.softFault d.part .faultBusyStart d.die)) ∧
      (e.act = 3 → exec (.sequencerSignal d) s = after (x.die.signal (e.arg % 256))) ∧
      (e.act = 4 → x.die.ready.getLsbD f = true →
        exec (.syncPoint d) s = after { x.die with ready := x.die.ready &&& ~~~ (1#16 <<< f) }) ∧
      (e.act = 4 → x.die.ready.getLsbD f = false → exec (.syncPoint d) s =
        .next ((s.putDie x { x.die with syncs := x.die.syncs ++ [(f, s.time)], seqPos := x.die.seqPos + 1 }).raise
          (s.wireOf d.part) (.sync d.part d.die f))))) ∧
  (∀ (s : State) (d : DRef) (x : Site), s.siteAny d.part d.die = some x → ∀ flag : Fin 16,
    (∃ since, (flag.val, since) ∈ x.die.syncs ∧ x.die.ready.getLsbD flag = false ∧
        x.pat.syncTimeout * usec < s.time - since) →
      exec (.syncTimeout d flag) s =
        .next ((s.softFault d.part .faultSyncTimeout d.die).dropBoth d.part (.sync d.part d.die flag)))) ∧
  (∀ (s : State) (d : DRef) (x : Site), s.site d.part d.die = some x →
    ((∃ h ∈ x.die.held, x.pat.syncTimeout * usec < x.part.run.elapsed - h.since) →
      exec (.creditHoldTimeout d) s = .next (s.softFault d.part .faultSyncTimeout d.die)) ∧
    ((∀ h ∈ x.die.held, x.part.run.elapsed - h.since ≤ x.pat.syncTimeout * usec) →
      exec (.creditHoldTimeout d) s = .next s))

/-- R166, R167, R200, R208: ROUND_START of an admitted round that nothing holds. Every die's slot-table and sequencer counters
and landing pointers return, the round count advances, and the beat is 0; other partitions, the rings and the wires are left
alone. At a block or phase boundary with work still open it is a phase fault of the lowest such die. Under its conditions the
command completes, `exec` answering a next state: `roundStart`. -/
def Obligations.RoundsStart : Prop :=
  ∀ (s : State) (p : PartId) (x : Partition) (c : Nat) (v : Context) (q : Pattern) (e n : Nat) (newStep : Bool),
    s.partition? p = some x → x.running? = some (c, v) → v.pattern = some q → x.nextRound v q = some (e, n, newStep) →
    x.run.admitted = true → s.frozen p = false → x.run.holds = [] →
    (x.run.phase ≠ .round ∨ q.length x.run.entry ≤ x.run.beat ∧ newStep = false) →
    (s.inTransitGroup p = true → s.transitBeat % 64 = 0) →
    let boundary := 0 < x.run.rounds ∧ x.run.restartAt = none ∧
      ((q.layerOf x.run.entry).block ≠ (q.layerOf e).block ∨ (q.layerOf x.run.entry).phase ≠ (q.layerOf e).phase)
    ((boundary → ∀ d, d < x.size → (x.die d).phaseClear = true) →
      ∃ (t : State) (y : Partition), exec (.roundStart p) s = .next t ∧ t.partition? p = some y ∧
        y.run.phase = .round ∧ y.run.entry = e ∧ y.run.rep = n ∧ y.run.beat = 0 ∧ y.run.rounds = x.run.rounds + 1 ∧
        y.run.admitted = false ∧ y.contexts = x.contexts ∧ y.credit = x.credit ∧
        (∀ d, d < x.size → (y.die d).seqPos = 0 ∧ (y.die d).landed = [] ∧ (y.die d).slotDone = none) ∧
        (∀ r, r ≠ p.val → t.partition? r = s.partition? r) ∧ t.rings = s.rings ∧ t.wires = s.wires) ∧
    (boundary → ∀ d, d < x.size → (x.die d).phaseClear = false → (∀ o, o < d → (x.die o).phaseClear = true) →
      exec (.roundStart p) s = .next (s.softFault p .faultPhase d))

/-- R196, R200, R387, R427: ROUND_ADMISSION near a boundary admits the next round when nothing else holds it and the credit
covers its counted estimate with no partition hot and the input guard clear, and otherwise begins a round-start hold;
HELD_ROUND_ADMIT admits a held round on the same test, in the transit group in the beat that ends the freeze, with any beats of
re-entry, at a multiple of 64. Admission takes the estimate off the credit. Each of these commands completes as stated, `exec`
answering a next state: `roundAdmission`, `heldRoundAdmit`. -/
def Obligations.RoundsAreAdmitted : Prop :=
  ∀ (s : State) (p : PartId) (x : Partition) (c : Nat) (v : Context) (q : Pattern) (e n : Nat) (newStep : Bool),
    s.partition? p = some x → x.running? = some (c, v) → v.pattern = some q → x.nextRound v q = some (e, n, newStep) →
    let need := s.need q (q.table e)
    let others := s.otherHolds p x v q newStep
    let passes := ((need * creditUnit : Nat) : Int) ≤ x.credit ∧ x.hot = false ∧ s.inputGuard = false
    let more := if 63 < (s.wire p).beats ∧ (s.wire p).sources.all (fun y => y == .roundStart p) = true then 32 else 0
    (x.wantsEntry v newStep = false → s.reserveEntry p c newStep = some s) ∧
    (∀ (t : State) (y : Machine.Partition), t.partition? p = some y → t.admitRound p need = t.setPartition p { y with
      credit := y.credit - ((need * creditUnit : Nat) : Int), estSum := y.estSum + need,
      run := { y.run with admitted := true, unreconciled := y.run.unreconciled ++ [need] } }) ∧
    (x.teardown = false → x.run.admitted = false → x.run.holds.contains .credit = false →
      (x.run.phase ≠ .round ∨ q.length x.run.entry ≤ x.run.beat + 24) → x.response.due = false →
      x.response.restoring = false →
      (∀ t, s.reserveEntry p c newStep = some t → others = [] → passes →
        exec (.roundAdmission p) s = .next (t.admitRound p need)) ∧
      (∀ t, s.reserveEntry p c newStep = some t → ¬ (others = [] ∧ passes) →
        exec (.roundAdmission p) s = .next (t.holdFor p (others ++ [.credit]))) ∧
      (s.reserveEntry p c newStep = none →
        exec (.roundAdmission p) s = .next (s.holdFor p (others ++ [.ringFull, .credit])))) ∧
    (x.run.holds.contains .credit = true → (∀ h ∈ x.run.holds, h = .credit ∨ h = .ringFull) →
      (s.inTransitGroup p = true → (s.transitBeat + 24 + more) % 64 = 0) →
      ∀ t, s.reserveEntry p c newStep = some t → passes → exec (.heldRoundAdmit p) s =
        .next (((t.admitRound p need).releaseRound p .ringFull).releaseRound p .credit))

/-- R166, R244, R387, R405: STEP_END after the last beat of a step's last round advances the step index, clears the step's
detections and posts the step's completion in the entry reserved for it; with the last commanded step the command is done, and
otherwise it goes on. Under its conditions the command completes, `exec` answering a next state: `stepEnd`. -/
def Obligations.StepsEnd : Prop :=
  ∀ (s : State) (p : PartId) (x : Partition) (c : Nat) (v : Context) (q : Pattern) (cmd : StepCommand),
    s.partition? p = some x → x.running? = some (c, v) → v.pattern = some q → v.steps = some cmd →
    x.lastRound q = true → q.length x.run.entry ≤ x.run.beat → x.response.due = false → x.response.restoring = false →
    (x.sitsOut = true → x.response.sitOut.length < q.strands) →
    let last := decide (cmd.total ≤ cmd.done + 1)
    let words := stepWords v.step last x.response.sitOut x.response.reruns x.unresolved x.clamps cmd.belay (cmd.energy / 1000)
    let y : Context := { v with
      step := v.step + 1, blockedSince := if last then s.time else v.blockedSince,
      steps := if last then none
        else some { cmd with done := cmd.done + 1, entries := cmd.entries - 1, belay := 0, energy := 0 } }
    exec (.stepEnd p) s = .next ((s.setPartition p { x.setContext c y with
      response := { Response.none with
        streak := x.response.streak.filter (fun e => x.response.detected.contains e.1), resync := x.response.resync },
      run := { x.run with phase := if last then .idle else .boundary } }).postStep cmd words last)

/-- R139–R143, R212, R246: ERROR_RESPONSE_DECISION in the frozen domain chooses sit-out or re-run by the partition's mode and
number of strands and drops the detections' belay, a re-run keeping the wire raised. RESTORE_HOLD_RELEASE waits for a
calibrating rim that has received flits to commit; with none received it leaves a partition in a round at its restart point with
one more re-run and no hold of its own, and at a boundary lets it go on where it stands. RESYNC with every strand sat out ends
the job, and otherwise empties the set of strands that wait. Each of these commands completes as stated, `exec` answering a next
state: `errorResponseDecision`, `restoreHoldRelease`, `resync`. -/
def Obligations.DetectedErrorsAreAnswered : Prop :=
  ∀ (s : State) (p : PartId) (x : Partition), s.partition? p = some x →
    (x.response.due = true → s.frozen p = true →
      exec (.errorResponseDecision p) s = .next (
        if x.sitsOut then
          (s.setPartition p (Partition.sitOutStrands { x with response := { x.response with due := false } })).dropWhere p
            (Source.isDetection p)
        else ((s.setPartition p { x with response := { x.response with due := false, restoring := true } }).raise
          (s.wireOf p) (.restoreHold p)).dropWhere p (Source.isDetection p))) ∧
    (∀ c v q, x.running? = some (c, v) → v.pattern = some q →
      (x.response.restoring = true → s.commitWaits x = true → exec (.restoreHoldRelease p) s = .next s) ∧
      (x.response.restoring = true →
        (∀ k ∈ x.stackRims, ∀ n, (Sparse.getD Engine.idle (s.rim k).ctx.engines n).received = []) →
        s.commitWaits x = false → ∃ (t : State) (z : Partition), exec (.restoreHoldRelease p) s = .next t ∧
          t.partition? p = some z ∧ z.response.restoring = false ∧ z.response.marker = false ∧
          (x.run.phase = .round → z.run.phase = .boundary ∧ z.run.beat = 0 ∧ z.run.holds = [] ∧ z.run.admitted = false ∧
            z.run.restartAt = some (x.restartEntry q) ∧ z.response.reruns = x.response.reruns + 1) ∧
          (x.run.phase ≠ .round → z.run = x.run)) ∧
      ((x.run.phase ≠ .round ∨ x.lastRound q = true ∧ q.length x.run.entry ≤ x.run.beat) → x.response.resync ≠ [] →
        ((∀ g, g < q.strands → x.response.resync.contains g = true) →
          exec (.resync p) s = .next (s.softFault p .strandsExhausted (Config.faultDetail 0).toNat)) ∧
        ((∃ g, g < q.strands ∧ x.response.resync.contains g = false) →
          ∃ (t : State) (z : Partition), exec (.resync p) s = .next t ∧ t.partition? p = some z ∧ z.response.resync = [])))

/-- R379, R429, R430, R466: LEDGER_WINDOW_END under power-good takes the window's measurements, the overhead kept below half the
floor envelope, and sets the input guard above 105 % of the limit in force and clears it at or below the limit; RECONCILIATION
of an ended round returns its estimate to the credit and charges what was measured, and outside rounds only charges. Each of
these commands completes as stated, `exec` answering a next state: `ledgerWindowEnd`, `reconciliation`. -/
def Obligations.LedgerCounts : Prop :=
  (∀ (s : State) (mean vin overhead : Nat), s.power = .good → exec (.ledgerWindowEnd mean vin overhead) s =
    .next (State.relimit { s with
      pinW := mean, vin := vin, overhead := min overhead (s.part.floorW / 2 - 1),
      inputGuard := if 105 * s.beatLimit < 100 * mean then true else if mean ≤ s.beatLimit then false else s.inputGuard })) ∧
  (∀ (s : State) (p : PartId) (uj : Nat) (x : Partition), s.partition? p = some x →
    (∀ need rest, x.run.unreconciled = need :: rest → 0 < x.endedRounds →
      ∃ t y, exec (.reconciliation p uj) s = .next t ∧ t.partition? p = some y ∧
        y.credit = x.credit + ((need * creditUnit : Nat) : Int) - ((uj * creditUnit : Nat) : Int) ∧
        y.measSum = x.measSum + uj ∧ y.run.unreconciled = rest ∧
        Sparse.getD 0 y.counters energyUj = (Sparse.getD 0 x.counters energyUj + uj) % 2 ^ 64 ∧ y.dies = x.dies) ∧
    (x.endedRounds = 0 → ∃ t y, exec (.reconciliation p uj) s = .next t ∧ t.partition? p = some y ∧
        y.credit = x.credit - ((uj * creditUnit : Nat) : Int) ∧ y.run = x.run ∧ y.measSum = x.measSum ∧
        Sparse.getD 0 y.counters energyUj % 2 ^ 64 = (Sparse.getD 0 x.counters energyUj + uj) % 2 ^ 64 ∧ y.dies = x.dies))

/-! ### The belay line -/

/-- R194–R196, R201: DOMAIN_FREEZE records every M-tile's level as its held level in the first frozen beat, DOMAIN_RESUME ends
the freeze, RE_ENTRY keeps a wire up for 32 beats, and a wire raised without a break for more than 50 ms is a hardware fault at
the lowest node of its sources. R194: a passing beat moves a wire's history on by one place: the newest place says whether it is
raised, so a partition's domain is frozen exactly when its wire, or the transit wire, was raised 24 beats before. Each of these
commands completes as stated, `exec` answering a next state: `domainFreeze`, `domainResume`, `reEntry`, `belayTimeout`. -/
def Obligations.BelayLineActs : Prop :=
  ((∀ (s : State) (p : PartId) (x : Partition), s.partition? p = some x → x.run.frozen = false → s.frozen p = true →
    ∃ y, exec (.domainFreeze p) s = .next (s.setPartition p y) ∧ y.run = { x.run with frozen := true, frozenBeats := 0 } ∧
      y.contexts = x.contexts ∧ ∀ d t,
        (y.die d).mtile t = { (x.die d).mtile t with heldLevel := ((x.die d).mtile t).level }) ∧
  (∀ (s : State) (p : PartId) (x : Partition), s.partition? p = some x → x.run.frozen = true → s.frozen p = false →
    exec (.domainResume p) s =
      .next (s.setPartition p { x with run := { x.run with frozen := false, frozenBeats := 0 } })) ∧
  (∀ (s : State) (w : Wire), (s.wire w).sources = [.reEntry] → (s.wire w).reEntry = 0 →
    exec (.reEntry w) s = .next (s.setWire w { s.wire w with reEntry := 32 })) ∧
  (∀ (s : State) (w : Wire) (since : Nat), (s.wire w).since = some since → 50 * msec < s.time - since →
    let nodes := (s.wire w).sources.filterMap s.sourceNode
    exec (.belayTimeout w) s = .next (s.hardFault .hwBelayTimeout (nodes.foldl min (nodes.headD 0)) 0))) ∧
  (∀ (w : Wires), w.tick.hist.getLsbD 0 = w.raised ∧ ∀ i, i < 23 → w.tick.hist.getLsbD (i + 1) = w.hist.getLsbD i)

/-! ### Fabric, splice reduction and tether -/

/-- R151, R155, R156, R161, R229: SLOT_ENTRY in a beat of a round that the die has not yet run. An entry that injects takes the
oldest flit of its queue, zeros on a stopped die, and is an underrun fault on an empty queue; a splice addition whose operand is
no BSI flit is a splice fault; and otherwise the die has run this beat and a named delivery is on its way through the entry's
landing pointer. Under its conditions the command completes, `exec` answering a next state: `slotEntry`. -/
def Obligations.SlotEntriesRoute : Prop :=
  ∀ (s : State) (d : DRef) (x : Site), s.site d.part d.die = some x → x.part.run.phase = .round →
    x.part.run.beat < x.pat.length x.part.run.entry → x.die.slotDone ≠ some x.part.run.clock →
    let clock := x.part.run.clock
    let word := x.pat.slot x.d (x.pat.table x.part.run.entry) x.part.run.beat
    let input (side : Nat) : Flit :=
      ((x.die.inputs.find? (fun a => a.side == side && a.beat == clock)).map (·.flit)).getD .zero
    let queue := Sparse.getD [] x.die.queues (slotInjection word)
    let inj := if slotInjects word = true ∧ x.die.stopped = false then queue.headD .zero else .zero
    let output (o : Nat) := slotOutput word o input inj
    (slotInjects word = true → x.die.stopped = false → queue = [] →
      exec (.slotEntry d) s = .next (s.softFault d.part .faultUnderrun d.die)) ∧
    ((slotInjects word = true → x.die.stopped = false → queue ≠ []) →
      ((∃ o f, o < 5 ∧ output o = some (f, true)) →
        exec (.slotEntry d) s = .next (s.softFault d.part .faultSplice d.die)) ∧
      ((∀ o f, o < 5 → output o ≠ some (f, true)) → ∃ (t : State) (y : Machine.Partition),
        exec (.slotEntry d) s = .next t ∧ t = s.setPartition d.part y ∧ y.run = x.part.run ∧ y.contexts = x.part.contexts ∧
        (y.die x.d).slotDone = some clock ∧
        (y.die x.d).deliveries = x.die.deliveries ++ (match output 4 with
          | some (f, _) => [⟨clock + 3, slotLanding word, f⟩]
          | none => []) ∧
        (∀ q, Sparse.getD [] (y.die x.d).queues q =
          if q = slotInjection word ∧ slotInjects word = true ∧ x.die.stopped = false then queue.tail
          else Sparse.getD [] x.die.queues q)))

/-- R228: the splice addition of an arriving flit and an injection. -/
def Obligations.SpliceAdditionTable : Prop :=
  ∀ (a i : Flit), (a.valid = true → a.bsi = true) → (i.valid = true → i.bsi = true) →
    ∃ f, spliceAdd a i = some f ∧ f.valid = (a.valid || i.valid) ∧ f.bsi = f.valid ∧
      f.count = (if a.valid then a.count else 0) + (if i.valid then i.count else 0) ∧ f.ovr = a.ovr ||| i.ovr ∧
      (∀ q, q < 4 → excAt f.exc q = max (excAt a.exc q) (excAt i.exc q)) ∧
      f.check = crc32c (wordBytes f.payload ++ leBytes 4 f.sideband) ∧
      (∀ k, k < 256 →
        let u := lane a.payload k
        let v := lane i.payload k
        (a.valid = false → i.valid = false → lane f.payload k = 0) ∧
        (a.valid = true → i.valid = false → lane f.payload k = u) ∧
        (a.valid = false → i.valid = true → lane f.payload k = v) ∧
        (a.valid = true → i.valid = true → u = bsiMarker ∨ v = bsiMarker → lane f.payload k = bsiMarker) ∧
        (a.valid = true → i.valid = true → u ≠ bsiMarker → v ≠ bsiMarker → lane f.payload k = u + v))

/-- R131, R151, R160, R227, R231, R234: FABRIC_DELIVERY of a delivery whose beat has come, through a landing pointer that no
terminus is bound to: a valid flit is written at the pointer's unit under credit, a zero flit writes nothing, and the pointer
moves on 16 units or returns to `BASE`; without a credit entry it is a credit fault. A terminus takes its flits, and the first
of a slice whose scale units lie outside the step's half is a splice fault. R135, R151, R161, R225–R227: PUSH_ARRIVAL of the
oldest push of a queue whose beat has come. A plain queue with a free place takes it as a flit, and a full one keeps it in the
crossing; a splice queue whose die-buffer units are clean takes pushes of its own kind within its step's scales and is a splice
fault otherwise. Each of these commands completes as stated, `exec` answering a next state: `fabricDelivery`, `pushArrival`. -/
def Obligations.FlitsAndPushesArrive : Prop :=
  (∀ (s : State) (d : DRef) (x : Site) (e : Delivery) (rest : List Delivery), s.site d.part d.die = some x →
    x.die.deliveries = e :: rest → e.beat ≤ x.part.run.clock →
    let g := x.pat.landing x.d e.land
    let y := { x.die with deliveries := rest }
    let moved := Sparse.getD 0 x.die.landed e.land
    let past (z : Die) : Out := .next (s.putDie x { z with
      landed := Sparse.setD 0 z.landed e.land (if g.limit < g.base + (Sparse.getD 0 z.landed e.land + 16) then 0
        else Sparse.getD 0 z.landed e.land + 16) })
    (x.pat.terminusOf x.d e.land = none →
      (e.flit.valid = false → exec (.fabricDelivery d) s = past y) ∧
      (e.flit.valid = true → exec (.fabricDelivery d) s =
        match y.issueWrite 0 0 0 g.mem (64 * (g.base + moved)) (wordBytes e.flit.payload) x.part.run.elapsed with
        | some z => past z
        | none => .next (s.softFault d.part .faultCredit d.die))) ∧
    (∀ k t, x.pat.terminusOf x.d e.land = some (k, t) →
      let z := Sparse.getD TermState.idle x.die.term k
      let outside := z.second = false ∧ z.firstFlits = [] ∧
        t.scaleBase + t.scaleHalf * (x.context.step % 2) + t.scaleHalf < z.scale + 4
      (outside → exec (.fabricDelivery d) s = .next (s.softFault d.part .faultSplice d.die)) ∧
      (¬ outside → exec (.fabricDelivery d) s =
        match y.landTerminus g e.land k t e.flit x.part.run.clock x.part.run.elapsed with
        | some z => .next (s.putDie x z)
        | none => .next (s.softFault d.part .faultCredit d.die)))) ∧
  (∀ (s : State) (d : DRef) (queue : Fin 20) (x : Site) (e : Push), s.site d.part d.die = some x →
    x.die.pushes.find? (fun e => e.queue == queue.val) = some e → e.beat ≤ x.part.run.clock →
    let q := Sparse.getD [] x.die.queues queue
    let g := x.pat.spliceQueue x.d queue
    let y := Sparse.getD SpliceState.idle x.die.splice queue
    let starts := !y.second && y.flits == 0 && y.pushed.isEmpty
    let took := x.die.spliceTake g y e
    let left := x.die.pushes.erase e
    (g.splice = false → q.length < 8 → exec (.pushArrival d queue) s = .next (s.putDie x { x.die with
      pushes := left, queues := Sparse.setD [] x.die.queues queue (q ++ [.plain e.data]) })) ∧
    (g.splice = false → 8 ≤ q.length → exec (.pushArrival d queue) s = .next s) ∧
    (g.splice = true → (e.spliceKind = false ∨ starts = true ∧ y.inHalf g x.context.step = false) →
      exec (.pushArrival d queue) s = .next (s.softFault x.p .faultSplice x.d)) ∧
    (g.splice = true → e.spliceKind = true → (starts = true → y.inHalf g x.context.step = true) →
      x.die.spliceBad g y = none →
      q.length + min took.2.length 8 ≤ 8 → exec (.pushArrival d queue) s = .next (s.putDie x { x.die with
        pushes := left, splice := Sparse.set x.die.splice queue took.1,
        queues := Sparse.setD [] x.die.queues queue (q ++ took.2) })))

/-- R135, R232, R233, R241, R242: TERMINUS_FIRST_PASS and TERMINUS_SECOND_PASS of a slice that has landed whole four beats ago
and whose bytes are clean: the record, the resolved blocks, the events, and the unresolved blocks counted. Each of these
commands completes as stated, `exec` answering a next state: `terminusFirstPass`, `terminusSecondPass`. -/
def Obligations.TerminiComplete : Prop :=
  ∀ (s : State) (d : DRef) (term : Fin 32) (x : Site) (t : Terminus) (y : TermState) (z : TermSlice),
    s.site d.part d.die = some x →
    let mem := (x.pat.landing x.d t.land).mem
    let die := { x.die with term := Sparse.set x.die.term term { y with whole := y.whole.drop 1 } }
    let s1 := die.bufferByte z.scale
    let overran (b : Nat) : BlockEnd := ⟨s1 b, false, decide (z.excess b ≠ 0), 0⟩
    let ends := z.resolve t s1
    (x.wholePass term false = some (t, y, z) → t.p2 ≠ 0 → x.die.recordBad mem z false = none →
      exec (.terminusFirstPass d term) s = .next (s.putDie x ((die.writeFirst mem t z).signal t.evt1))) ∧
    (x.wholePass term false = some (t, y, z) → t.p2 = 0 → x.die.recordBad mem z true = none →
      exec (.terminusFirstPass d term) s = .next (s.setPartition d.part ((x.part.setDie x.d
        (((die.writeRecord mem t z overran).signal t.evt1).signal t.evt2)).addUnresolved
          ((List.range 256).countP (fun b => z.excess b != 0))))) ∧
    (x.wholePass term true = some (t, y, z) → x.die.recordBad mem z true = none →
      exec (.terminusSecondPass d term) s = .next (s.setPartition d.part ((x.part.setDie x.d
        (((die.writeResolved mem z t ends).writeRecord mem t z ends).signal t.evt2)).addUnresolved
          ((List.range 256).countP (fun b => (ends b).unresolved)))))

/-- R110, R151, R189, R192, R193, R301: TETHER_DELIVERY of a packet whose way has taken its beats, with none of its sender's
earlier packets to the same endpoint before it. A core that waits takes it into the register it named and goes on; another core
queues up to 64; a gather engine buffers indices; a full queue withholds it. R137, R153, R154: FLIT_CHECK_FAILURE of a flit that
enters an input in this beat replaces it by a zero flit, raises belay, and every die that would have consumed it takes a
detected error; a link's fourth failure within 1 s loses the link. At a die's own input those are the dies found along the
flit's path from there. A response falls due also where no die would have consumed the flit (log entry 99). Each of these
commands completes as stated, `exec` answering a next state: `flitCheckFailure`, `tetherDelivery`. -/
def Obligations.TetherAndFlitChecks : Prop :=
  (∀ (s : State) (p : PartId) (position : Nat) (x : Machine.Partition) (dest sent : Nat) (k : Packet),
    s.partition? p = some x → x.tether[position]? = some (dest, sent, k) →
    sent + s.tetherBeats x k.src dest ≤ s.beat →
    (x.tether.take position).any (fun e => e.1 == dest && e.2.2.src == k.src) = false →
    let ep := dest % 32
    let i := dest / 32 % 512
    let y := { x with tether := x.tether.eraseIdx position }
    let c := (x.die i).core ep
    (dest / 2 ^ 14 % 4 = 0 → ep ≤ 15 →
      (∀ rd, c.waiting = some (.packet rd) → exec (.tetherDelivery p position) s = .next (s.setPartition p
        (y.setDie i ((x.die i).setCore ep { c.setReg rd (BitVec.ofNat 64 (k.payload.toNat + 2 ^ 32 * k.src)) with
          waiting := none })))) ∧
      ((∀ rd, c.waiting ≠ some (.packet rd)) → c.rx.length < 64 → exec (.tetherDelivery p position) s =
        .next (s.setPartition p (y.setDie i ((x.die i).setCore ep { c with rx := c.rx ++ [k] })))) ∧
      ((∀ rd, c.waiting ≠ some (.packet rd)) → 64 ≤ c.rx.length → exec (.tetherDelivery p position) s = .next s)) ∧
    (∀ rim, dest / 2 ^ 14 % 4 = 1 → 4 ≤ ep → ep ≤ 7 → x.stackRims[i]? = some rim →
      let r := s.rim rim
      let e := Sparse.getD Engine.idle r.ctx.engines ep
      (e.indices.length < 4096 → exec (.tetherDelivery p position) s = .next ((s.setRim rim { r with ctx := { r.ctx with
          engines := Sparse.set r.ctx.engines ep { e with indices := e.indices ++ [k] } } }).setPartition p y)) ∧
      (4096 ≤ e.indices.length → exec (.tetherDelivery p position) s = .next s))) ∧
  ((∀ (s : State) (p : PartId) (place : CheckPlace) (x y : Machine.Partition) (q : Pattern) (a b : Nat) (who : List Nat),
    s.partition? p = some x → x.pattern? = some q → x.teardown = false → s.frozen p = false →
    s.checkedFlit x q place = some (y, (a, b), who) →
    let fails := (Sparse.getD [] s.linkFailures (linkNumber a b)).filter (fun t => decide (s.time ≤ t + second)) ++ [s.time]
    let raised := { s.setPartition p y with
      linkFailures := Sparse.set s.linkFailures (linkNumber a b) fails }.raise (s.wireOf p) (.flitCheck p a)
    let t := who.foldl (fun t k => t.detectedError p k none (.flitCheck p a)) (raised.responseDue p)
    exec (.flitCheckFailure p place) s = .next (if 4 ≤ fails.length then t.hardFault .hwLinkLoss a b else t)) ∧
  (∀ (s : State) (d : Fin 256) (port : Side) (x : Machine.Partition) (q : Pattern), d.val < x.size →
    let y := x.die d
    let side := Side.index port
    let here (a : Arrival) : Bool := a.side == side && a.beat == x.run.clock
    let (c, r) := x.position d
    y.inputs.any here = true → y.slotDone ≠ some x.run.clock →
    s.checkedFlit x q (.die d port) = some
      (x.setDie d { y with inputs := y.inputs.map (fun a => if here a then { a with flit := .zero } else a) },
        s.linkAt c r side, (s.consumers x q pathFuel c r side (x.run.entry, x.run.rep, x.run.beat)).dedup)))

/-! ### Faults -/

/-- R80, R84, R373: a software fault ends the partition's running job: its pattern and commanded steps are gone, every die is
zeroed but for the activity levels of its M-tiles, which fall as in any idle time, nothing is on its way any more, the lost job
is counted, and every other partition stands as it was. R374, R413: a hardware fault records its code and node, begins
diagnosis, and leaves no resident or moving context of any partition with a pattern. R19, R150, R154, R443: LINK_LOSS and
TETHER_WORD_CHECK_FAILURE at stage 4 are the hardware fault of a lost link where a link of the part joins the two nodes; no such
link is lost where none is. Each of these commands completes as stated, `exec` answering a next state: `linkLoss`,
`tetherWordCheckFailure`. -/
def Obligations.FaultsEndJobs : Prop :=
  (∀ (s : State) (p : Nat) (st : Status) (detail : Nat) (x : Machine.Partition) (c : Nat) (v : Context) (q : Pattern),
    s.partition? p = some x → x.running = some c → x.context? c = some v → v.pattern = some q →
    ∃ y w, (s.softFault p st detail).partition? p = some y ∧ y.running = some c ∧ y.context? c = some w ∧
      w.pattern = none ∧ w.steps = none ∧ w.place = v.place ∧
      y.dies = Sparse.mapVals (fun _ d => { Die.zeroed with m := (d.m.filter (fun e => e.2.level != 0)).map (fun e =>
        (e.1, { MTile.zeroed with level := e.2.level, target := e.2.target, heldLevel := e.2.heldLevel })) }) x.dies ∧
      y.edge = [] ∧ y.crossing = [] ∧ y.tether = [] ∧ y.run.phase = .idle ∧
      Sparse.getD 0 y.counters jobsLost = (Sparse.getD 0 x.counters jobsLost + 1) % 2 ^ 64 ∧
      ∀ r, r ≠ p → (s.softFault p st detail).partition? r = s.partition? r) ∧
  (∀ (s : State) (st : Status) (node other : Nat),
    let t := s.hardFault st node other
    t.hwFault = st.code ∧ t.hwNode = node ∧ t.diag = true ∧ t.meshValid = false ∧ t.spares.lastFault = st.code ∧
    t.spares.lastNode = node ∧
    ∀ p y c w, t.partition? p = some y → y.context? c = some w → (∀ e, w.place ≠ .out e) → w.pattern = none) ∧
  (∀ (s : State) (a b : Node),
    (s.stage = .ready → Part.linked s.part a b = true →
      exec (.linkLoss a b) s = .next (s.hardFault .hwLinkLoss a b) ∧
      exec (.tetherWordCheckFailure a b) s = .next (s.hardFault .hwLinkLoss a b)) ∧
    (Part.linked s.part a b = false →
      exec (.linkLoss a b) s = .next s ∧ exec (.tetherWordCheckFailure a b) s = .next s))

/-! ### Rim caches and stacks -/

/-- R256, R274–R278: a read of a unit returns what was last written to it, whether a line of the cache holds it, its write waits
in the controller's queue, or the stack holds it: reading, writing, flushing and draining the queue keep the cache in agreement
with what lies beneath, a write changes the one unit, and after a flush its line is not dirty. -/
def Obligations.CacheIsTransparent : Prop :=
  ∀ (r : Rim) (ways req u channel : Nat) (cacheable : Bool) (bs : List Byte), r.Coherent → bs.length = 64 →
    ((r.writeUnit ways req u cacheable bs).Coherent ∧
      ∀ v, (r.writeUnit ways req u cacheable bs).unitBytes v = if v = u then bs else r.unitBytes v) ∧
    ((r.readUnit ways u cacheable).1 = r.unitBytes u ∧ (r.readUnit ways u cacheable).2.Coherent ∧
      ∀ v, (r.readUnit ways u cacheable).2.unitBytes v = r.unitBytes v) ∧
    ((r.flushUnit u).Coherent ∧ (∀ v, (r.flushUnit u).unitBytes v = r.unitBytes v) ∧
      ∀ l, (r.flushUnit u).line? u = some l → l.dirty = false) ∧
    (r.drain.Coherent ∧ (∀ v, r.drain.unitBytes v = r.unitBytes v) ∧
      (r.drainChannel channel).Coherent ∧ (∀ v, (r.drainChannel channel).unitBytes v = r.unitBytes v) ∧
      (r.drainChannel channel).writes = r.writes.filter (fun w => channelOf w.unit != channel))

/-- R267, R268, R278, R281: an integer or BSI operation at a rim that issues, whose controller has room for what it takes,
leaves in every enabled element of the unit the operation's result and in every other element what was there, and counts 64
bytes written. What `BSIADD` leaves for a sum outside every bound of R42 is free (log entry 25). R44–R47, R277, R284–R286:
`XFADD` opens a reduction line for its target or adds to the line that is open for it with its window, and is a reduction-line
fault of any other line, of a rim without reduction ways and of a window outside −192 to 64; `FINALIZE` writes the line's
values, or zeros where none is open, closes it and counts the clamped elements; `FLUSH` writes a dirty line back. The fault of
such a window is the model's choice (log entry 107). Each of these commands completes as stated, `exec` answering a next state:
`iadd32`, `iadd64`, `imin32`, `imax32`, `umin32`, `umax32`, `imin64`, `imax64`, `bsiadd`, `xfadd`, `finalize`, `flush`. -/
def Obligations.RimOperationsReduce : Prop :=
  (∀ (s : State) (rim : RimId) (unit : BitVec 31) (operand : BitVec 512) (mask : BitVec 16) (p : Nat) (x : Machine.Partition),
    s.rimOwner rim = some (p, x) → (s.rim rim).paused = false → (s.rim rim).Coherent →
    let u := unit.toNat
    let old := (s.rim rim).unitBytes u
    ((s.rim rim).line? u).isSome = true ∨ (s.rim rim).accepts 8 u = true →
    ∀ e ∈ [(4, (fun a b => (a + b) % 2 ^ 32 : Nat → Nat → Nat), Instr.iadd32), (8, fun a b => (a + b) % 2 ^ 64, Instr.iadd64),
        (4, fun a b => if signed 32 a ≤ signed 32 b then a else b, Instr.imin32),
        (4, fun a b => if signed 32 a ≤ signed 32 b then b else a, Instr.imax32),
        (4, min, Instr.umin32), (4, max, Instr.umax32),
        (8, fun a b => if signed 64 a ≤ signed 64 b then a else b, Instr.imin64),
        (8, fun a b => if signed 64 a ≤ signed 64 b then b else a, Instr.imax64),
        (4, fun a b => (bsiCacheAdd (BitVec.ofNat 32 a) (BitVec.ofNat 32 b)).toNat, Instr.bsiadd)],
      ∃ r : Rim, exec (e.2.2 rim unit operand mask) s =
          .next ((s.setRim rim r).setPartition p ((x.noteWrite rim u).countRunning stackWriteBytes 64)) ∧
        r.Coherent ∧ (∀ v, v ≠ u → r.unitBytes v = (s.rim rim).unitBytes v) ∧
        ∀ i, i < 64 / e.1 → unitElem e.1 (r.unitBytes u) i =
          if mask.getLsbD (i * (e.1 / 4)) then e.2.1 (unitElem e.1 old i) (unitElem e.1 (operandBytes operand) i)
          else unitElem e.1 old i) ∧
  (∀ (s : State) (rim : RimId) (unit : BitVec 31) (operand : BitVec 512) (mask : BitVec 16) (window : BitVec 9) (p : Nat)
    (x : Machine.Partition), s.rimOwner rim = some (p, x) → (s.rim rim).paused = false →
    let u := unit.toNat
    let k := s.rim rim
    let i := frameOf x.reductionWays u
    let ways := 16 - x.reductionWays
    let w := window.toInt
    let stored (r : Rim) (n : Nat) : Out := .next ((s.setRim rim r).setPartition p
      ((Partition.noteWrite { x with clamps := x.clamps + n } rim u).countRunning stackWriteBytes 64))
    let faults : Out := .next (s.softFault p .faultReductionLine (Config.faultDetail (rimNode rim)).toNat)
    let framed (f : Frame) : Rim := { k with ctx := { k.ctx with frames := Sparse.set k.ctx.frames i f } }
    ((x.reductionWays = 0 ∨ w < -192 ∨ 64 < w) → exec (.xfadd rim unit operand mask window) s = faults) ∧
    (0 < x.reductionWays → -192 ≤ w → w ≤ 64 →
      (Sparse.get? k.ctx.frames i = none → exec (.xfadd rim unit operand mask window) s =
        stored (framed ((Frame.opened u w).add (operandBytes operand) mask.toNat)) 0) ∧
      (∀ f, Sparse.get? k.ctx.frames i = some f → exec (.xfadd rim unit operand mask window) s =
        if f.tag = u ∧ f.w = w then stored (framed (f.add (operandBytes operand) mask.toNat)) 0 else faults)) ∧
    (0 < x.reductionWays → ∀ f, Sparse.get? k.ctx.frames i = some f → exec (.finalize rim unit) s =
      if f.tag = u then
        let r := k.writeUnit ways 8 u true ((List.range 16).flatMap (fun e => leBytes 4 (f.value e).toNat))
        stored { r with ctx := { r.ctx with frames := Sparse.erase r.ctx.frames i } } f.clamped
      else faults) ∧
    ((x.reductionWays = 0 ∨ Sparse.get? k.ctx.frames i = none) →
      exec (.finalize rim unit) s = stored (k.writeUnit ways 8 u true (List.replicate 64 0)) 0) ∧
    ((k.line? u).isSome = true ∨ k.accepts 8 u = true →
      exec (.flush rim unit) s = stored (((k.filling u).readUnit ways u true).2.flushUnit u) 0))

/-- R256, R258–R261, R270, R271: a read that TRANSACTION_COMPLETE ends leaves the controller, its writes drain and refresh that
was put off is paid; it and SCRUB correct and record up to 3 wrong symbols and turn 4 or 5 into the hardware fault of an
uncorrectable error, which leaves no line of the unit that the read would have filled; SCRUB takes its turn where nothing waits,
or once in 100 slots where it is owed; REFRESH pays what a channel owes when 8 are owed or nothing of the channel waits;
SCRUB_OWED marks a scrub that is behind. What more than 5 wrong symbols do is free (R258). R273: CALIBRATION is taken in a slack
window that opened at least 50 ms after the last, or while no pattern runs on the owner: the rim issues nothing from then on,
and the calibration begins when no transaction is in flight; FORCED_CALIBRATION after 100 ms raises belay; CALIBRATION_COMPLETE
ends either 1.5 µs after it began, lets what waits for the stack go on, and drops the belay. Each of these commands completes as
stated, `exec` answering a next state: `transactionComplete`, `refresh`, `scrubOwed`, `scrub`, `calibration`,
`forcedCalibration`, `calibrationComplete`. -/
def Obligations.StacksAreKept : Prop :=
  (∀ (s : State) (rim : RimId) (unit : BitVec 31) (symbols : Fin 73) (channel : Fin 64),
    let u := unit.toNat
    let r := s.rim rim
    (∀ t, r.outstanding.find? (fun t => t.unit == u) = some t → r.thermal ≠ .stopped →
      let done := r.completed t
      done.outstanding = r.outstanding.erase t ∧
      (symbols.val = 0 → exec (.transactionComplete rim unit symbols) s = .next (s.setRim rim done)) ∧
      (1 ≤ symbols.val ∧ symbols.val ≤ 3 → exec (.transactionComplete rim unit symbols) s =
        .next (s.setRim rim (done.noteCorrection u symbols s.timeUs))) ∧
      (4 ≤ symbols.val ∧ symbols.val ≤ 5 → ∃ t', exec (.transactionComplete rim unit symbols) s =
        .next (State.hardFault t' .hwStackUe (rimNode rim) 0) ∧ (t'.rim rim).uncorrectable = some ⟨u, 0xFF, s.timeUs⟩ ∧
        (t.fill = true → ∀ l ∈ (t'.rim rim).cache, l.unit ≠ u))) ∧
    (s.power = .good → r.paused = false →
      (r.busy (channelOf u) = false ∨ r.scrubOwed = true ∧
        ∀ last, Sparse.get? r.scrubSlots (channelOf u) = some last → last + 1120 ≤ s.time) →
      let scrubbed := s.scrubNoted r u
      scrubbed.lastScrub = s.time ∧ (u ∈ scrubbed.scrubbed ∨ scrubbed.passStart = r.passStart + 600 * second) ∧
      (symbols.val = 0 → exec (.scrub rim unit symbols) s = .next (s.setRim rim scrubbed)) ∧
      (1 ≤ symbols.val ∧ symbols.val ≤ 3 → exec (.scrub rim unit symbols) s =
        .next (s.setRim rim (scrubbed.noteCorrection u symbols s.timeUs))) ∧
      (4 ≤ symbols.val ∧ symbols.val ≤ 5 → ∃ t, exec (.scrub rim unit symbols) s =
        .next (State.hardFault t .hwStackUe (rimNode rim) 0) ∧ (t.rim rim).uncorrectable = some ⟨u, 0xFF, s.timeUs⟩)) ∧
    (s.power = .good →
      let owed := Sparse.getD 0 r.refreshOwed channel + 1
      let left := if 8 ≤ owed ∨ r.busy channel = false then 0 else owed
      exec (.refresh rim channel) s =
        .next (s.setRim rim { r with refreshOwed := Sparse.setD 0 r.refreshOwed channel left })) ∧
    (r.scrubbed.length * (600 * second) < (s.time - r.passStart) * stackUnits → r.lastScrub + second ≤ s.time →
      exec (.scrubOwed rim) s = .next (s.setRim rim { r with scrubOwed := true }))) ∧
  (∀ (s : State) (rim : RimId),
    let r := s.rim rim
    let taken : Rim := { r with halted := true, calibrating := if r.outstanding = [] then some s.time else none }
    let ended : Rim := Rim.drain { r with
      calibrating := none, forced := none, halted := false, lastCalibration := s.time }
    (s.rimOwner rim = none →
      (s.power = .good → r.paused = false → exec (.calibration rim) s = .next (s.setRim rim taken)) ∧
      (s.power = .good → r.paused = false → r.forced = none → r.lastCalibration + 100 * msec ≤ s.time →
        exec (.forcedCalibration rim) s = .next (s.setRim rim { r with forced := some s.time })) ∧
      (∀ since, r.calibrating = some since → since + 10500 ≤ s.time →
        exec (.calibrationComplete rim) s = .next (s.setRim rim ended))) ∧
    (∀ p x, s.rimOwner rim = some (p, x) →
      (s.power = .good → r.paused = false →
        (x.pattern? = none ∨ x.run.phase = .idle ∨ ∃ q i, x.pattern? = some q ∧ x.stackIndex rim = some i ∧
          x.slackOpen q i = true ∧ r.lastCalibration + 50 * msec ≤ r.windowSince.getD s.time) →
        exec (.calibration rim) s = .next (s.setRim rim taken)) ∧
      (s.power = .good → r.paused = false → r.forced = none → r.lastCalibration + 100 * msec ≤ s.time →
        let t := s.setRim rim { r with forced := some s.time }
        exec (.forcedCalibration rim) s = .next (t.raise (t.wireOf p) (.calibration rim))) ∧
      (∀ since, r.calibrating = some since → since + 10500 ≤ s.time →
        exec (.calibrationComplete rim) s = .next ((s.setRim rim ended).dropBoth p (.calibration rim)))))

/-! ### Streams -/

/-- R267, R290, R296, R300, R303, R525: READ_STREAM and GATHER on the descriptor of their kind at which the fetch sequence
stands, with its indices at hand and room in staging: a flit whose pieces all pass the fence is staged; each of its units holds
what the rim gives where the controller has accepted the read, zeros follow the units, and the sequence goes on. A piece outside
the fence, or a descriptor that its engine may not hold, is a fence fault. A unit that the layer's writes have touched reads a
free value (R305, log entry 68). Each of these commands completes as stated, `exec` answering a next state: `readStream`,
`gather`. -/
def Obligations.FetchesFillStaging : Prop :=
  ∀ (s : State) (e : EngRef) (y z : EngSite) (a n : Nat) (d : Descriptor) (xs : List W32), s.engSite e.rim e.eng = some y →
    y.e.fetchPlace = a → y.e.at? a = some d → y.r.paused = false → y.r.Coherent → (∀ t ∈ y.e.staging, t.waiting = []) →
    ∀ command, (d.kind = 1 ∧ command = Instr.readStream e ∧ xs = [] ∧ z = y ∧ n = s.fresh) ∨
        (d.kind = 4 ∧ command = Instr.gather e ∧
          y.indicesFor s.fresh d y.e.fetchIdx (d.rowsNeeded y.e.fetchFlit) = .ready xs z n) →
      let pieces := z.pieces d y.e.fetchFlit xs
      let units := pieceList d pieces
      (d.allowed e.eng = false → exec command s = .next (s.engineFault y .faultFence)) ∧
      (d.allowed e.eng = true → y.room s.beat = true → none ∈ pieces →
        exec command s = .next (s.engineFault y .faultFence)) ∧
      (d.allowed e.eng = true → y.room s.beat = true → none ∉ pieces → (∀ u ∈ units, z.phys u ∉ z.r.ctx.written) →
        z.r.Coherent → ∃ (t : Staged) (w : EngSite), exec command s = .next ({ s with fresh := n }.putEngine w) ∧
          t.units = units ∧ t.cache = d.cache ∧ t.complete = none ∧ (∀ i ∈ t.waiting, i < units.length) ∧
          (∀ i, i < 16 → (t.data.drop (64 * i)).take 64 =
            if i < units.length ∧ i ∉ t.waiting then z.r.unitBytes (z.phys (units.getD i 0)) else List.replicate 64 0) ∧
          w.e = ({ z.e with
            fetchIdx := xs
            staging := z.e.staging ++ [t]
            counters := { z.e.counters with
              fetched := z.e.counters.fetched + 64 * (units.length - t.waiting.length) } } : Engine).fetched d a ∧
          (∀ v, w.r.unitBytes v = z.r.unitBytes v) ∧ w.p = y.p ∧ w.k = y.k ∧ w.n = y.n ∧ w.x.dies = y.x.dies)

/-- R267, R296, R300, R303, R307, R525: WRITE_STREAM and SCATTER on the descriptor of their kind at which the consume sequence
stands, with a flit received and its indices at hand: the payload goes 64 bytes to each unit of its pieces that the controller
accepts, all of them where they are cacheable; a zero flit writes nothing, no other unit changes; when every unit is taken the
flit leaves write staging and the sequence goes on. A flit that staging holds of a unit written is left to R305 (log entry 68).
R267, R278, R295, R296, R300, R307: OPERATION_STREAM and INDEXED_OPERATION: the units of a received flit, or 16 units of a
`FINALIZE` or `FLUSH` descriptor that takes no flit, go to the rim's operations as the controller has room for them, and when
every unit is taken the flit leaves write staging and the sequence goes on; an operation that meets another open line is a
reduction-line fault. Each of these commands completes as stated, `exec` answering a next state: `writeStream`,
`operationStream`, `scatter`, `indexedOperation`. -/
def Obligations.ReceivedFlitsAreConsumed : Prop :=
  (∀ (s : State) (e : EngRef) (y z : EngSite) (a n : Nat) (d : Descriptor) (xs : List W32) (f : Flit) (rest : List Flit),
    s.engSite e.rim e.eng = some y → y.e.usePlace = a → y.e.at? a = some d → y.r.paused = false →
    y.e.received = f :: rest → y.e.useDone = [] → f.payload.length = 256 → d.allowed e.eng = true →
    ∀ command, (d.kind = 2 ∧ command = Instr.writeStream e ∧ xs = [] ∧ z = y ∧ n = s.fresh) ∨
        (d.kind = 5 ∧ command = Instr.scatter e ∧
          y.indicesFor s.fresh d y.e.useIdx (d.rowsNeeded y.e.useFlit) = .ready xs z n) →
      let pieces := z.pieces d y.e.useFlit xs
      let units := pieceList d pieces
      none ∉ pieces → z.r.Coherent → (units.map z.phys).Nodup → (∀ u ∈ units, z.stagedHere u = false) →
        ∃ (w : EngSite) (done : List Nat), exec command s = .next ({ s with fresh := n }.putEngine w) ∧
          (d.cache = true ∨ f.valid = false → done = List.range units.length) ∧ (∀ i ∈ done, i < units.length) ∧
          w.e = (if done.length < units.length then ({ z.e with useIdx := xs, useDone := done } : Engine)
            else ({ z.e with useIdx := xs, received := rest } : Engine).used d a) ∧
          (∀ i u, units[i]? = some u →
            w.r.unitBytes (z.phys u) = if f.valid = true ∧ i ∈ done then f.unit i else z.r.unitBytes (z.phys u)) ∧
          (∀ v, v ∉ units.map z.phys → w.r.unitBytes v = z.r.unitBytes v) ∧ w.p = y.p ∧ w.k = y.k ∧ w.n = y.n) ∧
  (∀ (s : State) (e : EngRef) (y z : EngSite) (a n : Nat) (d : Descriptor) (xs : List W32),
    s.engSite e.rim e.eng = some y → y.e.usePlace = a → y.e.at? a = some d → y.r.paused = false →
    (d.flitless = false → y.e.received ≠ []) → d.allowed e.eng = true →
    ∀ command, (d.kind = 3 ∧ command = Instr.operationStream e ∧ xs = [] ∧ z = y ∧ n = s.fresh) ∨
        (d.kind = 6 ∧ command = Instr.indexedOperation e ∧
          y.indicesFor s.fresh d y.e.useIdx (d.rowsNeeded y.e.useFlit) = .ready xs z n) →
      let pieces := z.pieces d y.e.useFlit xs
      let units := pieceList d pieces
      none ∉ pieces →
        match z.take n d units (y.e.received.headD .zero) with
        | none => exec command s = .next (s.engineFault z .faultReductionLine)
        | some (w, m, done) => m = n ∧ (∀ i ∈ z.e.useDone, i ∈ done) ∧
          exec command s = .next ({ s with fresh := n }.putEngine { w with e :=
            if done.length < units.length then { z.e with useIdx := xs, useDone := done }
            else ({ z.e with
              useIdx := xs, useDone := [],
              received := if d.flitless then z.e.received else z.e.received.tail } : Engine).used d a }))

/-- R295, R297, R299, R303, R304, R525: HANK_READ makes the next 16 descriptors of a list known; NULL_DESCRIPTOR passes a
descriptor of kind 0, in each sequence that stands at one, and is a fence fault of one that the tables do not allow; HANK_WAIT
puts the oldest hank in place of the kind 7 descriptor at which a sequence stands, and where nothing was read ahead the fetch
sequence goes on at the hank's first descriptor. Each of these commands completes as stated, `exec` answering a next state:
`hankRead`, `nullDescriptor`, `hankWait`. -/
def Obligations.DescriptorListsAdvance : Prop :=
  ∀ (s : State) (e : EngRef) (y : EngSite), s.engSite e.rim e.eng = some y →
    (y.e.read < y.e.list.length →
      exec (.hankRead e) s = .next (s.putEngine { y with e := { y.e with read := y.e.read + 16 } })) ∧
    (∀ d, y.e.at? y.e.fetchPlace = some d → d.kind = 0 →
      (d.allowed e.eng = false → exec (.nullDescriptor e) s = .next (s.engineFault y .faultFence)) ∧
      (d.allowed e.eng = true →
        (y.e.usePlace = y.e.fetchPlace → exec (.nullDescriptor e) s = .next (s.putEngine { y with e := { y.e with
          fetchAt := y.e.fetchPlace + 1, useAt := y.e.usePlace + 1 } })) ∧
        (y.e.usePlace ≠ y.e.fetchPlace → (∀ g, y.e.at? y.e.usePlace = some g → g.kind ≠ 0) →
          exec (.nullDescriptor e) s = .next (s.putEngine { y with e := { y.e with fetchAt := y.e.fetchPlace + 1 } })))) ∧
    (∀ d hank rest, y.e.at? y.e.fetchPlace = some d → d.kind = 7 → y.e.hanks = hank :: rest →
      ∃ w : EngSite, exec (.hankWait e) s = .next (s.settleLate w) ∧ w = { y with e := w.e } ∧
        (y.e.late = [] → s.settleLate w = s.putEngine w) ∧
        w.e.list = y.e.list.take y.e.fetchPlace ++ hank ++ y.e.list.drop (y.e.fetchPlace + 1) ∧
        w.e.hanks = rest ∧ w.e.read = y.e.read + 15 ∧ w.e.useAt = y.e.useAt ∧ w.e.received = y.e.received ∧
        w.e.late = y.e.late ∧ w.e.runAhead = 0 ∧
        (y.e.runAhead = 0 → w.e.fetchAt = y.e.fetchPlace ∧ w.e.fetchFlit = 0 ∧ w.e.staging = y.e.staging ∧
          w.e.counters = y.e.counters))

/-- R198, R199, R291–R293: STAGING_PULL_CHECK 24 beats before a pull, or before a round's first pulls while its start is
awaited, counts a complete flit's lead and raises belay for one that is not complete, or that no descriptor has confirmed;
STAGING_FLIT_COMPLETE completes the oldest flit with no unit waiting or in flight and drops the belay with the last late pull;
STAGING_HANK_TIMEOUT is a hank fault of a late pull that waits for a hank beyond the sync timeout; RECEIVE_PLACE_CHECK reserves
a place or raises belay, and STAGING_PLACE_FREE reserves a place for a receive that waits. Each of these commands completes as
stated, `exec` answering a next state: `stagingPullCheck`, `stagingFlitComplete`, `receivePlaceCheck`, `stagingPlaceFree`,
`stagingHankTimeout`. -/
def Obligations.StagingPlacesAreChecked : Prop :=
  ∀ (s : State) (e : EngRef) (y : EngSite), s.engSite e.rim e.eng = some y →
    let g := y.e
    (s.checks y = true → y.named false false = true → g.pulls < y.coming false false →
      (∀ t at_, g.sure[g.pulls]? = some t → t.complete = some at_ → exec (.stagingPullCheck e) s =
        .next (s.putEngine { y with e := { g with
          pulls := g.pulls + 1
          counters := { g.counters with
            leadSum := g.counters.leadSum + (s.beat - at_), minLead := min g.counters.minLead (s.beat - at_) } } })) ∧
      ((∀ t, g.sure[g.pulls]? = some t → t.complete = none) → exec (.stagingPullCheck e) s =
        .next ((s.putEngine { y with e := { g with
          pulls := g.pulls + 1, late := g.late ++ [(g.pulled + g.pulls, s.beat, s.time)]
          counters := { g.counters with late := g.counters.late + 1 } } }).raise (s.wireOf y.p) (.staging y.k y.n)))) ∧
    (∀ before t after, g.staging = before ++ t :: after → t.complete = none → t.waiting = [] →
      (∀ u ∈ t.units, y.flying u = false) →
      (∀ b ∈ before, b.complete ≠ none ∨ b.waiting ≠ [] ∨ ∃ u ∈ b.units, y.flying u = true) →
      let now : Engine := { g with staging := before ++ { t with complete := some s.beat } :: after }
      let met (l : Nat × Nat × Nat) : Bool := (now.sure[l.1 - g.pulled]?).any (fun t => t.complete.isSome)
      ∃ w : Engine, w.staging = now.staging ∧ w.late = g.late.filter (fun l => !met l) ∧ w.pulls = g.pulls ∧
        w.counters.fetched = g.counters.fetched ∧
        exec (.stagingFlitComplete e) s = .next (
          if w.late = [] ∧ g.late ≠ [] then (s.putEngine { y with e := w }).dropLater y.p (.staging y.k y.n)
          else s.putEngine { y with e := w })) ∧
    (∀ d, g.at? g.fetchPlace = some d → d.kind = 7 → g.hanks = [] →
      (∃ l ∈ g.late, y.q.syncTimeout * usec < s.time - l.2.2) →
      exec (.stagingHankTimeout e) s = .next ((s.engineFault y .faultHank).dropBoth y.p (.staging y.k y.n))) ∧
    (s.checks y = true → y.named true false = true → g.reserved + g.placeWait < y.coming true false →
      exec (.receivePlaceCheck e false) s = .next (
        if y.placesTaken < 4096 then s.putEngine { y with e := { g with reserved := g.reserved + 1 } }
        else (s.putEngine { y with e := { g with placeWait := g.placeWait + 1 } }).raise (s.wireOf y.p)
          (.place y.k y.n false))) ∧
    (s.checks y = true → y.named true true = true → g.hankReserved + g.hankWait < y.coming true true →
      exec (.receivePlaceCheck e true) s = .next (
        if g.hankPlaces < 4 then s.putEngine { y with e := { g with hankReserved := g.hankReserved + 1 } }
        else (s.putEngine { y with e := { g with hankWait := g.hankWait + 1 } }).raise (s.wireOf y.p)
          (.place y.k y.n true))) ∧
    (0 < g.placeWait → y.placesTaken < 4096 →
      let t := s.putEngine { y with e := { g with reserved := g.reserved + 1, placeWait := g.placeWait - 1 } }
      exec (.stagingPlaceFree e false) s = .next (if g.placeWait = 1 then t.dropLater y.p (.place y.k y.n false) else t)) ∧
    (0 < g.hankWait → g.hankPlaces < 4 →
      let t := s.putEngine { y with e := { g with hankReserved := g.hankReserved + 1, hankWait := g.hankWait - 1 } }
      exec (.stagingPlaceFree e true) s = .next (if g.hankWait = 1 then t.dropLater y.p (.place y.k y.n true) else t))

/-- R289, R292, R304, R306, R307: RIM_EDGE_PULL takes the oldest complete flit of the entry's engine, one that is not run-ahead,
out of staging and sends it into the mesh; RIM_EDGE_RECEIVE puts the flit that arrives in this beat, or a zero flit, into write
staging or, as 16 descriptors, into the hank buffer, at the place that was reserved for it. A reserved bit set in a hank's
descriptor refuses it (log entry 28). R217, R311: BIND_OFF_CHECK 24 beats before the last round of a layer ends: an engine whose
descriptors have still to receive flits is a bind-off fault, a rim that meets the three conditions does nothing, and another
raises belay; BIND_OFF_RELEASE drops it once they hold. Each of these commands completes as stated, `exec` answering a next
state: `bindOffCheck`, `bindOffRelease`, `rimEdgePull`, `rimEdgeReceive`. -/
def Obligations.RimEdgesAndBindOff : Prop :=
  (∀ (s : State) (rim : RimId) (port : Fin 16) (y : EngSite) (g : EdgeEntry),
    let now := y.x.run.clock
    let moved := (if y.r.ctx.edgeDone.1 = now then y.r.ctx.edgeDone.2 else []) ++ [(g.port, g.receive)]
    let r : Rim := { y.r with ctx := { y.r.ctx with edgeDone := (now, moved) } }
    (∀ f rest, s.edgeNow rim port false = some (y, g) → y.e.staging = f :: rest → f.complete ≠ none →
      y.e.runAhead ≤ rest.length →
      ∃ (x : Machine.Partition) (w : Engine), exec (.rimEdgePull rim port) s = .next (s.putEngine { y with r, x, e := w }) ∧
        w.staging = rest ∧ w.pulled = y.e.pulled + 1 ∧ w.pulls = y.e.pulls - 1 ∧ w.received = y.e.received ∧
        w.counters.useful = y.e.counters.useful + 1024 ∧ w.counters.pulls = y.e.counters.pulls + 1 ∧
        x = (match s.facing rim port with
          | some (c, row, side) => State.enter y.x c row side (y.x.run.clock + 2) (y.x.run.beat + 2) (.plain (bytesToLanes f.data))
          | none => y.x)) ∧
    (s.edgeNow rim port true = some (y, g) →
      let here (a : EdgeArrival) : Prop := a.rim = rim.val ∧ a.port = port.val
      ∀ f, (∃ a, y.x.edge.find? (fun a => a.rim == rim.val && a.port == port.val && a.beat == now) = some a ∧ a.flit = f) ∨
          ((∀ a ∈ y.x.edge, here a → a.beat ≠ now) ∧ f = .zero) →
        let x := { y.x with edge := y.x.edge.filter (fun a => !((a.rim == rim.val && a.port == port.val) && decide (a.beat ≤ now))) }
        (g.hank = false → (0 < y.e.reserved ∨ y.placesTaken < 4096) → exec (.rimEdgeReceive rim port) s =
          .next (s.putEngine { y with r, x, e := { y.e with
            received := y.e.received ++ [f], reserved := y.e.reserved - 1 } })) ∧
        (g.hank = true → (0 < y.e.hankReserved ∨ y.e.hankPlaces < 4) →
          (f.hankWords.any descriptorStray = true → exec (.rimEdgeReceive rim port) s =
            .next ((s.putEngine { y with r, x }).engineFault { y with r, x } .reservedNonzero)) ∧
          (f.hankWords.any descriptorStray = false → exec (.rimEdgeReceive rim port) s =
            .next (s.putEngine { y with r, x, e := { y.e with
              hanks := y.e.hanks ++ [f.hankWords.map (fun v => hankDescriptor (Descriptor.ofNat v))]
              hankReserved := y.e.hankReserved - 1 } }))))) ∧
  (∀ (s : State) (rim : RimId),
    (∀ y, s.engSite rim 0 = some y → s.live y = true → y.q.length y.x.run.entry ≤ y.x.run.beat + 24 →
      y.x.lastOfLayer y.q = true →
      ((∃ e ∈ y.r.ctx.engines, e.2.received.length < e.2.owed) →
        exec (.bindOffCheck rim) s = .next (s.engineFault y .faultBindOff)) ∧
      ((∀ e ∈ y.r.ctx.engines, e.2.owed ≤ e.2.received.length) → exec (.bindOffCheck rim) s =
        if s.boundOff rim then .next s else .next (s.raise (s.wireOf y.p) (.bindOff rim)))) ∧
    (∀ p x, s.rimOwner rim = some (p, x) → s.holdsWire p (.bindOff rim) = true → s.boundOff rim = true →
      exec (.bindOffRelease rim) s = .next (s.dropLater p (.bindOff rim))))

/-! ### Dies, supply and protection -/

/-- R446, R449, R450, R453: HEARTBEAT counts the answers that every skein and rim die has missed in a row; DIE_LOSS of a skein
that serves a logical position, and of a rim die, is a hardware fault, and a spare skein is retired; DIAGNOSIS ends with a mesh
derived from the spare record, every skein that failed its test retired. Each of these commands completes as stated, `exec`
answering a next state: `heartbeat`, `dieLoss`, `diagnosis`. -/
def Obligations.LostDiesAreReplaced : Prop :=
  ∀ (s : State),
    (∀ silent, s.stage = .ready → ∃ t, exec (.heartbeat silent) s = .next t ∧ t = { s with heartbeats := t.heartbeats } ∧
      ∀ n, n < 320 → Sparse.getD 0 t.heartbeats n =
        if n ∈ silent ∧ (Part.fitsSkein s.part n = true ∨ Part.fitsRim s.part n = true) then
          min 3 (Sparse.getD 0 s.heartbeats n + 1) else 0) ∧
    (∀ n cause, s.stage = .ready → (cause = .heartbeats → 3 ≤ Sparse.getD 0 s.heartbeats n) →
      let skein := skeinOf n
      (Part.fitsRim s.part n = true → s.spares.rimLost.getLsbD (n - 1) = false →
        exec (.dieLoss n cause) s = .next (s.hardFault .hwDieLoss n 0)) ∧
      (Part.fitsRim s.part n = false → Part.fitsSkein s.part n = true → (s.retiredIn skein.1).getLsbD skein.2 = false →
        (s.serves n = true → exec (.dieLoss n cause) s = .next (s.hardFault .hwDieLoss n 0)) ∧
        (s.serves n = false → ∃ t, exec (.dieLoss n cause) s = .next t ∧ t = { s with spares := t.spares } ∧
          ∀ g c, (t.retiredIn g).getLsbD c =
            ((s.retiredIn g).getLsbD c || decide (g = skein.1 ∧ c = skein.2 ∧ c < 18))))) ∧
    (∀ failed, s.diag = true → ∃ t, exec (.diagnosis failed) s = .next t ∧ t.diag = false ∧ t.diagSources = [] ∧
      t.meshValid = true ∧ t.heartbeats = [] ∧ t.hwFault = s.hwFault ∧ t.hwNode = s.hwNode ∧
      (t.deriveMesh = none → t.meshW = 0 ∧ t.meshH = 0) ∧
      (∀ h r, t.deriveMesh = some (h, r) → t.meshW = 16 ∧ t.meshH = h ∧ t.row0 = r) ∧
      (∀ g c, (s.retiredIn g).getLsbD c = true → (t.retiredIn g).getLsbD c = true) ∧
      ∀ e ∈ s.diagSources, ∀ n, n = e.2.1 ∨ e.1 = .hwLinkLoss ∧ n = e.2.2 → n ∈ failed → Part.fitsSkein s.part n = true →
        (t.retiredIn (skeinOf n).1).getLsbD (skeinOf n).2 = true)

/-- R418–R420, R440, R476, R497, R500: POWER_GOOD starts the module; INPUT_OUT_OF_RANGE, EMERG_OFF_N and POWER_LOSS take die
power away: partitions, rims, rings and the session are gone, PWRGD falls, the link and I3C contacts are high-impedance, and the
flash, the fuses, the spare record and the queue of commands stay; EMERG_OFF_RELEASE starts the module again. Each of these
commands completes as stated, `exec` answering a next state: `emergOffN`, `emergOffRelease`, `powerGood`, `inputOutOfRange`,
`powerLoss`. -/
def Obligations.PowerComesAndGoes : Prop :=
  ∀ (s : State),
    let off (t : State) : Prop := t.partitions = [] ∧ t.rims = [] ∧ t.rings = [] ∧ t.stage = .reset ∧ t.session = none ∧
      t.linkUp = false ∧ t.envelope = s.part.floorW ∧ t.part = s.part ∧ t.firmware = s.firmware ∧
      t.activeSlot = s.activeSlot ∧ t.keyRevoked = s.keyRevoked ∧ t.minSvn = s.minSvn ∧ t.bootCount = s.bootCount ∧
      t.spares = s.spares ∧ t.hostMem = s.hostMem ∧ t.pending = s.pending
    let silent (t : State) : Prop := ∀ c, c = .tx ∨ c = .rx ∨ c = .refclk ∨ c = .scl ∨ c = .sda → t.contact c = .highZ
    (s.power = .waiting ∨ s.power = .inputOut ∨ s.power = .removed → s.emerg = false →
      ∃ t, exec .powerGood s = .next t ∧ off t ∧ t.power = .good ∧ t.pwrgd = .high ∧ t.time = 0 ∧ t.converters = 0xFFFF) ∧
    (s.power = .good → ∃ t, exec .inputOutOfRange s = .next t ∧ off t ∧ silent t ∧ t.power = .inputOut ∧ t.pwrgd = .low) ∧
    (∃ t, exec .powerLoss s = .next t ∧ off t ∧ silent t ∧ t.power = .removed ∧ t.pwrgd = .highZ) ∧
    (s.power = .good → ∃ t, exec .emergOffN s = .next t ∧ off t ∧ silent t ∧ t.power = .emergency ∧ t.pwrgd = .low ∧ t.emerg = true) ∧
    (s.power ≠ .good → s.power ≠ .removed → exec .emergOffN s = .next { s with emerg := true }) ∧
    (s.emerg = true → s.power = .emergency →
      ∃ t, exec .emergOffRelease s = .next t ∧ off t ∧ t.power = .good ∧ t.pwrgd = .high ∧ t.emerg = false) ∧
    (s.emerg = true → s.power ≠ .emergency → exec .emergOffRelease s = .next { s with emerg := false })

/-- R421: the power limit is the smallest of its terms, and a term's `CAUSE` bit is set while it is the smallest or equal to it.
The input term counts once a window has measured the voltage (log entry 86). R420, R421, R439: CONVERTER_FAULT takes a converter
out of regulation; THROT_N_ASSERT lowers every positive credit to zero and holds the limit at the floor or below;
THROT_N_RELEASE, 1 ms later at the earliest, lets a stored envelope take effect. Each of these commands completes as stated,
`exec` answering a next state: `throtNAssert`, `throtNRelease`, `converterFault`. -/
def Obligations.TermsLimitPower : Prop :=
  (∀ (s : State),
    let t := s.relimit
    let term (i w : Nat) : Prop := (i = 0 ∧ w = s.envelope) ∨ (i = 1 ∧ w = 2200 * s.convertersOk) ∨
      (i = 2 ∧ s.vin ≠ 0 ∧ w = s.vin * s.part.maxAmps / 100) ∨ (i = 3 ∧ w = s.coolantLimit) ∨
      (i = 4 ∧ s.throt = true ∧ w = s.part.floorW)
    (∀ i w, term i w → t.plim ≤ w) ∧ (∃ i w, term i w ∧ t.plim = w) ∧
    ∀ i, i < 5 → (t.cause.getLsbD i = true ↔ term i t.plim)) ∧
  (∀ (s : State),
    (∀ i : Fin 16, i.val < s.part.converters → exec (.converterFault i) s =
      .next (State.relimit { s with converters := s.converters &&& ~~~ (1#16 <<< i.val) })) ∧
    (s.power = .good → s.perst = false → s.throt = false → ∃ t, exec .throtNAssert s = .next t ∧ t.throt = true ∧
      t.throtAt = s.time ∧ t.plim ≤ s.part.floorW ∧ t.envelope = s.envelope ∧
      ∀ p x, s.partition? p = some x → t.partition? p = some { x with credit := min x.credit 0 }) ∧
    (s.throt = true → s.throtAt + msec ≤ s.time → ∃ t, exec .throtNRelease s = .next t ∧ t.throt = false ∧
      t.storedEnvelope = none ∧ t.partitions = s.partitions ∧
      t.envelope = (match s.storedEnvelope with | some w => w | none => s.envelope)) ∧
    (s.throt = true → s.time < s.throtAt + msec → exec .throtNRelease s = .next s))

/-- R264, R265, R421, R428, R436, R437: a sample at or above its sensor's trip powers the module down with THERMTRIP_N asserted;
a stack at 105 °C or above stops its rim with a hardware fault; one at 100 °C or above has half of its bandwidth, and one at 95
°C or above three quarters; a die at 105 °C or above makes its partition hot. Each of these commands completes as stated, `exec`
answering a next state: `stackTemperatureSample`, `dieTemperatureSample`, `coolantSample`, `converterTemperatureSample`. -/
def Obligations.TemperaturesAct : Prop :=
  ∀ (s : State), s.power = .good →
    let tripped (o : Out) : Prop := ∃ t, o = .next t ∧ t.power = .tripped ∧ t.thermtripN = .low ∧ t.pwrgd = .low ∧
      t.partitions = [] ∧ t.rims = []
    (∀ (rim : RimId) (sensor : Int), s.part.hasRim rim = true →
      let reading := (sensor + 2) / 4 * 4
      (1760 ≤ reading → tripped (exec (.stackTemperatureSample rim sensor) s)) ∧
      (1680 ≤ reading → reading < 1760 → (s.rim rim).thermal ≠ .stopped → ∃ u : State,
        exec (.stackTemperatureSample rim sensor) s = .next (u.hardFault .hwStackTemp (rimNode rim) 0) ∧
        (u.rim rim).thermal = .stopped ∧ (u.rim rim).outstanding = [] ∧ (u.rim rim).temperature = reading) ∧
      (reading < 1680 → ∃ u, exec (.stackTemperatureSample rim sensor) s = .next u ∧ (u.rim rim).temperature = reading ∧
        (u.rim rim).stack = (s.rim rim).stack ∧ (∀ k, k ≠ rim.val → u.rim k = s.rim k) ∧
        ((s.rim rim).thermal ≠ .stopped → 1600 ≤ reading → (u.rim rim).thermal = .cap50) ∧
        ((s.rim rim).thermal = .none → 1520 ≤ reading → reading < 1600 → (u.rim rim).thermal = .cap75) ∧
        ((s.rim rim).thermal = .none → reading < 1520 → (u.rim rim).thermal = .none))) ∧
    (∀ (n : Node) (junction : Int),
      (1840 ≤ junction → tripped (exec (.dieTemperatureSample n junction) s)) ∧
      (junction < 1840 → ∃ u, exec (.dieTemperatureSample n junction) s = .next u ∧
        Sparse.get? u.junctions n = some junction ∧ u.rims = s.rims ∧
        ∀ p d, s.dieAtNode n = some (p, d) → 1680 ≤ junction → ∃ y, u.partition? p = some y ∧ y.hot = true)) ∧
    (∀ (inlet outlet : Int), (1120 ≤ outlet → tripped (exec (.coolantSample inlet outlet) s)) ∧
      (outlet < 1120 → exec (.coolantSample inlet outlet) s =
        .next (State.relimit { s with coolantIn := inlet, coolantOut := outlet }))) ∧
    (∀ (i : Fin 16) (degrees : Int), i.val < s.part.converters →
      (125 ≤ degrees → tripped (exec (.converterTemperatureSample i degrees) s)) ∧
      (degrees < 125 → exec (.converterTemperatureSample i degrees) s = .next s))

/-- R433, R434: with `LOW_CLOCK` accepted the hub decides to move to 1.0 GHz once the limit has stayed below half of the part's
maximum for 10 ms, and back once it has stayed at or above 0.6 of it for 100 ms; without `LOW_CLOCK` it never decides to leave
1.4 GHz. The decided move is made 20 µs after every partition lets it. Each of these commands completes as stated, `exec`
answering a next state: `clockPointDecision`, `clockChange`. -/
def Obligations.ClockFollowsTheLimit : Prop :=
  ∀ (s : State),
    let t := s.relimit
    (2 * t.plim < s.part.maxW → t.belowSince = (match s.belowSince with | some b => some b | none => some s.time)) ∧
    (s.part.maxW ≤ 2 * t.plim → t.belowSince = none) ∧
    (6 * s.part.maxW ≤ 10 * t.plim → t.aboveSince = (match s.aboveSince with | some b => some b | none => some s.time)) ∧
    (10 * t.plim < 6 * s.part.maxW → t.aboveSince = none) ∧
    (s.power = .good → s.features.getLsbD 11 = true → ∀ since,
      (s.clockLow = false → s.belowSince = some since → exec .clockPointDecision s =
        .next (if since + 10 * msec ≤ s.time then { s with clockPending := true } else s)) ∧
      (s.clockLow = true → s.aboveSince = some since → exec .clockPointDecision s =
        .next (if since + 100 * msec ≤ s.time then { s with clockPending := true } else s))) ∧
    (s.features.getLsbD 11 = false → s.clockLow = false → exec .clockPointDecision s = .next s) ∧
    (∀ since, s.clockPending = true → (∀ e ∈ s.partitions, s.clockReady e.1 e.2 = true) → s.clockFrom = some since →
      since + 20 * usec ≤ s.time → ∃ u, exec .clockChange s = .next u ∧
      u.clockLow = !s.clockLow ∧ u.clockPending = false ∧ u.clockFrom = none ∧
      ∀ p y, u.partition? p = some y → HoldReason.clock ∉ y.run.holds) ∧
    ((∃ e ∈ s.partitions, s.clockReady e.1 e.2 = false) ∨ (∀ since, s.clockFrom = some since → s.time < since + 20 * usec) →
      exec .clockChange s = .next s) ∧
    (s.power = .good → s.pending = [] → ∃ u, step s = .next u ∧ u.clockFrom =
      if s.clockPending = true ∧ ∀ e ∈ s.partitions, s.clockReady e.1 e.2 = true then some (s.clockFrom.getD s.time) else none)

/-! ### Rings, BAR0 and the host link -/

/-- R386, R387, R390, R492: a completion with an entry free is written as its 64 bytes at the index `CPL_PROD` names, gives up
its reservation and moves `CPL_PROD` on by one; with none free, or while the stream is insecure and the command is none that is
served then, it waits, in order. R381, R383–R388, R416, R480, R492, R514: a change of the watched line posts what waited and
picks up every new command of the ring while completion entries are free (the other rings having none to pick up), noting for a
sequence command whether its phase has begun, and an overrun stops the ring; `RING.ENABLE` starts the admin ring or refuses it;
the hold-off of a vector ends after 10 µs; LINK_RETRAIN makes the stream insecure and reads every watched line again. Each of
these commands completes as stated, `exec` answering a next state: `watchedLineInvalidate`, `ringEnable`, `msiXCoalesceExpiry`,
`linkRetrain`. -/
def Obligations.RingsAreServed : Prop :=
  (∀ (s : State) (k opcode : Nat) (e : CmdEntry) (st : Status) (detail : Nat) (result : List W32),
    let r := s.ring k
    let at_ := r.cpl + 64 * (r.cplProd.toNat % r.size)
    let bytes := completionBytes opcode e.tag.toNat e.part.toNat e.ctx.toNat ((r.cplProd.toNat / r.size + 1) % 2) st detail result
    (r.hasRoom = true → s.mutes opcode = false → ∃ t, s.complete k opcode e st detail result = t ∧
      (t.ring k).cplProd = r.cplProd + 1 ∧ (t.ring k).reserved = r.reserved - 1 ∧ (t.ring k).unposted = r.unposted ∧
      (∀ i, i < 64 → r.ctrl + 76 ≤ at_ + i ∨ at_ + i < r.ctrl + 72 → t.hostByte (at_ + i) = bytes.getD i 0) ∧
      t.hostBytes (r.ctrl + 72) 4 = leBytes 4 (r.cplProd + 1).toNat ∧
      (∀ a, ¬ (at_ ≤ a ∧ a < at_ + 64) → ¬ (r.ctrl + 72 ≤ a ∧ a < r.ctrl + 76) → t.hostByte a = s.hostByte a) ∧
      (∀ j, j ≠ k → t.ring j = s.ring j) ∧ t.partitions = s.partitions ∧ t.rims = s.rims) ∧
    (r.hasRoom = false ∨ s.mutes opcode = true → s.complete k opcode e st detail result =
      s.setRing k { r with unposted := r.unposted ++ [⟨opcode, e, st, detail, result⟩] })) ∧
  (∀ (s : State),
    (∀ (ring : RingId) (writes : List HostWrite),
      let k := ringNumber ring
      let t := writes.foldl (fun t w => t.hostWrite w.addr w.data) s
      let r := t.ring k
      let prod := BitVec.ofNat 32 (leNat (t.hostBytes r.ctrl 4))
      let cons := BitVec.ofNat 32 (leNat (t.hostBytes (r.ctrl + 8) 4))
      let waiting := (prod - r.cmdCons).toNat
      r.state = .running → t.answers = true → r.unposted = [] → r.events = [] → r.lost = 0 →
      (∀ j, j ≠ k → (t.ring j).state ≠ .running ∨ (t.ring j).cmdCons = (t.ring j).cmdProd ∨ (t.ring j).free = 0) →
      (r.ctrl + 68 ≤ r.cmd ∨ r.cmd + 64 * r.size ≤ r.ctrl + 64) →
      let entry (i : Nat) : Picked := Picked.ofBytes
        (t.hostBytes (r.cmd + 64 * ((r.cmdCons + BitVec.ofNat 32 i).toNat % r.size)) 64) (r.seen + i)
      (waiting ≤ r.size → ∃ u n, exec (.watchedLineInvalidate ring writes) s = .next u ∧
        n = min waiting (Ring.free { r with cplCons := cons }) ∧
        (u.ring k).state = .running ∧ (u.ring k).cmdProd = prod ∧ (u.ring k).cplCons = cons ∧
        (u.ring k).cmdCons = r.cmdCons + BitVec.ofNat 32 n ∧ (u.ring k).reserved = r.reserved + n ∧
        (u.ring k).picked = r.picked ++ (List.range n).map (fun i => { entry i with late := t.pickedLate (entry i) }) ∧
        (0 < n → u.hostBytes (r.ctrl + 64) 4 = leBytes 4 (u.ring k).cmdCons.toNat)) ∧
      (r.size < waiting → ∃ u, exec (.watchedLineInvalidate ring writes) s = .next u ∧ (u.ring k).state = .overrun ∧
        (u.ring k).picked = r.picked)) ∧
    (s.answers = true → (s.ring 0).state ≠ .running →
      let r := s.ring 0
      (ringLegal r.ctrl r.cmd r.cpl r.sizeLog2 = true → ∃ t, exec .ringEnable s = .next t ∧ t.ring 0 = { r with
        state := .running, cmdCons := 0, cmdProd := 0, cplProd := 0, cplCons := 0 } ∧
        t.hostBytes (r.ctrl + 64) 12 = List.replicate 12 0) ∧
      (ringLegal r.ctrl r.cmd r.cpl r.sizeLog2 = false →
        exec .ringEnable s = .next (s.setRing 0 { r with state := .refused }))) ∧
    (∀ (vector : Fin 17) (since : Nat), (s.vector vector).holdOff = some since → since + 10 * usec ≤ s.time →
      let t := s.setVector vector { s.vector vector with holdOff := none, covered := false }
      exec (.msiXCoalesceExpiry vector) s = .next (if (s.vector vector).covered then t.interrupt vector else t)) ∧
    (s.linkUp = true → s.power = .good →
      let t : State := { s with ide := { s.ide with secure := false } }
      exec .linkRetrain s = .next (s.rings.foldl (fun u e => u.readWatched e.1) t)))

/-- R510, R511, R514, R515: a naturally aligned write of 4 or 8 bytes to the admin ring's bases, or of 4 bytes to an address or
data field of the MSI-X table, reads back and changes no other byte of BAR0; a misaligned one changes nothing; and SNAP_REFRESH
at stage 4 moves `SNAP.SEQ` on by 2 and shows the time. What unmasking sends is presumed (log entry 10). Each of these commands
completes as stated, `exec` answering a next state: `bar0Write`, `snapRefresh`. -/
def Obligations.WindowWritesReadBack : Prop :=
  ∀ (s : State),
    (∀ (offset : BitVec 16) (wide : Bool) (value : W64),
      let o := offset.toNat
      let n := if wide then 8 else 4
      s.answers = true →
      (o % n ≠ 0 → exec (.bar0Write offset wide value) s = .next s) ∧
      (o % n = 0 → (0x200 ≤ o ∧ o + n ≤ 0x218 ∧ (s.ring 0).state ≠ .running) ∨
          (wide = false ∧ 0x1000 ≤ o ∧ o < 0x1110 ∧ o % 16 < 12) →
        ∃ t, exec (.bar0Write offset wide value) s = .next t ∧
          ∀ a, t.bar0Byte a = if o ≤ a ∧ a < o + n then BitVec.ofNat 8 (value.toNat / 256 ^ (a - o)) else s.bar0Byte a)) ∧
    (s.stage = .ready → ∃ t, exec .snapRefresh s = .next t ∧ t.snapSeq = s.snapSeq + 2 ∧
      t = { s with snapSeq := t.snapSeq, snap := t.snap } ∧
      (∀ i, i < 4 → t.bar0Byte (0x8000 + i) = BitVec.ofNat 8 (t.snapSeq.toNat / 256 ^ i)) ∧
      ∀ i, i < 8 → t.bar0Byte (0x8008 + i) = BitVec.ofNat 8 (s.timeUs / 256 ^ i))

/-! ### Cast-on, resets and the IDE stream -/

/-- R449, R469, R476, R477, R479, R483–R485, R490–R493: CAST_ON runs the active slot's image if it verifies, else the other
slot's, else stops at stage 15; LINK_TRAINED goes to stage 2; CAST_ON_READY retires what failed its test and goes to stage 4;
PERST_N and a hot reset lose every partition, ring and volatile key, while the measured stack temperatures stay; and the IDE
stream's events end its security, move its transmit key and drop the key set before. Each of these commands completes as stated,
`exec` answering a next state: `castOn`, `linkTrained`, `castOnReady`, `perstNAssert`, `hotReset`, `ideIntegrityFailure`,
`ideTxKeySwitch`, `ideOldKeyExpiry`. -/
def Obligations.CastOnRuns : Prop :=
  ∀ (s : State),
    let lost (t : State) : Prop := t.partitions = [] ∧ t.rings = [] ∧ t.vectors = [] ∧ t.session = none ∧
      (∀ k, t.rim k = { Rim.reset with temperature := (s.rim k).temperature }) ∧ t.features = 0 ∧ t.linkUp = false ∧ t.envelope = s.part.floorW ∧ t.firmware = s.firmware ∧ t.spares = s.spares ∧
      t.activeSlot = s.activeSlot ∧ t.minSvn = s.minSvn ∧ t.time = s.time ∧ t.power = s.power
    (s.power = .good → s.stage = .reset →
      let image (i : Nat) := s.slotImage i
      let runs (i : Nat) (back : Bool) : Prop := ∃ t, exec .castOn s = .next t ∧ lost t ∧ t.stage = .rom ∧
        t.runningImage = fwBytes (image i) ∧ t.fallback = back ∧ t.bootCount = s.bootCount + 1 ∧ t.perst = false
      (s.fwVerifies (image s.activeSlot) = true → runs s.activeSlot false) ∧
      (s.fwVerifies (image s.activeSlot) = false → s.fwVerifies (image (1 - s.activeSlot)) = true →
        runs (1 - s.activeSlot) true) ∧
      (s.fwVerifies (image s.activeSlot) = false → s.fwVerifies (image (1 - s.activeSlot)) = false →
        ∃ t, exec .castOn s = .next t ∧ lost t ∧ t.stage = .failed ∧ t.bootCount = s.bootCount + 1)) ∧
    (∀ rate narrow, s.stage = .rom → exec (.linkTrained rate narrow) s =
      .next { s with stage := .link, linkUp := true, linkRate := rate, linkNarrow := narrow }) ∧
    (∀ failed, s.stage = .link ∨ s.stage = .background → ∃ t, exec (.castOnReady failed) s = .next t ∧ t.stage = .ready ∧
      t.meshValid = true ∧ t.minSvn = max s.minSvn (fwSvn s.runningImage) ∧ t.partitions = s.partitions ∧
      (∀ h r, t.deriveMesh = some (h, r) → t.meshW = 16 ∧ t.meshH = h ∧ t.row0 = r) ∧
      (∀ n ∈ failed, Part.fitsSkein s.part n = true → (t.retiredIn (skeinOf n).1).getLsbD (skeinOf n).2 = true) ∧
      ∀ k : RimId, s.part.hasRim k = true → (t.rim k).key = none ∧ (t.rim k).stack = [] ∧ (t.rim k).cache = []) ∧
    (s.power = .good → ∃ t, exec .perstNAssert s = .next t ∧ lost t ∧ t.stage = .reset ∧ t.perst = true) ∧
    (s.power = .good → s.linkUp = true → ∃ t, exec .hotReset s = .next t ∧ lost t ∧ t.stage = .reset ∧ t.perst = s.perst) ∧
    (s.features.getLsbD 12 = true → s.ide.secure = true →
      exec .ideIntegrityFailure s = .next { s with ide := { s.ide with secure := false } }) ∧
    (∀ k, s.ide.current = some k → exec .ideTxKeySwitch s = .next { s with ide := { s.ide with transmit := some k } }) ∧
    (∀ k, s.ide.old = some k → s.ide.installed + second ≤ s.time → ∃ t, exec .ideOldKeyExpiry s = .next t ∧
      t = { s with ide := t.ide } ∧ t.ide.old = none ∧ t.ide.current = s.ide.current ∧
      ∀ j, Sparse.get? t.ide.keys j = if j = k then none else Sparse.get? s.ide.keys j)

/-! ### The I3C target -/

/-- R502, R503: the target takes a dynamic address, gives it up and changes it as `ENTDAA`, `SETDASA`, `RSTDAA` and `SETNEWDA`
say, is ready 50 ms after power-good, answers the directed reads at its dynamic address with its fixed values, and does not
acknowledge without one. Byte orders on the bus are presumed (log entry 34). R504: the first byte of an I3C private write sets
the register offset, and no further byte is acknowledged; a private read returns the management registers of one sample from the
offset upward, wrapping from 0x7F to 0x00. Each of these commands completes as stated, `exec` answering a next state: `entdaa`,
`setdasa`, `rstdaa`, `setnewda`, `getpid`, `getbcr`, `getdcr`, `getstatus`, `getmrl`, `getmwl`, `rstact`, `i3cPrivateWrite`,
`i3cPrivateRead`, `i3cTargetReady`. -/
def Obligations.TargetAnswersCommands : Prop :=
  (∀ (s : State) (a : BitVec 7),
    let nack (t : State) : Prop := t = { s with i3cAck := false, i3cAnswer := [] }
    let takes (command : Instr) : Prop := ∃ t, exec command s = .next t ∧
      if s.i3cReady = true ∧ s.i3cAddress = none then t = { s with i3cAck := true, i3cAnswer := [], i3cAddress := some a } else nack t
    let live := s.i3cReady = true ∧ s.i3cAddress ≠ none
    let gives (command : Instr) (bs : List Byte) : Prop := ∃ t, exec command s = .next t ∧
      (live → t = { s with i3cAck := true, i3cAnswer := bs }) ∧ (¬ live → nack t)
    (s.power = .good → 50 * msec ≤ s.time → exec .i3cTargetReady s = .next { s with i3cReady := true }) ∧
    takes (.entdaa a) ∧ takes (.setdasa a) ∧
    (s.i3cReady = true → exec .rstdaa s = .next { s with i3cAck := true, i3cAnswer := [], i3cAddress := none }) ∧
    (live → exec (.setnewda a) s = .next { s with i3cAck := true, i3cAnswer := [], i3cAddress := some a }) ∧
    gives .getbcr [0x20] ∧ gives .getdcr [0x00] ∧ gives .getmrl [0x00, 0x80] ∧ gives .getmwl [0x00, 0x01] ∧
    (∃ pid : List Byte, gives .getpid pid ∧
      leNat pid.reverse = 0x05D3 * 2 ^ 33 + s.part.code * 2 ^ 16 + s.serial.toNat % 2 ^ 16 ∧ pid.length = 6) ∧
    (live → ∃ t, exec .getstatus s = .next t ∧ t.i3cAck = true ∧ t.i3cAnswer.length = 2 ∧
      t = { s with fresh := t.fresh, i3cAck := true, i3cAnswer := t.i3cAnswer }) ∧
    (∀ action, ∃ t, exec (.rstact action) s = .next t ∧
      (live → action = 0 → t = { s with i3cAck := true, i3cAnswer := [] }) ∧ (¬ live ∨ action ≠ 0 → nack t))) ∧
  (∀ (s : State), s.i3cReady = true → s.i3cAddress ≠ none →
    (∀ b rest, exec (.i3cPrivateWrite (b :: rest)) s =
      .next { s with i3cAck := decide (rest = []), i3cAnswer := [], i3cOffset := b.setWidth 7 }) ∧
    (∀ count, ∃ t, exec (.i3cPrivateRead count) s = .next t ∧ t = { s with i3cAck := true, i3cAnswer := t.i3cAnswer } ∧
      t.i3cAnswer.length = count.val ∧
      ∀ i, i < count.val → t.i3cAnswer.getD i 0 = s.management.getD ((s.i3cOffset.toNat + i) % 128) 0) ∧
    s.management.length = 128)

/-! ### Commands of the rings -/

/-- R11, R389, R391–R393, R396, R397, R400, R403, R412, R452, R478, R487, R492, in the order of log entry 56: every command of
the rings changes nothing before its ring has picked it up and its turn has come; one refused for its form completes with that
status; one held back changes nothing; and one refused for a feature, its partition, its context or its buffer completes with
that status. -/
def Obligations.RingCommandsAreGated : Prop :=
  ∀ (s : State) (q : Request) (c : Picked),
    ∀ e ∈ [(0x0001, Instr.nop q), (0x0002, .negotiate q), (0x0010, .partitionCreate q), (0x0011, .partitionDestroy q),
        (0x0012, .ringCreate q), (0x0013, .setEnvelope q), (0x0018, .readStatus q), (0x0020, .sessionOpen q), (0x0021, .attest q),
        (0x0022, .ideKey q), (0x0023, .fwUpdate q), (0x0024, .debugUnlock q), (0x0100, .contextCreate q),
        (0x0101, .contextDestroy q), (0x0102, .contextWindow q), (0x0110, .loadPattern q), (0x0111, .unloadPattern q),
        (0x0112, .runSteps q), (0x0113, .stackWrite q), (0x0114, .stackRead q), (0x0115, .checkpoint q), (0x0116, .restore q),
        (0x0120, .seqAdmit q), (0x0121, .seqSwapWindow q), (0x0122, .seqRead q), (0x0130, .readCounters q),
        (0x0131, .readPerf q)],
      (s.picked? q e.1 = none → exec e.2 s = .next s) ∧
      (s.picked? q e.1 = some c → (s.ring (ringNumber q.ring)).mayStart s.holdsBack c = false → exec e.2 s = .next s) ∧
      (s.picked? q e.1 = some c → (s.ring (ringNumber q.ring)).mayStart s.holdsBack c = true →
        (∀ st, s.refusal q e.1 = some st → exec e.2 s = .next (s.answer q e.1 c st 0 [])) ∧
        (s.refusal q e.1 = none → s.holdsBack e.1 = true → exec e.2 s = .next s) ∧
        (∀ st, s.refusal q e.1 = none → s.holdsBack e.1 = false → s.lacking q e.1 = some st →
          exec e.2 s = .next (s.answer q e.1 c st 0 [])))

/-- R309, R381, R393, R398, R401: `NOP`, an opcode that the table does not have, `NEGOTIATE` and `RING_CREATE`, and the end of a
host transfer, once the hub has served its 4 KiB units. The accepted features are those offered that the module supports (an
offered bit that R399 reserves is masked, log entry 105); a ring starts at index 0. Each of these commands completes as stated,
`exec` answering a next state: `nop`, `negotiate`, `ringCreate`, `badOpcodeCommand`, `hostTransferComplete`. -/
def Obligations.GeneralCommandsComplete : Prop :=
  ∀ (s : State) (q : Request) (c : Picked),
    let k := ringNumber q.ring
    let t := s.unpick k c
    let e := q.entry
    (Accepts s q 0x0001 c → exec (.nop q) s = .next (s.answer q 0x0001 c .ok 0 [])) ∧
    (∀ opcode, opcode.toNat ∉ knownOpcodes → s.picked? q opcode.toNat = some c → (s.ring k).mayStart s.holdsBack c = true →
      exec (.badOpcodeCommand q opcode) s = .next (s.answer q opcode.toNat c .badOpcode 0 [])) ∧
    (Accepts s q 0x0002 c →
      ((offered e).getLsbD 0 = true → (offered e).getLsbD 16 = true → s.partitions = [] → ∃ features,
        exec (.negotiate q) s = .next (State.done { t with features } q 0x0002 .ok (words 8 features.toNat)) ∧
        ∀ i, i < 256 → features.getLsbD i = ((offered e).getLsbD i && decide (i ≤ 14 ∨ i = 16))) ∧
      ((offered e).getLsbD 0 = false ∨ (offered e).getLsbD 16 = false →
        exec (.negotiate q) s = .next (s.answer q 0x0002 c .feature 0 [])) ∧
      ((offered e).getLsbD 0 = true → (offered e).getLsbD 16 = true → s.partitions ≠ [] →
        exec (.negotiate q) s = .next (s.answer q 0x0002 c .busy 0 []))) ∧
    (Accepts s q 0x0012 c → (s.ring (e.part.toNat + 1)).state ≠ .running →
      ringLegal (paramPair e 0) (paramPair e 2) (paramPair e 4) (paramAt e 6) = true → ∃ u,
        exec (.ringCreate q) s = .next (State.done u q 0x0012 .ok []) ∧ u.ring (e.part.toNat + 1) = { t.ring (e.part.toNat + 1) with
          state := .running, ctrl := paramPair e 0, cmd := paramPair e 2, cpl := paramPair e 4, sizeLog2 := paramAt e 6
          cmdCons := 0, cmdProd := 0, cplProd := 0, cplCons := 0 } ∧ u.partitions = s.partitions) ∧
    (∀ (tag : BitVec 16) (a : Active) (st : Status) (detail : Nat) (result : List W32), a ∈ (s.ring k).active →
      a.entry.tag = tag → a.progress = .transfer st detail result → (∀ b ∈ (s.ring k).active, b.entry.tag = tag → b = a) →
      let out : Bool := a.opcode == 0x0114
      let serves := s.hubServe a.entry.part.toNat out ((a.entry.len.toNat + 4095) / 4096)
      (∀ u, serves = some u → u.rings = s.rings ∧
        exec (.hostTransferComplete q.ring tag) s = .next (u.finish k a st detail result)) ∧
      (serves = none → exec (.hostTransferComplete q.ring tag) s = .next s) ∧
      (s.insecure = true → serves = none) ∧ (s.insecure = false → s.partition? a.entry.part.toNat = none → serves = some s) ∧
      (s.insecure = false → (∀ z ∈ s.partitions, if z.1 = a.entry.part.toNat then 0 < z.2.hostShare
        else s.hostPending z.1 z.2 out = 0) → serves ≠ none))

/-- R422: `SET_ENVELOPE` takes a value from the part's floor to its maximum power and refuses any other; at cast-on the envelope
is the floor; a value set while THROT_N is accepted as asserted is stored and takes effect when the assertion ends; `RESULT`[0]
is the envelope in force. Each of these commands completes as stated, `exec` answering a next state: `setEnvelope`,
`throtNRelease`, `castOn`. -/
def Obligations.EnvelopeIsSet : Prop :=
  (Part.gq4_256.floorW = 8000 ∧ Part.gq4_128.floorW = 4000 ∧ Part.gq4_064.floorW = 2000) ∧
  ∀ (s : State),
    (∀ (q : Request) (c : Picked), Accepts s q 0x0013 c →
      let w := paramAt q.entry 0
      (w < s.part.floorW ∨ s.part.maxW < w → exec (.setEnvelope q) s = .next (s.answer q 0x0013 c .envelope 0 []) ∧
        (s.answer q 0x0013 c .envelope 0 []).envelope = s.envelope) ∧
      (s.part.floorW ≤ w → w ≤ s.part.maxW → ∃ u, exec (.setEnvelope q) s =
          .next (State.done u q 0x0013 .ok [BitVec.ofNat 32 u.envelope]) ∧
        (s.throt = false → u.envelope = w ∧ u.plim ≤ w) ∧
        (s.throt = true → u.envelope = s.envelope ∧ u.storedEnvelope = some w))) ∧
    (s.power = .good → s.stage = .reset → ∃ t, exec .castOn s = .next t ∧ t.envelope = s.part.floorW ∧ t.storedEnvelope = none) ∧
    (∀ w, s.throt = true → s.throtAt + msec ≤ s.time → s.storedEnvelope = some w →
      ∃ t, exec .throtNRelease s = .next t ∧ t.envelope = w ∧ t.storedEnvelope = none)

/-- R380, R402, R410, R411, R489: `READ_STATUS`, `READ_COUNTERS`, `READ_PERF` and `ATTEST` write their records to the command's
buffer and complete; a selector that names none, or a buffer too short, is refused. What CONFIG_HASH covers is free (log entry
55). Each of these commands completes as stated, `exec` answering a next state: `readStatus`, `attest`, `readCounters`,
`readPerf`. -/
def Obligations.ReportsAreWritten : Prop :=
  ∀ (s : State) (q : Request) (c : Picked),
    let t := s.unpick (ringNumber q.ring) c
    let e := q.entry
    (Accepts s q 0x0018 c →
      let bs := s.statusRecord q.ring (paramAt e 0)
      (paramAt e 0 ≤ 3 → bs.length ≤ e.len.toNat → exec (.readStatus q) s =
        .next (State.done (t.hostWrite e.addr.toNat bs) q 0x0018 .ok [BitVec.ofNat 32 bs.length])) ∧
      (3 < paramAt e 0 ∨ e.len.toNat < bs.length → exec (.readStatus q) s = .next (s.answer q 0x0018 c .badParam 0 []))) ∧
    (∀ x, Accepts s q 0x0130 c → s.live? e.part.toNat = some x →
      let answers (rs : List (List Byte)) : Prop := 96 * rs.length ≤ e.len.toNat → exec (.readCounters q) s =
        .next (State.done (t.hostWrite e.addr.toNat rs.flatten) q 0x0130 .ok [BitVec.ofNat 32 rs.length])
      (paramAt e 0 = 0 → answers [counterRecord 0xFFFF x.counters]) ∧
      (∀ v, paramAt e 0 = 1 → x.context? e.ctx.toNat = some v → answers [counterRecord e.ctx.toNat v.counters]) ∧
      (paramAt e 0 = 2 → answers (counterRecord 0xFFFF x.counters :: x.contexts.map (fun y => counterRecord y.1 y.2.counters))) ∧
      (paramAt e 0 = 1 → x.context? e.ctx.toNat = none →
        exec (.readCounters q) s = .next (s.answer q 0x0130 c .noContext 0 []))) ∧
    (∀ x, Accepts s q 0x0131 c → s.live? e.part.toNat = some x →
      let answers (bs : List Byte) : Prop := bs.length ≤ e.len.toNat → exec (.readPerf q) s =
        .next (State.done (t.hostWrite e.addr.toNat bs) q 0x0131 .ok [])
      (paramAt e 0 = 0 → paramAt e 1 < x.size → answers ((List.range 752).flatMap (fun i =>
        leBytes 8 (Sparse.getD 0 (x.die (paramAt e 1)).conflicts i)))) ∧
      (∀ k, paramAt e 0 = 1 → x.stackRims[paramAt e 1]? = some k → answers (s.rim k).counterBytes) ∧
      (2 ≤ paramAt e 0 → exec (.readPerf q) s = .next (s.answer q 0x0131 c .badParam 0 []))) ∧
    (Accepts s q 0x0021 c → 9216 ≤ e.len.toNat → exec (.attest q) s = .next (State.done
      (t.hostWrite e.addr.toNat ((s.attestation e).take e.len.toNat)) q 0x0021 .ok
        [BitVec.ofNat 32 ((s.attestation e).take e.len.toNat).length]))

/-- R350–R354, R357, R370, R375–R378, R395, R402, R408: `PARTITION_CREATE` gives the lowest free partition number its shape,
stacks and attributes, and no context; `PARTITION_DESTROY` kills every job and begins the teardown, with which it completes;
`CONTEXT_CREATE` adds a context in a free slot, or out of the stacks; `CONTEXT_DESTROY` removes one; `CONTEXT_WINDOW` grants a
window that covers what is out, and a larger one ends the lack of room. Each of these commands completes as stated, `exec`
answering a next state: `partitionCreate`, `partitionDestroy`, `contextCreate`, `contextDestroy`, `contextWindow`. -/
def Obligations.PartitionsAndContextsAreManaged : Prop :=
  ∀ (s : State) (q : Request) (c : Picked),
    let e := q.entry
    let p := e.part.toNat
    (Accepts s q 0x0010 c → s.createCheck e = none → ∃ t x,
      let h := NewPart.ofEntry s.part e
      exec (.partitionCreate q) s = .next (State.done t q 0x0010 .ok [BitVec.ofNat 32 s.freePartition]) ∧
      t.partition? s.freePartition = some x ∧ x.col0 = h.col0 ∧ x.row0 = h.row0 ∧ x.width = h.width ∧ x.height = h.height ∧
      x.stackMask = h.mask ∧ x.reserve = h.reserve ∧ x.slots = h.slots ∧ x.contexts = [] ∧ x.running = none ∧ x.dies = [] ∧
      x.credit = 0 ∧ x.teardown = false ∧ (∀ p, p ≠ s.freePartition → t.partition? p = s.partition? p) ∧
      ∀ k ∈ x.stackRims, (t.rim k).stack = [] ∧ (t.rim k).cache = []) ∧
    (∀ st, Accepts s q 0x0010 c → s.createCheck e = some st →
      exec (.partitionCreate q) s = .next (s.answer q 0x0010 c st 0 [])) ∧
    (∀ x, Accepts s q 0x0011 c → s.live? p = some x → 96 * (1 + x.contexts.length) ≤ e.len.toNat → ∃ t y,
      exec (.partitionDestroy q) s = .next t ∧ t.partition? p = some y ∧ y.teardown = true ∧
      y.destroyer = some (ringNumber q.ring, e) ∧ ⟨0x0011, e, c.order, .destroy⟩ ∈ (t.ring (ringNumber q.ring)).active ∧
      y.heldLeases = x.patterns.flatMap (·.leases) ∧
      (∀ n v, y.context? n = some v → v.pattern = none ∧ v.steps = none) ∧ (t.wire p).sources.contains (.teardown p) = true ∧
      ∀ r, r ≠ p → t.partition? r = s.partition? r) ∧
    (∀ x, Accepts s q 0x0100 c → s.live? p = some x →
      let n := x.freeContext
      (64 ≤ x.contexts.length → exec (.contextCreate q) s = .next (s.answer q 0x0100 c .ctxLimit 0 [])) ∧
      (∀ j rest, x.contexts.length < 64 → x.freeSlots = j :: rest → ∃ t y,
        exec (.contextCreate q) s = .next (State.done t q 0x0100 .ok [BitVec.ofNat 32 n, 1]) ∧ t.partition? p = some y ∧
        y.context? n = some (.created (.resident j) s.time) ∧
        y.running = (match x.running with | some o => some o | none => some n) ∧
        ∀ m, m ≠ n → y.context? m = x.context? m) ∧
      (x.contexts.length < 64 → x.freeSlots = [] → s.features.getLsbD 9 = true → ∃ t y,
        exec (.contextCreate q) s = .next (State.done t q 0x0100 .ok [BitVec.ofNat 32 n, 0]) ∧ t.partition? p = some y ∧
        y.context? n = some (.created (.out none) s.time) ∧ y.running = x.running)) ∧
    (∀ x, Accepts s q 0x0101 c → s.live? p = some x → 96 ≤ e.len.toNat → ∃ t y,
      exec (.contextDestroy q) s = .next (State.done t q 0x0101 .ok []) ∧ t.partition? p = some y ∧
      y.context? e.ctx.toNat = none ∧ (x.running = some e.ctx.toNat → y.running = none ∧ y.run.phase = .idle ∧
        ∀ d ∈ y.dies, d.2 = { Die.zeroed with m := d.2.m } ∧ ∀ a ∈ d.2.m, a.2 = a.2.clearedKeep) ∧
      ∀ r, r ≠ p → t.partition? r = s.partition? r) ∧
    (∀ x, Accepts s q 0x0102 c → s.live? p = some x →
      let base := paramPair e 0
      let len := paramPair e 2
      (base % 4096 = 0 → len % 4096 = 0 → (∀ a ∈ x.extents, base ≤ a.1 ∧ a.2 ≤ base + len) → ∃ t,
        exec (.contextWindow q) s = .next (State.done t q 0x0102 .ok []) ∧
        t.partition? p = some { x with window := some (base, len), windowFullPosted := x.windowFullPosted &&
          (match x.window with | some (_, old) => decide (len ≤ old) | none => false) }) ∧
      (base % 4096 = 0 → len % 4096 = 0 → (∃ a ∈ x.extents, a.1 < base ∨ base + len < a.2) →
        exec (.contextWindow q) s = .next (s.answer q 0x0102 c .ctxWindow 0 [])))

/-- R371, R403–R405, R414, R461: `LOAD_PATTERN` of an image that passes the load checks begins a job with that pattern at its
first step, and of any other leaves the partition as it was and reports the check; `UNLOAD_PATTERN` ends the job; `RUN_STEPS`
makes the context runnable for the steps it names. Each of these commands completes as stated, `exec` answering a next state:
`loadPattern`, `unloadPattern`, `runSteps`. -/
def Obligations.JobsBeginAndEnd : Prop :=
  ∀ (s : State) (q : Request) (c : Picked) (x : Machine.Partition) (v : Context),
    let e := q.entry
    let p := e.part.toNat
    let n := e.ctx.toNat
    let k := ringNumber q.ring
    s.live? p = some x → x.context? n = some v →
    (Accepts s q 0x0110 c → v.pattern = none →
      let image := s.hostBytes e.addr.toNat e.len.toNat
      let t := s.unpick k c
      (∀ pat, t.checkImage p x image = .ok pat → ∃ u y w, exec (.loadPattern q) s = .next u ∧ u.partition? p = some y ∧
        y.context? n = some w ∧ w.pattern = some pat ∧ w.seq = .empty ∧ w.restored = none ∧ w.steps = v.steps ∧
        w.step = (match v.restored with | some (hash, step) => if hash = pat.hash then step else 0 | none => 0) ∧
        (∀ r, r ≠ p → u.partition? r = s.partition? r) ∧
        ⟨0x0110, e, c.order, .transfer .ok 0 (words 12 pat.hash.toNat)⟩ ∈ (u.ring k).active) ∧
      (∀ f, t.checkImage p x image = .error f → ∃ u y w, exec (.loadPattern q) s = .next u ∧ u.partition? p = some y ∧
        y.context? n = some w ∧ w.pattern = none ∧ y.dies = x.dies ∧ y.run = x.run ∧ u.rims = s.rims ∧
        ⟨0x0110, e, c.order, .transfer f.status f.detail [BitVec.ofNat 32 f.index, BitVec.ofNat 32 f.off]⟩ ∈ (u.ring k).active)) ∧
    (Accepts s q 0x0110 c → v.pattern ≠ none → exec (.loadPattern q) s = .next (s.answer q 0x0110 c .busy 0 [])) ∧
    (Accepts s q 0x0111 c → v.pattern ≠ none → ∃ t y w, exec (.unloadPattern q) s = .next (State.done t q 0x0111 .ok []) ∧
      t.partition? p = some y ∧ y.context? n = some w ∧ w.pattern = none ∧ w.steps = none ∧
      (v.steps ≠ none → w.saved = none) ∧ ∀ r, r ≠ p → t.partition? r = s.partition? r) ∧
    (Accepts s q 0x0111 c → v.pattern = none → exec (.unloadPattern q) s = .next (s.answer q 0x0111 c .noPattern 0 [])) ∧
    (Accepts s q 0x0112 c → v.pattern ≠ none →
      (1 ≤ paramAt e 0 → paramAt e 0 ≤ 65535 → ∃ t y w, exec (.runSteps q) s = .next t ∧ t.partition? p = some y ∧
        y.context? n = some w ∧ w.steps = some ⟨k, e, paramAt e 0, 0, 1, 0, 0⟩ ∧ w.pattern = v.pattern ∧ w.step = v.step ∧
        y.dies = x.dies ∧ y.running = x.running ∧ ⟨0x0112, e, c.order, .steps⟩ ∈ (t.ring k).active) ∧
      (paramAt e 0 = 0 ∨ 65535 < paramAt e 0 → exec (.runSteps q) s = .next (s.answer q 0x0112 c .badParam 0 [])))

/-- R308, R409, R456–R461, R473: `STACK_WRITE`, `STACK_READ`, `CHECKPOINT` and `RESTORE` of ranges inside the context's span,
where the rims that they move data through serve the remote path: bytes go between the span and host memory, a checkpoint blocks
its context, a restore of a checkpoint that matches writes every stack and keeps its step for the next load, and one whose
header does not agree writes nothing. Each of these commands completes as stated, `exec` answering a next state: `stackWrite`,
`stackRead`, `checkpoint`, `restore`. -/
def Obligations.SpansAreMoved : Prop :=
  ∀ (s : State) (q : Request) (c : Picked) (x : Machine.Partition) (v : Context),
    let e := q.entry
    let p := e.part.toNat
    let n := e.ctx.toNat
    let t := s.unpick (ringNumber q.ring) c
    let len := e.len.toNat
    s.live? p = some x → x.context? n = some v →
    (len % 64 = 0 → x.rangeOk (paramPair e 0) len = true → s.remoteReady p (paramPair e 0) len = true →
      (Accepts s q 0x0113 c → exec (.stackWrite q) s = .next (State.transfer
        ((t.writeSpanBytes p n (paramPair e 0) (s.hostBytes e.addr.toNat len)).countHost p n len) q c .ok 0 [])) ∧
      (Accepts s q 0x0114 c → exec (.stackRead q) s = .next (State.transfer
        (((t.spanBytes p n (paramPair e 0) len).2.hostWrite e.addr.toNat (t.spanBytes p n (paramPair e 0) len).1).countHost p n
          len) q c .ok 0 []))) ∧
    (len % 64 = 0 → x.rangeOk (paramPair e 0) len = false →
      (Accepts s q 0x0113 c → exec (.stackWrite q) s = .next (s.answer q 0x0113 c .stackRegion 0 [])) ∧
      (Accepts s q 0x0114 c → exec (.stackRead q) s = .next (s.answer q 0x0114 c .stackRegion 0 []))) ∧
    (Accepts s q 0x0115 c → s.checkpointCheck e = none → exec (.checkpoint q) s = .next (State.goesOn
      (t.setPartition p (x.setContext n { v with checkpoint := some ⟨ringNumber q.ring, e, s.time⟩ })) (ringNumber q.ring) c
        .checkpoint)) ∧
    (Accepts s q 0x0116 c → v.pattern = none → s.restoreReady e = true →
      let header := CheckpointHeader.ofBytes (s.hostBytes e.addr.toNat 4096)
      let count := x.stackRims.length
      let data := s.hostBytes (e.addr.toNat + 4096) (count * header.size)
      (4096 ≤ len → header.agrees count len = true → x.rangeOk (withinStack (paramPair e 0)) header.size = true →
        Config.sha384 data = header.dataHash → exec (.restore q) s = .next (State.transfer
          (((t.setPartition p (x.setContext n { v with restored := some (header.pattern, header.step) })).restoreData p n count
            (withinStack (paramPair e 0)) header.size data).countHost p n (4096 + count * header.size)) q c .ok 0 [])) ∧
      (len < 4096 ∨ header.agrees count len = false →
        exec (.restore q) s = .next (State.transfer t q c .badParam 1 [])))

/-- R319, R345, R406, R407: `SEQ_ADMIT` and `SEQ_SWAP_WINDOW` wait in the hub for the table phase of the step that they name and
are refused without a sequence table, or where that step's phase had begun when they were picked up; `SEQ_READ` writes the
entries that it names. Each of these commands completes as stated, `exec` answering a next state: `seqAdmit`, `seqSwapWindow`,
`seqRead`. -/
def Obligations.SequenceCommandsWait : Prop :=
  ∀ (s : State) (q : Request) (c : Picked) (x : Machine.Partition) (v : Context),
    let e := q.entry
    let p := e.part.toNat
    let n := e.ctx.toNat
    let k := ringNumber q.ring
    let held (op : Nat) (isAdmit : Bool) : Out := .next (State.goesOn ((s.unpick k c).setPartition p (x.setContext n
      { v with heldSeq := v.heldSeq ++ [⟨k, e, isAdmit⟩] })) k ⟨op, e, c.order, c.late⟩ .sequence)
    s.live? p = some x → x.context? n = some v →
    (v.seqCfg = none →
      (Accepts s q 0x0120 c → exec (.seqAdmit q) s = .next (s.answer q 0x0120 c .noSeqTable 0 [])) ∧
      (Accepts s q 0x0122 c → exec (.seqRead q) s = .next (s.answer q 0x0122 c .noSeqTable 0 []))) ∧
    (∀ g, v.seqCfg = some g →
      (v.heldSeq.length < 4096 ∨ x.running = some n → c.late = false →
        (Accepts s q 0x0120 c → exec (.seqAdmit q) s = held 0x0120 true) ∧
        (Accepts s q 0x0121 c → paramPair e 0 % 4096 = 0 → exec (.seqSwapWindow q) s = held 0x0121 false)) ∧
      (c.late = true →
        (Accepts s q 0x0120 c → exec (.seqAdmit q) s = .next (s.answer q 0x0120 c .seqLate 0 [])) ∧
        (Accepts s q 0x0121 c → paramPair e 0 % 4096 = 0 →
          exec (.seqSwapWindow q) s = .next (s.answer q 0x0121 c .seqLate 0 []))) ∧
      (∀ w : Picked, w.entry = e →
        (w.opcode = 0x0120 → (s.pickedLate w = true ↔ paramAt e 2 < v.step ∨ v.seq.phaseStep = some (paramAt e 2))) ∧
        (w.opcode = 0x0121 → (s.pickedLate w = true ↔ paramAt e 3 < v.step ∨ v.seq.phaseStep = some (paramAt e 3)))) ∧
      (Accepts s q 0x0122 c → paramAt e 0 + paramAt e 1 ≤ g.slots → 64 * paramAt e 1 ≤ e.len.toNat →
        let bs := (List.range (paramAt e 1)).flatMap (fun i => v.seq.slotBytes (paramAt e 0 + i))
        exec (.seqRead q) s = .next (State.done
          (((s.unpick k c).hostWrite e.addr.toNat bs).countHost p n bs.length) q 0x0122 .ok [])))

/-- R482, R483, R485, R488, R491, R494, R495: `SESSION_OPEN` answers a valid public key with a signed reply and a new session
key; `IDE_KEY` installs the key set of a sealed block that opens under that key and is not a replay; `FW_UPDATE` writes an image
that verifies into the inactive slot and marks it active; `DEBUG_UNLOCK` with a valid token begins the destruction of every
partition and drops the keys; and each answers anything else with `ST_AUTH` and no effect. The cryptographic functions are
opaque (log entry 5). Each of these commands completes as stated, `exec` answering a next state: `sessionOpen`, `ideKey`,
`fwUpdate`, `debugUnlock`. -/
def Obligations.SecretsAreChecked : Prop :=
  ∀ (s : State) (q : Request) (c : Picked),
    let e := q.entry
    let k := ringNumber q.ring
    let buffer (n : Nat) := s.hostBytes e.addr.toNat n
    (Accepts s q 0x0020 c → 512 ≤ e.len.toNat →
      (Config.ecdh s.keyNumber (slice (buffer 128) 0 97) = none → exec (.sessionOpen q) s = .next (s.answer q 0x0020 c .auth 0 [])) ∧
      (∀ z, Config.ecdh s.keyNumber (slice (buffer 128) 0 97) = some z → ∃ u nonce,
        exec (.sessionOpen q) s = .next (State.done u q 0x0020 .ok []) ∧ nonce.length = 32 ∧
        u.session = some ⟨Config.hkdf z nonce sessionInfo, nonce, none⟩ ∧ u.keyNumber = s.keyNumber + 1 ∧
        u.hostBytes e.addr.toNat 128 = buffer 128 ∧
        u.hostBytes (e.addr.toNat + 128) 384 =
          (sessionReply (buffer 128) (Config.ephemeralPublic s.keyNumber) nonce).take 384)) ∧
    (Accepts s q 0x0022 c → 160 ≤ e.len.toNat →
      (s.unseal (buffer 160) = none → exec (.ideKey q) s = .next (s.answer q 0x0022 c .auth 0 [])) ∧
      (∀ z plain, s.unseal (buffer 160) = some (z, plain) → field plain 0 1 ≤ 1 → ∃ u,
        exec (.ideKey q) s = .next (State.done u q 0x0022 .ok []) ∧ u.ide.secure = true ∧
        u.ide.current = some (field plain 0 1) ∧ u.ide.installed = s.time ∧ u.ide.transmit = s.ide.transmit ∧
        Sparse.get? u.ide.keys (field plain 0 1) = some (slice plain 16 88) ∧ u.partitions = s.partitions)) ∧
    (Accepts s q 0x0023 c →
      let image := buffer e.len.toNat
      (s.fwVerifies image = true → ∃ u, exec (.fwUpdate q) s =
          .next (State.done u q 0x0023 .ok [BitVec.ofNat 32 (fwVersion image)]) ∧ u.activeSlot = 1 - s.activeSlot ∧
        u.slotImage (1 - s.activeSlot) = fwBytes image ∧ (s.activeSlot ≤ 1 → u.slotImage s.activeSlot = s.slotImage s.activeSlot) ∧
        u.runningImage = s.runningImage ∧ u.minSvn = s.minSvn) ∧
      (s.fwVerifies image = false → ∃ detail, 1 ≤ detail ∧ detail ≤ 3 ∧
        exec (.fwUpdate q) s = .next (s.answer q 0x0023 c .auth detail []))) ∧
    (Accepts s q 0x0024 c → 512 ≤ e.len.toNat →
      (s.tokenOk (buffer 512) = false → exec (.debugUnlock q) s = .next (s.answer q 0x0024 c .auth 0 [])) ∧
      (s.tokenOk (buffer 512) = true → ∃ u, exec (.debugUnlock q) s = .next u ∧ u.session = none ∧ u.ide = .unused ∧
        (∀ p x, u.partition? p = some x → x.teardown = true) ∧ (s.partitions = [] → u.debugOpen = true) ∧
        (s.partitions ≠ [] → u.debugOpen = s.debugOpen ∧ u.debugWait = some (k, e))))

/-! ### Table phases, contexts and checkpoints -/

/-- R320, R322, R323, R326, R335, R337, R342–R345, R406: TABLE_PHASE of the running context at a step boundary takes the
commands that are due, records its step and waits, and a bad step report ends the job; TABLE_PHASE_COMPLETE, once no copy that
it waits for is left, ends the wait and the hold; SWAP_COPY_COMPLETE, once the hub and the rim serve the copy, takes the next
copy off the list: a copy back whose tags open the pages that its host slot holds writes them, and one whose tag fails ends the
job; a copy that has waited more than 1 s for the link ends the job. Each of these commands completes as stated, `exec`
answering a next state: `tablePhase`, `tablePhaseComplete`, `swapCopyComplete`, `swapTimeout`. -/
def Obligations.TablePhasesRun : Prop :=
  ∀ (s : State) (p : PartId) (x : Machine.Partition) (c : Nat) (v : Context) (q : Pattern) (g : SeqConfig),
    s.partition? p = some x → x.running? = some (c, v) → v.pattern = some q → (q.die 0).seqCfg = some g →
    (x.run.phase ≠ .round → x.run.holds.contains .tablePhase = true → v.steps ≠ none → v.seq.waiting = false →
      v.seq.phaseStep ≠ some v.step → x.run.restartAt = none →
      (x.phaseWork v g v.step = none → exec (.tablePhase p) s = .next (s.softFault p .faultStepReport 0)) ∧
      (∀ work kept, x.phaseWork v g v.step = some (work, kept) → ∃ t y w, exec (.tablePhase p) s = .next t ∧
        t.partition? p = some y ∧ y.context? c = some w ∧ w.seq.phaseStep = some v.step ∧ w.seq.waiting = true ∧
        w.seq.first = false ∧ w.seq.work = (work.workList kept).flatten ∧ w.seq.entries = work.seq.entries ∧
        w.heldSeq = v.heldSeq.filter (fun h => decide (v.step < paramAt h.entry (if h.isAdmit then 2 else 3))) ∧
        y.swapNumber = work.swapNumber ∧ y.run = x.run)) ∧
    (v.seq.waiting = true → (∀ y ∈ v.seq.copies, y.awaited = false) → ∃ t y w, exec (.tablePhaseComplete p) s = .next t ∧
      t.partition? p = some y ∧ y.context? c = some w ∧ w.seq.waiting = false ∧ w.seq.fills = [] ∧
      HoldReason.tablePhase ∉ y.run.holds) ∧
    (∀ z window key u, v.seq.nextCopy = some z → v.seq.window = some window → x.swapKey = some key →
      s.remoteReady p (stackAddress z.stack (g.frameUnit z.frame)) g.frameBytes = true →
      s.hubServe p z.toHost (hubUnits g.copyBytes) = some u →
      let plain := (Sparse.get? x.swapped z.number).getD []
      let copied (y : Machine.Partition) (w : Context) : Prop :=
        y.context? c = some w ∧ w.seq.copies = (v.seq.copies.erase z).map (fun y => { y with since := s.time })
      (z.toHost = true → ∃ t y w data, exec (.swapCopyComplete p true) s = .next t ∧ t.partition? p = some y ∧ copied y w ∧
        Sparse.get? y.swapped z.number = some data) ∧
      (z.toHost = false → ∀ data, s.openFrame p key window g z plain = some data → ∃ t y w,
        exec (.swapCopyComplete p true) s = .next t ∧ t.partition? p = some y ∧ copied y w ∧ Sparse.get? y.swapped z.number = none) ∧
      (z.toHost = false → s.openFrame p key window g z plain = none → ∃ t y w, exec (.swapCopyComplete p true) s = .next t ∧
        t.partition? p = some y ∧ y.context? c = some w ∧ w.pattern = none)) ∧
    exec (.swapCopyComplete p false) s = .next s ∧
    ((∃ y ∈ v.seq.copies, y.since + second < s.time) →
      exec (.swapTimeout p) s = .next (s.softFault p .swapTimeout (Config.faultDetail 0).toNat))

/-- R79, R115, R362–R366, R370: CONTEXT_SWITCH at a round boundary first begins the switch hold; in it, with the domain frozen
and nothing left that a save waits for, the running context completes what it has issued and, where that raised no error, is
saved, and the context that has waited longest runs. R309, R457–R459: CHECKPOINT_MIRROR_COMPLETE, once the rims and the hub
serve it, writes the header and after it the mirrors' data into host memory and completes the command, which unblocks the
context; an access that failed completes it with `ST_HOST_ACCESS`, and so does a drain that has waited more than 1 s. Each of
these commands completes as stated, `exec` answering a next state: `contextSwitch`, `checkpointMirrorComplete`,
`checkpointDrainTimeout`. -/
def Obligations.ContextsSwitchAndCheckpoint : Prop :=
  (∀ (s : State) (p : PartId) (x : Machine.Partition), s.partition? p = some x → x.teardown = false → s.switchDue x = true →
    s.switchBarred p x = false → x.atBoundary = true →
    (HoldReason.switch ∉ x.run.holds → exec (.contextSwitch p) s = .next (s.holdRound p .switch)) ∧
    (HoldReason.switch ∈ x.run.holds → s.frozen p = false ∨ s.maySave p x = false → exec (.contextSwitch p) s = .next s) ∧
    (∀ c v z, HoldReason.switch ∈ x.run.holds → s.frozen p = true → s.maySave p x = true →
      (s.settle p x).partition? p = some z → x.upset z = false → z.incoming = some (c, v) → z.context? c = some v →
      ∃ t y w, exec (.contextSwitch p) s = .next t ∧ t.partition? p = some y ∧ y.running = some c ∧
        y.lastIn = some c ∧ HoldReason.switch ∉ y.run.holds ∧ y.context? c = some w ∧ w.saved = none ∧ w.pattern = v.pattern ∧
        w.step = v.step ∧
        ∀ o a, z.running = some o → o ≠ c → z.context? o = some a → ∃ b saved, y.context? o = some b ∧ b.saved = some saved ∧
          saved.dies = z.dies ∧ saved.tether = z.tether ∧ b.pattern = a.pattern ∧ b.step = a.step)) ∧
  (∀ (s : State) (p : PartId) (x : Machine.Partition) (c : Nat) (v : Context) (k : CheckpointState),
    s.partition? p = some x → x.checkpointing = some (c, v, k) → x.teardown = false →
    let n := paramPair k.entry 2
    let count := x.stackRims.length
    let at_ := k.entry.addr.toNat
    (∀ m, v.step < 2 ^ 64 → s.rimsReady x = true → s.hubServe p true (hubUnits (checkpointBytes count n)) = some m →
      ∃ (u : State) (data : List Byte), exec (.checkpointMirrorComplete p true) s =
        .next (u.endCheckpoint p c k .ok [BitVec.ofNat 32 (count * n), BitVec.ofNat 32 (count * n / 2 ^ 32)]) ∧
      CheckpointHeader.ofBytes (u.hostBytes at_ 4096) =
        ⟨0x47434B31, count, v.step, n, (match v.pattern with | some q => q.hash | none => 0), Config.sha384 data⟩ ∧
      u.hostBytes (at_ + 4096) data.length = data ∧
      ∀ r y, r ≠ p.val → s.partition? r = some y → ∃ served, u.partition? r = some { y with hostServed := served }) ∧
    (s.rimsReady x = true → ∃ u : State, exec (.checkpointMirrorComplete p false) s = .next (u.endCheckpoint p c k .hostAccess []) ∧
      u.hostMem = s.hostMem) ∧
    (s.time ≤ k.since + second → exec (.checkpointDrainTimeout p) s = .next s) ∧
    (k.since + second < s.time → ∃ u : State,
      exec (.checkpointDrainTimeout p) s = .next (u.endCheckpoint p c k .hostAccess []) ∧ u.hostMem = s.hostMem) ∧
    ∀ (u : State) (y : Machine.Partition) (w : Context) (st : Status) (result : List W32), u.partition? p = some y →
      y.context? c = some w → ∃ z b, (u.endCheckpoint p c k st result).partition? p = some z ∧ z.context? c = some b ∧
        b = { w with checkpoint := none, runnableSince := u.time })

/-- R309, R367–R370, R375, R376, R380, R395: EVICTION with no free pair moves the context that has been blocked longest out to
the lowest extent that holds it, once it has completed what it issued and the hub has served the copy, or reports a full window
once; BRING_IN, so served, makes the wanted context resident, with what its extent in host memory opens to, tags that fail lose
its job, and failed host reads leave it out (log entry 126); TEARDOWN_COMPLETE removes the partition, releases its stacks
without their keys, stops its ring and completes the destroying command with the final records. Each of these commands completes
as stated, `exec` answering a next state: `eviction`, `bringIn`, `teardownComplete`. -/
def Obligations.ContextsMoveOutAndIn : Prop :=
  ∀ (s : State) (p : PartId) (x : Machine.Partition), s.partition? p = some x →
    (∀ c v o w, x.teardown = false → x.evicting = none → x.freeSlots = [] → s.wantedOut p x = some (c, v) →
      x.evictable = some (o, w) → x.context? o = some w → o ≠ c →
      (∀ base (m n : State) (z : Machine.Partition) (v' w' : Context), x.findExtent (x.extentBytes w.chunks.length) = some base →
        s.mayLeave p x o w = true → s.rimsReady x = true → (m = if x.running = some o then s.settle p x else s) →
        m.partition? p = some z → x.upset z = false → m.hubServe p true (hubUnits (x.extentBytes w.chunks.length)) = some n →
        z.context? c = some v' → z.context? o = some w' → ∃ t y a b, exec (.eviction p) s = .next t ∧
        t.partition? p = some y ∧ y.evicting = some (w.slot?.getD 0, c) ∧ y.context? c = some a ∧
        a.place = .moving (w.slot?.getD 0) v'.extent? ∧ y.context? o = some b ∧ b.place = .out (some (base, z.evictionNumber)) ∧
        y.evictionNumber = (z.evictionNumber + 1) % 2 ^ 64) ∧
      (x.findExtent (x.extentBytes w.chunks.length) = none → x.windowFullPosted = true → exec (.eviction p) s = .next s) ∧
      (x.findExtent (x.extentBytes w.chunks.length) = none → x.windowFullPosted = false → exec (.eviction p) s =
        .next ((s.setPartition p { x with windowFullPosted := true }).postEvent (p + 1)
          ⟨.ctxWindowFull, 0, [BitVec.ofNat 32 c]⟩))) ∧
    (∀ j c v, x.teardown = false → s.bringing p x = some (j, c, v) →
      let resident (kept : Bool) : Prop := ∃ t y w, exec (.bringIn p true) s = .next t ∧
        t.partition? p = some y ∧ y.context? c = some w ∧ w.place = .resident j ∧ w.outStacks = [] ∧ y.evicting = none ∧
        (kept = true → w.pattern = v.pattern ∧ w.step = v.step ∧ w.saved = v.saved ∧ w.chunks = v.chunks) ∧
        (kept = false → w.pattern = none ∧ w.steps = none ∧ w.saved = none ∧ w.chunks = [])
      (v.extent? = none → resident true) ∧
      (∀ base e u, v.extent? = some (base, e) → s.rimsReady x = true → s.hubServe p false (x.inUnits v) = some u →
        (∀ ms, s.openExtent x base e (x.windowKey.getD 0) v = some ms → resident true) ∧
        (s.openExtent x base e (x.windowKey.getD 0) v = none → resident false)) ∧
      (v.extent? ≠ none → exec (.bringIn p false) s = .next s)) ∧
    (∀ k e a, x.teardown = true → x.destroyer = some (k, e) → k ≠ p.val + 1 →
      (s.ring k).active.find? (fun (a : Active) => a.entry == e && a.progress == Progress.destroy) = some a →
      let records := (counterRecord 0xFFFF x.counters :: x.contexts.map (fun y => counterRecord y.1 y.2.counters)).flatten
      ∃ u : State, u.hostBytes e.addr.toNat records.length = records ∧ exec (.teardownComplete p) s =
        .next (u.finish k a .ok 0 [BitVec.ofNat 32 (1 + x.contexts.length)]).openDebug.relimit) ∧
    (x.teardown = true → ∃ t, exec (.teardownComplete p) s = .next t ∧ t.partition? p = none ∧
      (∀ r, r ≠ p.val → t.partition? r = s.partition? r) ∧ (t.ring (p + 1)).state = .stopped ∧
      (t.ring (p + 1)).picked = [] ∧ (t.ring (p + 1)).active = [] ∧ (t.wire p).sources = [] ∧
      (∀ k ∈ x.stackRims, (t.rim k).key = none ∧ (t.rim k).stack = [] ∧ (t.rim k).cache = []) ∧
      ∀ k, k ∉ x.stackRims → t.rim k = s.rim k)

/-! ### Every step -/

/-- Log entry 2, the model's form of a step: a step takes the command at the front of the queue and runs it on the state with
the rest of the queue; with an empty queue one beat passes. -/
def Obligations.StepRunsTheFrontCommand : Prop :=
  ∀ (s : State),
    (∀ c rest, s.pending = c :: rest → step s = exec c { s with pending := rest }) ∧
    (s.pending = [] → step s = .next s.tick)

/-- R398, R418, R422, R477, R485, R500: the module's standing conditions hold after reset. -/
def Obligations.ResetSatisfiesInv : Prop :=
  State.reset.Inv

/-- R398, R418, R422, R477, R479, R485, R500: every step keeps the module's standing conditions: PWRGD is high exactly under
power-good, cast-on and the link stand only under it, the envelope stays within its limits, a stored one waits only for THROT_N,
accepted features are supported ones, and the active slot is 0 or 1. -/
def Obligations.EveryStepKeepsInv : Prop :=
  ∀ (s t : State), s.Inv → step s = .next t → t.Inv

/-- A command that is none of those of supply, protection, temperature, cast-on, link, negotiation, envelope, firmware, clock
point and the I3C target does not stop, and it leaves the module's own state as it was: its part, supply and pins, envelope,
cast-on, firmware and fuses, link, features, clock point, I3C target and queue. -/
def Obligations.CommandsLeaveTheModuleAlone : Prop :=
  ∀ (s : State) (c : Instr),
    (match c with
     | .negotiate _ | .setEnvelope _ | .fwUpdate _ | .coolantSample _ _ | .converterFault _ | .throtNAssert | .throtNRelease
     | .emergOffN | .emergOffRelease | .powerGood | .inputOutOfRange | .powerLoss | .stackTemperatureSample _ _
     | .dieTemperatureSample _ _ | .converterTemperatureSample _ _ | .castOn | .linkTrained _ _ | .castOnReady _ | .perstNAssert
     | .hotReset | .clockChange | .i3cTargetReady | .entdaa _ | .setdasa _ | .rstdaa | .setnewda _ | .i3cPrivateWrite _
     | .i3cPrivateRead _ => False
     | _ => True) →
    ∃ t, exec c s = .next t ∧ t.view = s.view
end

