-- ==== Sys2Proof/Laws/Frame.lean ====
section
/-! SUPPORT. Frame lemmas of the shared operations: each leaves the module-level view of the state
(Safety.lean: supplies, sequence, link, envelope, clock, features, I3C target) as it was. -/

namespace Sys2Proof.Machine

@[simp] theorem outView_next (t : State) : outView (.next t) = some t.view := rfl

theorem foldl_view {α : Type} (f : State → α → State) (l : List α) (s : State) (h : ∀ t a, (f t a).view = t.view) :
    (l.foldl f s).view = s.view := by
  induction l generalizing s with
  | nil => rfl
  | cons a l ih => rw [List.foldl_cons, ih, h]

theorem foldRange_view (f : State → Nat → State) (n : Nat) (s : State) (h : ∀ t a, (f t a).view = t.view) :
    (foldRange n s f).view = s.view := foldl_view f _ s h

theorem foldl_view2 {α β : Type} (f : β × State → α → β × State) (l : List α) (s : β × State)
    (h : ∀ t a, (f t a).2.view = t.2.view) : (l.foldl f s).2.view = s.2.view := by
  induction l generalizing s with
  | nil => rfl
  | cons a l ih => rw [List.foldl_cons, ih, h]

theorem foldRange_view2 {β : Type} (f : β × State → Nat → β × State) (n : Nat) (s : β × State)
    (h : ∀ t a, (f t a).2.view = t.2.view) : (foldRange n s f).2.view = s.2.view := foldl_view2 f _ s h
@[simp] theorem view_clockPending (s : State) (y0 : Bool) :
    ({ s with clockPending := y0 } : State).view = s.view := rfl

@[simp] theorem view_clockPending_clockFrom (s : State) (y0 : Bool) (y1 : Option Nat) :
    ({ s with clockPending := y0, clockFrom := y1 } : State).view = s.view := rfl

@[simp] theorem view_debugWait_debugOpen (s : State) (y0 : Option (Nat × CmdEntry)) (y1 : Bool) :
    ({ s with debugWait := y0, debugOpen := y1 } : State).view = s.view := rfl

@[simp] theorem view_diag_diagSources_meshValid_heartbeats_spares (s : State) (y0 : Bool) (y1 : List (Status × Nat × Nat)) (y2 : Bool) (y3 : SMap Nat) (y4 : Spares) :
    ({ s with diag := y0, diagSources := y1, meshValid := y2, heartbeats := y3, spares := y4 } : State).view = s.view := rfl

@[simp] theorem view_diag_meshValid_diagSources (s : State) (y0 : Bool) (y1 : Bool) (y2 : List (Status × Nat × Nat)) :
    ({ s with diag := y0, meshValid := y1, diagSources := y2 } : State).view = s.view := rfl

@[simp] theorem view_fresh (s : State) (y0 : Nat) :
    ({ s with fresh := y0 } : State).view = s.view := rfl

@[simp] theorem view_heartbeats (s : State) (y0 : SMap Nat) :
    ({ s with heartbeats := y0 } : State).view = s.view := rfl

@[simp] theorem view_hostMem (s : State) (y0 : Mem) :
    ({ s with hostMem := y0 } : State).view = s.view := rfl

@[simp] theorem view_hubIn (s : State) (y0 : Nat × Nat) :
    ({ s with hubIn := y0 } : State).view = s.view := rfl

@[simp] theorem view_hubOut (s : State) (y0 : Nat × Nat) :
    ({ s with hubOut := y0 } : State).view = s.view := rfl

@[simp] theorem view_hwFault_hwNode_spares (s : State) (y0 : Nat) (y1 : Nat) (y2 : Spares) :
    ({ s with hwFault := y0, hwNode := y1, spares := y2 } : State).view = s.view := rfl

@[simp] theorem view_i3cAck_i3cAnswer (s : State) (y0 : Bool) (y1 : List Byte) :
    ({ s with i3cAck := y0, i3cAnswer := y1 } : State).view = s.view := rfl

@[simp] theorem view_ide (s : State) (y0 : Ide) :
    ({ s with ide := y0 } : State).view = s.view := rfl

@[simp] theorem view_junctions (s : State) (y0 : SMap Int) :
    ({ s with junctions := y0 } : State).view = s.view := rfl

@[simp] theorem view_keyNumber (s : State) (y0 : Nat) :
    ({ s with keyNumber := y0 } : State).view = s.view := rfl

@[simp] theorem view_keyNumber_session (s : State) (y0 : Nat) (y1 : Option Session) :
    ({ s with keyNumber := y0, session := y1 } : State).view = s.view := rfl

@[simp] theorem view_linkFailures (s : State) (y0 : SMap (List Nat)) :
    ({ s with linkFailures := y0 } : State).view = s.view := rfl

@[simp] theorem view_meshW_meshH_row0 (s : State) (y0 : Nat) (y1 : Nat) (y2 : Nat) :
    ({ s with meshW := y0, meshH := y1, row0 := y2 } : State).view = s.view := rfl

@[simp] theorem view_messages (s : State) (y0 : List Nat) :
    ({ s with messages := y0 } : State).view = s.view := rfl

@[simp] theorem view_partitions (s : State) (y0 : SMap Partition) :
    ({ s with partitions := y0 } : State).view = s.view := rfl

@[simp] theorem view_partitions_wires (s : State) (y0 : SMap Partition) (y1 : SMap Wires) :
    ({ s with partitions := y0, wires := y1 } : State).view = s.view := rfl

@[simp] theorem view_pinW_vin_overhead_inputGuard (s : State) (y0 : Nat) (y1 : Nat) (y2 : Nat) (y3 : Bool) :
    ({ s with pinW := y0, vin := y1, overhead := y2, inputGuard := y3 } : State).view = s.view := rfl

@[simp] theorem view_plim_cause_belowSince_aboveSince_alertN (s : State) (y0 : Nat) (y1 : BitVec 5) (y2 : Option Nat) (y3 : Option Nat) (y4 : Drive) :
    ({ s with plim := y0, cause := y1, belowSince := y2, aboveSince := y3, alertN := y4 } : State).view = s.view := rfl

@[simp] theorem view_rims (s : State) (y0 : SMap Rim) :
    ({ s with rims := y0 } : State).view = s.view := rfl

@[simp] theorem view_rings (s : State) (y0 : SMap Ring) :
    ({ s with rings := y0 } : State).view = s.view := rfl

@[simp] theorem view_row0 (s : State) (y0 : Nat) :
    ({ s with row0 := y0 } : State).view = s.view := rfl

@[simp] theorem view_session_ide (s : State) (y0 : Option Session) (y1 : Ide) :
    ({ s with session := y0, ide := y1 } : State).view = s.view := rfl

@[simp] theorem view_session_ide_debugWait (s : State) (y0 : Option Session) (y1 : Ide) (y2 : Option (Nat × CmdEntry)) :
    ({ s with session := y0, ide := y1, debugWait := y2 } : State).view = s.view := rfl

@[simp] theorem view_snapSeq_snap (s : State) (y0 : W32) (y1 : Mem) :
    ({ s with snapSeq := y0, snap := y1 } : State).view = s.view := rfl

@[simp] theorem view_spares (s : State) (y0 : Spares) :
    ({ s with spares := y0 } : State).view = s.view := rfl

@[simp] theorem view_vectors (s : State) (y0 : SMap Vectors) :
    ({ s with vectors := y0 } : State).view = s.view := rfl

@[simp] theorem view_wires (s : State) (y0 : SMap Wires) :
    ({ s with wires := y0 } : State).view = s.view := rfl


@[simp] theorem State.setPartition_view (s : State) (p : Nat) (x : Partition) : (State.setPartition s p x).view = s.view := rfl

@[simp] theorem State.setRim_view (s : State) (k : Nat) (r : Rim) : (State.setRim s k r).view = s.view := rfl

@[simp] theorem State.setRing_view (s : State) (r : Nat) (x : Ring) : (State.setRing s r x).view = s.view := rfl

@[simp] theorem State.setWire_view (s : State) (w : Nat) (x : Wires) : (State.setWire s w x).view = s.view := rfl

@[simp] theorem State.setVector_view (s : State) (v : Nat) (x : Vectors) : (State.setVector s v x).view = s.view := rfl

@[simp] theorem State.freeBytes_view (s : State) (n : Nat) : (State.freeBytes s n).2.view = s.view := rfl

@[simp] theorem State.entropyBytes_view (s : State) (n : Nat) : (State.entropyBytes s n).2.view = s.view := rfl

@[simp] theorem State.raise_view (s : State) (w : Nat) (src : Source) : (State.raise s w src).view = s.view := by
  unfold State.raise
  repeat' first
    | with_reducible rfl
    | refine Eq.trans (foldl_view _ _ _ (fun t a => ?_)) ?_
    | refine Eq.trans (foldRange_view _ _ _ (fun t a => ?_)) ?_
    | refine Eq.trans (foldl_view2 _ _ _ (fun t a => ?_)) ?_
    | refine Eq.trans (foldRange_view2 _ _ _ (fun t a => ?_)) ?_
    | simp
    | simp [apply_ite State.view]

@[simp] theorem State.drop_view (s : State) (w : Nat) (src : Source) : (State.drop s w src).view = s.view := by
  unfold State.drop; split <;> simp

@[simp] theorem State.dropLater_view (s : State) (p : Nat) (src : Source) : (State.dropLater s p src).view = s.view := by
  unfold State.dropLater
  repeat' first
    | with_reducible rfl
    | refine Eq.trans (foldl_view _ _ _ (fun t a => ?_)) ?_
    | refine Eq.trans (foldRange_view _ _ _ (fun t a => ?_)) ?_
    | refine Eq.trans (foldl_view2 _ _ _ (fun t a => ?_)) ?_
    | refine Eq.trans (foldRange_view2 _ _ _ (fun t a => ?_)) ?_
    | simp
    | simp [apply_ite State.view]

@[simp] theorem State.dropBoth_view (s : State) (p : Nat) (src : Source) : (State.dropBoth s p src).view = s.view := by simp [State.dropBoth]

@[simp] theorem State.dropAll_view (s : State) (p : Nat) (x : Partition) : (State.dropAll s p x).view = s.view := by
  unfold State.dropAll
  repeat' first
    | with_reducible rfl
    | refine Eq.trans (foldl_view _ _ _ (fun t a => ?_)) ?_
    | refine Eq.trans (foldRange_view _ _ _ (fun t a => ?_)) ?_
    | refine Eq.trans (foldl_view2 _ _ _ (fun t a => ?_)) ?_
    | refine Eq.trans (foldRange_view2 _ _ _ (fun t a => ?_)) ?_
    | simp

@[simp] theorem State.holdRound_view (s : State) (p : Nat) (r : HoldReason) : (State.holdRound s p r).view = s.view := by
  unfold State.holdRound; split <;> simp

@[simp] theorem State.releaseRound_view (s : State) (p : Nat) (r : HoldReason) : (State.releaseRound s p r).view = s.view := by
  unfold State.releaseRound
  repeat' first
    | with_reducible rfl
    | refine Eq.trans (foldl_view _ _ _ (fun t a => ?_)) ?_
    | refine Eq.trans (foldRange_view _ _ _ (fun t a => ?_)) ?_
    | refine Eq.trans (foldl_view2 _ _ _ (fun t a => ?_)) ?_
    | refine Eq.trans (foldRange_view2 _ _ _ (fun t a => ?_)) ?_
    | simp
    | simp [apply_ite State.view]
    | split

@[simp] theorem State.hostWrite_view (s : State) (a : Nat) (bs : List Byte) : (State.hostWrite s a bs).view = s.view := rfl

@[simp] theorem State.interrupt_view (s : State) (v : Nat) : (State.interrupt s v).view = s.view := by
  unfold State.interrupt
  dsimp only
  split
  · simp
  · split <;> simp

@[simp] theorem State.postEntry_view (s : State) (k : Nat) (opcode tag part ctx : Nat) (st : Status) (detail : Nat) (result : List W32) : (State.postEntry s k opcode tag part ctx st detail result).view = s.view := by simp [State.postEntry]

@[simp] theorem State.drainEvents_view (s : State) (k : Nat) : (State.drainEvents s k).view = s.view := by
  unfold State.drainEvents
  split
  · rfl
  · have h : ∀ (l : List RingEvent) (u : State), (l.foldl (fun a e => a.postEntry k 0 0xFFFF 0 0 e.status e.detail e.result) u).view
        = u.view := fun l u => foldl_view _ _ _ (fun t a => by simp)
    dsimp only
    repeat' split
    all_goals simp [h]

@[simp] theorem State.postEvent_view (s : State) (k : Nat) (e : RingEvent) : (State.postEvent s k e).view = s.view := by
  unfold State.postEvent
  repeat' first
    | with_reducible rfl
    | refine Eq.trans (foldl_view _ _ _ (fun t a => ?_)) ?_
    | refine Eq.trans (foldRange_view _ _ _ (fun t a => ?_)) ?_
    | refine Eq.trans (foldl_view2 _ _ _ (fun t a => ?_)) ?_
    | refine Eq.trans (foldRange_view2 _ _ _ (fun t a => ?_)) ?_
    | simp
    | simp [apply_ite State.view]

@[simp] theorem State.postCompletion_view (s : State) (k : Nat) (u : Unposted) : (State.postCompletion s k u).view = s.view := by
  unfold State.postCompletion; split <;> simp

@[simp] theorem State.complete_view (s : State) (k : Nat) (opcode : Nat) (e : CmdEntry) (st : Status) (detail : Nat) (result : List W32) : (State.complete s k opcode e st detail result).view = s.view := by
  unfold State.complete
  repeat' first
    | with_reducible rfl
    | refine Eq.trans (foldl_view _ _ _ (fun t a => ?_)) ?_
    | refine Eq.trans (foldRange_view _ _ _ (fun t a => ?_)) ?_
    | refine Eq.trans (foldl_view2 _ _ _ (fun t a => ?_)) ?_
    | refine Eq.trans (foldRange_view2 _ _ _ (fun t a => ?_)) ?_
    | simp
    | simp [apply_ite State.view]

@[simp] theorem State.drainUnposted_view (s : State) (k : Nat) : (State.drainUnposted s k).view = s.view := by
  unfold State.drainUnposted; exact foldl_view _ _ _ (fun t a => by simp)

@[simp] theorem State.finish_view (s : State) (k : Nat) (a : Active) (st : Status) (detail : Nat) (result : List W32) : (State.finish s k a st detail result).view = s.view := by simp [State.finish]

@[simp] theorem State.unpick_view (s : State) (k : Nat) (c : Picked) : (State.unpick s k c).view = s.view := rfl

@[simp] theorem State.endWaiting_view (s : State) (st : Status) (by_ : Option (Nat × Nat)) (f : Nat → Nat → CmdEntry → Bool) : (State.endWaiting s st by_ f).view = s.view := by
  unfold State.endWaiting
  repeat' first
    | with_reducible rfl
    | refine Eq.trans (foldl_view _ _ _ (fun t a => ?_)) ?_
    | refine Eq.trans (foldRange_view _ _ _ (fun t a => ?_)) ?_
    | refine Eq.trans (foldl_view2 _ _ _ (fun t a => ?_)) ?_
    | refine Eq.trans (foldRange_view2 _ _ _ (fun t a => ?_)) ?_
    | simp
    | simp [apply_ite State.view]
    | split

@[simp] theorem State.endActive_view (s : State) (st : Status) (f : Nat → Nat → CmdEntry → Bool) : (State.endActive s st f).view = s.view := by
  unfold State.endActive; exact foldl_view _ _ _ (fun t a => by simp)

@[simp] theorem State.endCommands_view (s : State) (p : Nat) (st : Status) (by_ : Option (Nat × Nat)) : (State.endCommands s p st by_).view = s.view := by
  unfold State.endCommands
  repeat' first
    | with_reducible rfl
    | refine Eq.trans (foldl_view _ _ _ (fun t a => ?_)) ?_
    | refine Eq.trans (foldRange_view _ _ _ (fun t a => ?_)) ?_
    | refine Eq.trans (foldl_view2 _ _ _ (fun t a => ?_)) ?_
    | refine Eq.trans (foldRange_view2 _ _ _ (fun t a => ?_)) ?_
    | simp
    | simp [apply_ite State.view]
    | split

@[simp] theorem State.closeCommands_view (s : State) (p c : Nat) (st : Status) (detail : Nat) : (State.closeCommands s p c st detail).view = s.view := by
  unfold State.closeCommands
  repeat' first
    | with_reducible rfl
    | refine Eq.trans (foldl_view _ _ _ (fun t a => ?_)) ?_
    | refine Eq.trans (foldRange_view _ _ _ (fun t a => ?_)) ?_
    | refine Eq.trans (foldl_view2 _ _ _ (fun t a => ?_)) ?_
    | refine Eq.trans (foldRange_view2 _ _ _ (fun t a => ?_)) ?_
    | simp
    | simp [apply_ite State.view]
    | split

@[simp] theorem State.clearRims_view (s : State) (x : Partition) : (State.clearRims s x).view = s.view := by
  unfold State.clearRims; exact foldl_view _ _ _ (fun t a => by simp)

@[simp] theorem State.endJob_view (s : State) (p c : Nat) (how : JobEnd) (st : Status) (detail : Nat) (clear : Bool) : (State.endJob s p c how st detail clear).view = s.view := by
  unfold State.endJob
  repeat' first
    | with_reducible rfl
    | refine Eq.trans (foldl_view _ _ _ (fun t a => ?_)) ?_
    | refine Eq.trans (foldRange_view _ _ _ (fun t a => ?_)) ?_
    | refine Eq.trans (foldl_view2 _ _ _ (fun t a => ?_)) ?_
    | refine Eq.trans (foldRange_view2 _ _ _ (fun t a => ?_)) ?_
    | simp
    | simp [apply_ite State.view]
    | split

@[simp] theorem State.softFault_view (s : State) (p : Nat) (st : Status) (detail : Nat) : (State.softFault s p st detail).view = s.view := by
  unfold State.softFault; repeat' split
  all_goals first | rfl | simp

@[simp] theorem State.hardFault_view (s : State) (st : Status) (node other : Nat) : (State.hardFault s st node other).view = s.view := by
  unfold State.hardFault
  repeat' first
    | with_reducible rfl
    | refine Eq.trans (foldl_view _ _ _ (fun t a => ?_)) ?_
    | refine Eq.trans (foldRange_view _ _ _ (fun t a => ?_)) ?_
    | refine Eq.trans (foldl_view2 _ _ _ (fun t a => ?_)) ?_
    | refine Eq.trans (foldRange_view2 _ _ _ (fun t a => ?_)) ?_
    | simp
    | simp [apply_ite State.view]
    | split

@[simp] theorem State.detectedError_view (s : State) (p d : Nat) (where_ : Option (Nat × Nat)) (src : Source) : (State.detectedError s p d where_ src).view = s.view := by
  unfold State.detectedError
  repeat' first
    | with_reducible rfl
    | refine Eq.trans (foldl_view _ _ _ (fun t a => ?_)) ?_
    | refine Eq.trans (foldRange_view _ _ _ (fun t a => ?_)) ?_
    | refine Eq.trans (foldl_view2 _ _ _ (fun t a => ?_)) ?_
    | refine Eq.trans (foldRange_view2 _ _ _ (fun t a => ?_)) ?_
    | simp
    | simp [apply_ite State.view]
    | split

@[simp] theorem State.relimit_view (s : State) : (State.relimit s).view = s.view := rfl

@[simp] theorem State.putDie_view (s : State) (x : Site) (d : Die) : (State.putDie s x d).view = s.view := rfl

@[simp] theorem State.apply_view (s : State) (x : Site) (move : Die → Die) (z0 : Effect): (State.apply s x move z0).view = s.view := by
  unfold State.apply; split <;> simp

@[simp] theorem runM_view (s : State) (p d t : Nat) (w : BitVec 128) (accept : MOp → Bool) (f : Site → MTile → MOp → Effect) : (runM s p d t w accept f).view = s.view := by
  unfold runM
  repeat' first
    | with_reducible rfl
    | refine Eq.trans (foldl_view _ _ _ (fun t a => ?_)) ?_
    | refine Eq.trans (foldRange_view _ _ _ (fun t a => ?_)) ?_
    | refine Eq.trans (foldl_view2 _ _ _ (fun t a => ?_)) ?_
    | refine Eq.trans (foldRange_view2 _ _ _ (fun t a => ?_)) ?_
    | simp
    | simp [apply_ite State.view]
    | split

@[simp] theorem runV_view (s : State) (p d v : Nat) (w : W64) (accept : VOp → Bool) (f : Site → VTile → VOp → Effect) : (runV s p d v w accept f).view = s.view := by
  unfold runV
  repeat' first
    | with_reducible rfl
    | refine Eq.trans (foldl_view _ _ _ (fun t a => ?_)) ?_
    | refine Eq.trans (foldRange_view _ _ _ (fun t a => ?_)) ?_
    | refine Eq.trans (foldl_view2 _ _ _ (fun t a => ?_)) ?_
    | refine Eq.trans (foldRange_view2 _ _ _ (fun t a => ?_)) ?_
    | simp
    | simp [apply_ite State.view]
    | split

@[simp] theorem runC_view (s : State) (p d c : Nat) (w : W32) (accept : CFields → Bool) (f : Site → Core → CFields → Effect) : (runC s p d c w accept f).view = s.view := by
  unfold runC
  repeat' first
    | with_reducible rfl
    | refine Eq.trans (foldl_view _ _ _ (fun t a => ?_)) ?_
    | refine Eq.trans (foldRange_view _ _ _ (fun t a => ?_)) ?_
    | refine Eq.trans (foldl_view2 _ _ _ (fun t a => ?_)) ?_
    | refine Eq.trans (foldRange_view2 _ _ _ (fun t a => ?_)) ?_
    | simp
    | simp [apply_ite State.view]
    | split

@[simp] theorem State.startEntry_view (s : State) (x : Site) (t bank : Nat) : (State.startEntry s x t bank).view = s.view := by
  unfold State.startEntry
  repeat' first
    | with_reducible rfl
    | refine Eq.trans (foldl_view _ _ _ (fun t a => ?_)) ?_
    | refine Eq.trans (foldRange_view _ _ _ (fun t a => ?_)) ?_
    | refine Eq.trans (foldl_view2 _ _ _ (fun t a => ?_)) ?_
    | refine Eq.trans (foldRange_view2 _ _ _ (fun t a => ?_)) ?_
    | simp
    | simp [apply_ite State.view]
    | split

@[simp] theorem State.releaseSyncs_view (s : State) (p d : Nat) : (State.releaseSyncs s p d).view = s.view := by
  unfold State.releaseSyncs
  repeat' first
    | with_reducible rfl
    | refine Eq.trans (foldl_view _ _ _ (fun t a => ?_)) ?_
    | refine Eq.trans (foldRange_view _ _ _ (fun t a => ?_)) ?_
    | refine Eq.trans (foldl_view2 _ _ _ (fun t a => ?_)) ?_
    | refine Eq.trans (foldRange_view2 _ _ _ (fun t a => ?_)) ?_
    | simp
    | simp [apply_ite State.view]
    | split

@[simp] theorem State.endCalibration_view (s : State) (k : Nat) : (State.endCalibration s k).view = s.view := by
  unfold State.endCalibration
  repeat' first
    | with_reducible rfl
    | refine Eq.trans (foldl_view _ _ _ (fun t a => ?_)) ?_
    | refine Eq.trans (foldRange_view _ _ _ (fun t a => ?_)) ?_
    | refine Eq.trans (foldl_view2 _ _ _ (fun t a => ?_)) ?_
    | refine Eq.trans (foldRange_view2 _ _ _ (fun t a => ?_)) ?_
    | simp
    | simp [apply_ite State.view]
    | split

@[simp] theorem State.endForced_view (s : State) : (State.endForced s).view = s.view := by
  unfold State.endForced
  repeat' first
    | with_reducible rfl
    | refine Eq.trans (foldl_view _ _ _ (fun t a => ?_)) ?_
    | refine Eq.trans (foldRange_view _ _ _ (fun t a => ?_)) ?_
    | refine Eq.trans (foldl_view2 _ _ _ (fun t a => ?_)) ?_
    | refine Eq.trans (foldRange_view2 _ _ _ (fun t a => ?_)) ?_
    | simp
    | simp [apply_ite State.view]
    | split

@[simp] theorem State.spanUnit_view (s : State) (p c i u : Nat) : (State.spanUnit s p c i u).2.view = s.view := by
  unfold State.spanUnit; repeat' split
  all_goals first | rfl | simp

@[simp] theorem State.writeSpanUnit_view (s : State) (p c i u : Nat) (bs : List Byte) : (State.writeSpanUnit s p c i u bs).view = s.view := by
  unfold State.writeSpanUnit; repeat' split
  all_goals first | rfl | simp

@[simp] theorem State.spanBytes_view (s : State) (p c a n : Nat) : (State.spanBytes s p c a n).2.view = s.view := by
  unfold State.spanBytes
  repeat' first
    | with_reducible rfl
    | refine Eq.trans (foldl_view _ _ _ (fun t a => ?_)) ?_
    | refine Eq.trans (foldRange_view _ _ _ (fun t a => ?_)) ?_
    | refine Eq.trans (foldl_view2 _ _ _ (fun t a => ?_)) ?_
    | refine Eq.trans (foldRange_view2 _ _ _ (fun t a => ?_)) ?_
    | simp

@[simp] theorem State.writeSpanBytes_view (s : State) (p c a : Nat) (bs : List Byte) : (State.writeSpanBytes s p c a bs).view = s.view := by
  unfold State.writeSpanBytes
  repeat' first
    | with_reducible rfl
    | refine Eq.trans (foldl_view _ _ _ (fun t a => ?_)) ?_
    | refine Eq.trans (foldRange_view _ _ _ (fun t a => ?_)) ?_
    | refine Eq.trans (foldl_view2 _ _ _ (fun t a => ?_)) ?_
    | refine Eq.trans (foldRange_view2 _ _ _ (fun t a => ?_)) ?_
    | simp
    | simp [apply_ite State.view]

theorem State.reserveEntry_view (s : State) (p c : Nat) (newStep : Bool) (u : State) (h : (State.reserveEntry s p c newStep) = some u) : u.view = s.view := by
  unfold State.reserveEntry at h
  dsimp only at h
  repeat' split at h
  all_goals first
    | (cases h; done)
    | (injection h with h; subst h; simp)

@[simp] theorem State.holdFor_view (s : State) (p : Nat) (rs : List HoldReason) : (State.holdFor s p rs).view = s.view := by
  unfold State.holdFor; exact foldl_view _ _ _ (fun t a => by simp)

@[simp] theorem State.admitRound_view (s : State) (p need : Nat) : (State.admitRound s p need).view = s.view := by
  unfold State.admitRound; split <;> simp

@[simp] theorem State.beginLayer_view (s : State) (x : Partition) (q : Pattern) (l : Nat) : (State.beginLayer s x q l).view = s.view := by
  unfold State.beginLayer; exact foldl_view _ _ _ (fun t a => by simp)

@[simp] theorem State.postStep_view (s : State) (q : StepCommand) (words : List W32) (last : Bool) : (State.postStep s q words last).view = s.view := by
  unfold State.postStep; repeat' split
  all_goals first | rfl | simp

@[simp] theorem State.dropWhere_view (s : State) (p : Nat) (f : Source → Bool) : (State.dropWhere s p f).view = s.view := by
  unfold State.dropWhere
  repeat' first
    | with_reducible rfl
    | refine Eq.trans (foldl_view _ _ _ (fun t a => ?_)) ?_
    | refine Eq.trans (foldRange_view _ _ _ (fun t a => ?_)) ?_
    | refine Eq.trans (foldl_view2 _ _ _ (fun t a => ?_)) ?_
    | refine Eq.trans (foldRange_view2 _ _ _ (fun t a => ?_)) ?_
    | simp

@[simp] theorem State.restoreRegions_view (s : State) (p c d : Nat) (q : Pattern) : (State.restoreRegions s p c d q).view = s.view := by
  unfold State.restoreRegions
  repeat' first
    | with_reducible rfl
    | refine Eq.trans (foldl_view _ _ _ (fun t a => ?_)) ?_
    | refine Eq.trans (foldRange_view _ _ _ (fun t a => ?_)) ?_
    | refine Eq.trans (foldl_view2 _ _ _ (fun t a => ?_)) ?_
    | refine Eq.trans (foldRange_view2 _ _ _ (fun t a => ?_)) ?_
    | simp
    | simp [apply_ite State.view]
    | split

@[simp] theorem State.takePush_view (s : State) (x : Site) (queue : Nat) (e : Push) : (State.takePush s x queue e).view = s.view := by
  unfold State.takePush
  repeat' first
    | with_reducible rfl
    | refine Eq.trans (foldl_view _ _ _ (fun t a => ?_)) ?_
    | refine Eq.trans (foldRange_view _ _ _ (fun t a => ?_)) ?_
    | refine Eq.trans (foldl_view2 _ _ _ (fun t a => ?_)) ?_
    | refine Eq.trans (foldRange_view2 _ _ _ (fun t a => ?_)) ?_
    | simp
    | simp [apply_ite State.view]
    | split

@[simp] theorem State.responseDue_view (s : State) (p : Nat) : (State.responseDue s p).view = s.view := by
  unfold State.responseDue
  repeat' first
    | with_reducible rfl
    | refine Eq.trans (foldl_view _ _ _ (fun t a => ?_)) ?_
    | refine Eq.trans (foldRange_view _ _ _ (fun t a => ?_)) ?_
    | refine Eq.trans (foldl_view2 _ _ _ (fun t a => ?_)) ?_
    | refine Eq.trans (foldRange_view2 _ _ _ (fun t a => ?_)) ?_
    | simp
    | simp [apply_ite State.view]
    | split

theorem State.deliverPacket_view (s : State) (p : Nat) (x : Partition) (dest : Nat) (k : Packet) (u : State) (h : (State.deliverPacket s p x dest k) = some u) : u.view = s.view := by
  unfold State.deliverPacket at h
  dsimp only at h
  repeat' split at h
  all_goals first
    | (cases h; done)
    | (injection h with h; subst h; simp)

@[simp] theorem State.rimOperation_view (s : State) (k u op : Nat) (w : Int) (operand : List Byte) (mask : Nat) : (State.rimOperation s k u op w operand mask).view = s.view := by
  unfold State.rimOperation; repeat' split
  all_goals first | rfl | simp

@[simp] theorem State.uncorrectable_view (s : State) (k u : Nat) (fill : Bool) : (State.uncorrectable s k u fill).view = s.view := by
  unfold State.uncorrectable
  repeat' first
    | with_reducible rfl
    | refine Eq.trans (foldl_view _ _ _ (fun t a => ?_)) ?_
    | refine Eq.trans (foldRange_view _ _ _ (fun t a => ?_)) ?_
    | refine Eq.trans (foldl_view2 _ _ _ (fun t a => ?_)) ?_
    | refine Eq.trans (foldRange_view2 _ _ _ (fun t a => ?_)) ?_
    | simp
    | simp [apply_ite State.view]
    | split

@[simp] theorem State.readCompletes_view (s : State) (k : Nat) (t : Transaction) (symbols : Nat) : (State.readCompletes s k t symbols).view = s.view := by
  unfold State.readCompletes
  repeat' first
    | with_reducible rfl
    | refine Eq.trans (foldl_view _ _ _ (fun t a => ?_)) ?_
    | refine Eq.trans (foldRange_view _ _ _ (fun t a => ?_)) ?_
    | refine Eq.trans (foldl_view2 _ _ _ (fun t a => ?_)) ?_
    | refine Eq.trans (foldRange_view2 _ _ _ (fun t a => ?_)) ?_
    | simp
    | simp [apply_ite State.view]
    | split

@[simp] theorem State.putEngine_view (s : State) (y : EngSite) : (State.putEngine s y).view = s.view := rfl

@[simp] theorem State.engineFault_view (s : State) (y : EngSite) (st : Status) : (State.engineFault s y st).view = s.view := by simp [State.engineFault]

@[simp] theorem State.retryReads_view (s : State) (k n : Nat) : (State.retryReads s k n).view = s.view := by
  unfold State.retryReads
  repeat' first
    | with_reducible rfl
    | refine Eq.trans (foldl_view _ _ _ (fun t a => ?_)) ?_
    | refine Eq.trans (foldRange_view _ _ _ (fun t a => ?_)) ?_
    | refine Eq.trans (foldl_view2 _ _ _ (fun t a => ?_)) ?_
    | refine Eq.trans (foldRange_view2 _ _ _ (fun t a => ?_)) ?_
    | simp
    | simp [apply_ite State.view]
    | split

@[simp] theorem State.fetchAhead_view (s : State) (y : EngSite) (a : Nat) : (State.fetchAhead s y a).view = s.view := by
  unfold State.fetchAhead
  repeat' first
    | with_reducible rfl
    | refine Eq.trans (foldl_view _ _ _ (fun t a => ?_)) ?_
    | refine Eq.trans (foldRange_view _ _ _ (fun t a => ?_)) ?_
    | refine Eq.trans (foldl_view2 _ _ _ (fun t a => ?_)) ?_
    | refine Eq.trans (foldRange_view2 _ _ _ (fun t a => ?_)) ?_
    | simp
    | simp [apply_ite State.view]
    | split

@[simp] theorem State.fetchFlit_view (s : State) (k n kind : Nat) : (State.fetchFlit s k n kind).view = s.view := by
  unfold State.fetchFlit
  repeat' first
    | with_reducible rfl
    | refine Eq.trans (foldl_view _ _ _ (fun t a => ?_)) ?_
    | refine Eq.trans (foldRange_view _ _ _ (fun t a => ?_)) ?_
    | refine Eq.trans (foldl_view2 _ _ _ (fun t a => ?_)) ?_
    | refine Eq.trans (foldRange_view2 _ _ _ (fun t a => ?_)) ?_
    | simp
    | simp [apply_ite State.view]
    | split

@[simp] theorem State.useFlit_view (s : State) (k n : Nat) (kinds : List Nat) : (State.useFlit s k n kinds).view = s.view := by
  unfold State.useFlit
  repeat' first
    | with_reducible rfl
    | refine Eq.trans (foldl_view _ _ _ (fun t a => ?_)) ?_
    | refine Eq.trans (foldRange_view _ _ _ (fun t a => ?_)) ?_
    | refine Eq.trans (foldl_view2 _ _ _ (fun t a => ?_)) ?_
    | refine Eq.trans (foldRange_view2 _ _ _ (fun t a => ?_)) ?_
    | simp
    | simp [apply_ite State.view]
    | split

@[simp] theorem State.settleLate_view (s : State) (y : EngSite) : (State.settleLate s y).view = s.view := by
  unfold State.settleLate
  repeat' first
    | with_reducible rfl
    | refine Eq.trans (foldl_view _ _ _ (fun t a => ?_)) ?_
    | refine Eq.trans (foldRange_view _ _ _ (fun t a => ?_)) ?_
    | refine Eq.trans (foldl_view2 _ _ _ (fun t a => ?_)) ?_
    | refine Eq.trans (foldRange_view2 _ _ _ (fun t a => ?_)) ?_
    | simp
    | simp [apply_ite State.view]
    | split

@[simp] theorem State.takeHank_view (s : State) (k n : Nat) : (State.takeHank s k n).view = s.view := by
  unfold State.takeHank
  repeat' first
    | with_reducible rfl
    | refine Eq.trans (foldl_view _ _ _ (fun t a => ?_)) ?_
    | refine Eq.trans (foldRange_view _ _ _ (fun t a => ?_)) ?_
    | refine Eq.trans (foldl_view2 _ _ _ (fun t a => ?_)) ?_
    | refine Eq.trans (foldRange_view2 _ _ _ (fun t a => ?_)) ?_
    | simp
    | simp [apply_ite State.view]
    | split

@[simp] theorem State.commitStep_view (s : State) (k n : Nat) : (State.commitStep s k n).view = s.view := by
  unfold State.commitStep; dsimp only
  repeat' split
  all_goals simp

@[simp] theorem State.commitEngine_view (s : State) (k n : Nat) : (State.commitEngine s k n).view = s.view := by
  unfold State.commitEngine
  repeat' first
    | with_reducible rfl
    | refine Eq.trans (foldl_view _ _ _ (fun t a => ?_)) ?_
    | refine Eq.trans (foldRange_view _ _ _ (fun t a => ?_)) ?_
    | refine Eq.trans (foldl_view2 _ _ _ (fun t a => ?_)) ?_
    | refine Eq.trans (foldRange_view2 _ _ _ (fun t a => ?_)) ?_
    | simp
    | simp [apply_ite State.view]

@[simp] theorem State.commitRims_view (s : State) (x : Partition) : (State.commitRims s x).view = s.view := by
  unfold State.commitRims
  repeat' first
    | with_reducible rfl
    | refine Eq.trans (foldl_view _ _ _ (fun t a => ?_)) ?_
    | refine Eq.trans (foldRange_view _ _ _ (fun t a => ?_)) ?_
    | refine Eq.trans (foldl_view2 _ _ _ (fun t a => ?_)) ?_
    | refine Eq.trans (foldRange_view2 _ _ _ (fun t a => ?_)) ?_
    | simp
    | simp [apply_ite State.view]

@[simp] theorem State.restartRims_view (s : State) (x : Partition) : (State.restartRims s x).view = s.view := by
  unfold State.restartRims
  repeat' first
    | with_reducible rfl
    | refine Eq.trans (foldl_view _ _ _ (fun t a => ?_)) ?_
    | refine Eq.trans (foldRange_view _ _ _ (fun t a => ?_)) ?_
    | refine Eq.trans (foldl_view2 _ _ _ (fun t a => ?_)) ?_
    | refine Eq.trans (foldRange_view2 _ _ _ (fun t a => ?_)) ?_
    | simp
    | simp [apply_ite State.view]
    | split

theorem State.hubServe_view (s : State) (p : Nat) (out : Bool) (units : Nat) (u : State) (h : (State.hubServe s p out units) = some u) : u.view = s.view := by
  unfold State.hubServe at h
  dsimp only at h
  repeat' split at h
  all_goals first
    | (cases h; done)
    | (injection h with h; subst h; first
        | rfl
        | (rw [State.setPartition_view, foldl_view _ _ _ (fun t a => by
            repeat' split
            all_goals simp)]
           try split
           all_goals rfl))

@[simp] theorem State.remesh_view (s : State) : (State.remesh s).view = s.view := by
  unfold State.remesh; split <;> simp

@[simp] theorem State.retire_view (s : State) (n : Nat) : (State.retire s n).view = s.view := rfl

@[simp] theorem State.loseRim_view (s : State) (k : Nat) : (State.loseRim s k).view = s.view := rfl

@[simp] theorem State.failDie_view (s : State) (n : Nat) : (State.failDie s n).view = s.view := by
  unfold State.failDie; repeat' split
  all_goals first | rfl | simp

@[simp] theorem State.beginTeardown_view (s : State) (p : Nat) : (State.beginTeardown s p).view = s.view := by
  unfold State.beginTeardown; split <;> simp

@[simp] theorem State.killJobs_view (s : State) (p : Nat) (x : Partition) (st : Status) : (State.killJobs s p x st).view = s.view := by
  unfold State.killJobs
  repeat' first
    | with_reducible rfl
    | refine Eq.trans (foldl_view _ _ _ (fun t a => ?_)) ?_
    | refine Eq.trans (foldRange_view _ _ _ (fun t a => ?_)) ?_
    | refine Eq.trans (foldl_view2 _ _ _ (fun t a => ?_)) ?_
    | refine Eq.trans (foldRange_view2 _ _ _ (fun t a => ?_)) ?_
    | simp
    | simp [apply_ite State.view]
    | split

@[simp] theorem State.holdLeases_view (s : State) (p : Nat) (x : Partition) : (State.holdLeases s p x).view = s.view := by
  unfold State.holdLeases
  repeat' first
    | with_reducible rfl
    | refine Eq.trans (foldl_view _ _ _ (fun t a => ?_)) ?_
    | refine Eq.trans (foldRange_view _ _ _ (fun t a => ?_)) ?_
    | refine Eq.trans (foldl_view2 _ _ _ (fun t a => ?_)) ?_
    | refine Eq.trans (foldRange_view2 _ _ _ (fun t a => ?_)) ?_
    | simp
    | simp [apply_ite State.view]
    | split

@[simp] theorem State.stopPartition_view (s : State) (p : Nat) (x : Partition) (st : Status) (by_ : Option (Nat × Nat)) : (State.stopPartition s p x st by_).view = s.view := by
  unfold State.stopPartition
  repeat' first
    | with_reducible rfl
    | refine Eq.trans (foldl_view _ _ _ (fun t a => ?_)) ?_
    | refine Eq.trans (foldRange_view _ _ _ (fun t a => ?_)) ?_
    | refine Eq.trans (foldl_view2 _ _ _ (fun t a => ?_)) ?_
    | refine Eq.trans (foldRange_view2 _ _ _ (fun t a => ?_)) ?_
    | simp
    | simp [apply_ite State.view]
    | split

@[simp] theorem State.noteRepeat_view (s : State) (n : Nat) : (State.noteRepeat s n).view = s.view := by
  unfold State.noteRepeat
  repeat' first
    | with_reducible rfl
    | refine Eq.trans (foldl_view _ _ _ (fun t a => ?_)) ?_
    | refine Eq.trans (foldRange_view _ _ _ (fun t a => ?_)) ?_
    | refine Eq.trans (foldl_view2 _ _ _ (fun t a => ?_)) ?_
    | refine Eq.trans (foldRange_view2 _ _ _ (fun t a => ?_)) ?_
    | simp
    | simp [apply_ite State.view]

@[simp] theorem State.loseLink_view (s : State) (a b : Nat) : (State.loseLink s a b).view = s.view := by
  unfold State.loseLink
  repeat' first
    | with_reducible rfl
    | refine Eq.trans (foldl_view _ _ _ (fun t a => ?_)) ?_
    | refine Eq.trans (foldRange_view _ _ _ (fun t a => ?_)) ?_
    | refine Eq.trans (foldl_view2 _ _ _ (fun t a => ?_)) ?_
    | refine Eq.trans (foldRange_view2 _ _ _ (fun t a => ?_)) ?_
    | simp
    | simp [apply_ite State.view]

@[simp] theorem State.diagnose_view (s : State) (failed : List Nat) : (State.diagnose s failed).view = s.view := by
  unfold State.diagnose
  repeat' first
    | with_reducible rfl
    | refine Eq.trans (foldl_view _ _ _ (fun t a => ?_)) ?_
    | refine Eq.trans (foldRange_view _ _ _ (fun t a => ?_)) ?_
    | refine Eq.trans (foldl_view2 _ _ _ (fun t a => ?_)) ?_
    | refine Eq.trans (foldRange_view2 _ _ _ (fun t a => ?_)) ?_
    | simp
    | simp [apply_ite State.view]
    | split

@[simp] theorem State.rehot_view (s : State) (p : Nat) (hot : Bool) : (State.rehot s p hot).view = s.view := by
  unfold State.rehot; split <;> simp

@[simp] theorem State.showCons_view (s : State) (k : Nat) : (State.showCons s k).view = s.view := rfl

@[simp] theorem State.pickOne_view (s : State) (k : Nat) : (State.pickOne s k).view = s.view := by
  unfold State.pickOne
  repeat' first
    | with_reducible rfl
    | refine Eq.trans (foldl_view _ _ _ (fun t a => ?_)) ?_
    | refine Eq.trans (foldRange_view _ _ _ (fun t a => ?_)) ?_
    | refine Eq.trans (foldl_view2 _ _ _ (fun t a => ?_)) ?_
    | refine Eq.trans (foldRange_view2 _ _ _ (fun t a => ?_)) ?_
    | simp
    | simp [apply_ite State.view]
    | split

@[simp] theorem State.pickTurn_view (s : State) : (State.pickTurn s).view = s.view := by
  unfold State.pickTurn
  repeat' first
    | with_reducible rfl
    | refine Eq.trans (foldl_view _ _ _ (fun t a => ?_)) ?_
    | refine Eq.trans (foldRange_view _ _ _ (fun t a => ?_)) ?_
    | refine Eq.trans (foldl_view2 _ _ _ (fun t a => ?_)) ?_
    | refine Eq.trans (foldRange_view2 _ _ _ (fun t a => ?_)) ?_
    | simp
    | simp [apply_ite State.view]
    | split

@[simp] theorem State.pickUp_view (s : State) (z0 : Nat): (State.pickUp s z0).view = s.view := by
  induction z0 generalizing s with
  | zero => rfl
  | succ n ih => rw [State.pickUp, ih]; simp

@[simp] theorem State.readWatched_view (s : State) (k : Nat) : (State.readWatched s k).view = s.view := by
  unfold State.readWatched
  repeat' first
    | with_reducible rfl
    | refine Eq.trans (foldl_view _ _ _ (fun t a => ?_)) ?_
    | refine Eq.trans (foldRange_view _ _ _ (fun t a => ?_)) ?_
    | refine Eq.trans (foldl_view2 _ _ _ (fun t a => ?_)) ?_
    | refine Eq.trans (foldRange_view2 _ _ _ (fun t a => ?_)) ?_
    | simp
    | simp [apply_ite State.view]

@[simp] theorem State.startRing_view (s : State) (k ctrl cmd cpl size : Nat) : (State.startRing s k ctrl cmd cpl size).view = s.view := rfl

@[simp] theorem State.enableAdmin_view (s : State) : (State.enableAdmin s).view = s.view := by
  unfold State.enableAdmin
  repeat' first
    | with_reducible rfl
    | refine Eq.trans (foldl_view _ _ _ (fun t a => ?_)) ?_
    | refine Eq.trans (foldRange_view _ _ _ (fun t a => ?_)) ?_
    | refine Eq.trans (foldl_view2 _ _ _ (fun t a => ?_)) ?_
    | refine Eq.trans (foldRange_view2 _ _ _ (fun t a => ?_)) ?_
    | simp
    | simp [apply_ite State.view]

@[simp] theorem State.unmask_view (s : State) (v : Nat) (masked : Bool) : (State.unmask s v masked).view = s.view := by
  unfold State.unmask
  repeat' first
    | with_reducible rfl
    | refine Eq.trans (foldl_view _ _ _ (fun t a => ?_)) ?_
    | refine Eq.trans (foldRange_view _ _ _ (fun t a => ?_)) ?_
    | refine Eq.trans (foldl_view2 _ _ _ (fun t a => ?_)) ?_
    | refine Eq.trans (foldRange_view2 _ _ _ (fun t a => ?_)) ?_
    | simp
    | simp [apply_ite State.view]

@[simp] theorem State.writeDword_view (s : State) (o x : Nat) : (State.writeDword s o x).view = s.view := by
  unfold State.writeDword; repeat' split
  all_goals first | rfl | simp

@[simp] theorem State.i3cNack_view (s : State) : (State.i3cNack s).view = s.view := rfl

@[simp] theorem State.i3cReturn_view (s : State) (bs : List Byte) : (State.i3cReturn s bs).view = s.view := rfl

@[simp] theorem State.writeList_view (s : State) (p c : Nat) (g : SeqConfig) (nStacks slot : Nat) (home : Nat) (was now : List Nat) : (State.writeList s p c g nStacks slot home was now).view = s.view := by
  unfold State.writeList
  repeat' first
    | with_reducible rfl
    | refine Eq.trans (foldl_view _ _ _ (fun t a => ?_)) ?_
    | refine Eq.trans (foldRange_view _ _ _ (fun t a => ?_)) ?_
    | refine Eq.trans (foldl_view2 _ _ _ (fun t a => ?_)) ?_
    | refine Eq.trans (foldRange_view2 _ _ _ (fun t a => ?_)) ?_
    | simp
    | simp [apply_ite State.view]

@[simp] theorem State.writeLists_view (s : State) (p c : Nat) (g : SeqConfig) (nStacks : Nat) (old new : SMap SeqRec) : (State.writeLists s p c g nStacks old new).view = s.view := by
  unfold State.writeLists; exact foldl_view _ _ _ (fun t a => by simp)

@[simp] theorem State.postSeq_view (s : State) (p : Nat) (z0 : SeqPost): (State.postSeq s p z0).view = s.view := by
  unfold State.postSeq; repeat' split
  all_goals first | rfl | simp

@[simp] theorem State.applyPhase_view (s : State) (p c : Nat) (x : Partition) (v : Context) (q : Pattern) (t : TableWork) (kept : List (List Nat)) : (State.applyPhase s p c x v q t kept).view = s.view := by
  unfold State.applyPhase
  repeat' first
    | with_reducible rfl
    | refine Eq.trans (foldl_view _ _ _ (fun t a => ?_)) ?_
    | refine Eq.trans (foldRange_view _ _ _ (fun t a => ?_)) ?_
    | refine Eq.trans (foldl_view2 _ _ _ (fun t a => ?_)) ?_
    | refine Eq.trans (foldRange_view2 _ _ _ (fun t a => ?_)) ?_
    | simp
    | simp [apply_ite State.view]

@[simp] theorem State.sealFrame_view (s : State) (p : Nat) (key : Nat) (window : Nat × Nat) (g : SeqConfig) (y : SwapCopy) (data : List Byte) : (State.sealFrame s p key window g y data).view = s.view := by
  unfold State.sealFrame; exact foldl_view _ _ _ (fun t a => by simp)

@[simp] theorem State.copyOut_view (s : State) (p c : Nat) (g : SeqConfig) (w : Nat × Nat) (key : Nat) (y : SwapCopy) : (State.copyOut s p c g w key y).view = s.view := by
  unfold State.copyOut
  repeat' first
    | with_reducible rfl
    | refine Eq.trans (foldl_view _ _ _ (fun t a => ?_)) ?_
    | refine Eq.trans (foldRange_view _ _ _ (fun t a => ?_)) ?_
    | refine Eq.trans (foldl_view2 _ _ _ (fun t a => ?_)) ?_
    | refine Eq.trans (foldRange_view2 _ _ _ (fun t a => ?_)) ?_
    | simp
    | simp [apply_ite State.view]
    | split

@[simp] theorem State.copyBack_view (s : State) (p c : Nat) (g : SeqConfig) (w : Nat × Nat) (key : Nat) (y : SwapCopy) : (State.copyBack s p c g w key y).view = s.view := by
  unfold State.copyBack
  repeat' first
    | with_reducible rfl
    | refine Eq.trans (foldl_view _ _ _ (fun t a => ?_)) ?_
    | refine Eq.trans (foldRange_view _ _ _ (fun t a => ?_)) ?_
    | refine Eq.trans (foldl_view2 _ _ _ (fun t a => ?_)) ?_
    | refine Eq.trans (foldRange_view2 _ _ _ (fun t a => ?_)) ?_
    | simp
    | simp [apply_ite State.view]
    | split

@[simp] theorem State.clearLists_view (s : State) (p c : Nat) (g : SeqConfig) (nStacks : Nat) : (State.clearLists s p c g nStacks).view = s.view := by
  unfold State.clearLists; exact foldl_view _ _ _ (fun t a => by simp)

@[simp] theorem State.settlePush_view (s : State) (p d q : Nat) : (State.settlePush s p d q).view = s.view := by
  unfold State.settlePush
  repeat' first
    | with_reducible rfl
    | refine Eq.trans (foldl_view _ _ _ (fun t a => ?_)) ?_
    | refine Eq.trans (foldRange_view _ _ _ (fun t a => ?_)) ?_
    | refine Eq.trans (foldl_view2 _ _ _ (fun t a => ?_)) ?_
    | refine Eq.trans (foldRange_view2 _ _ _ (fun t a => ?_)) ?_
    | simp
    | simp [apply_ite State.view]
    | split

@[simp] theorem State.settlePushes_view (s : State) (p d q : Nat) : (State.settlePushes s p d q).view = s.view := by
  unfold State.settlePushes
  repeat' first
    | with_reducible rfl
    | refine Eq.trans (foldl_view _ _ _ (fun t a => ?_)) ?_
    | refine Eq.trans (foldRange_view _ _ _ (fun t a => ?_)) ?_
    | refine Eq.trans (foldl_view2 _ _ _ (fun t a => ?_)) ?_
    | refine Eq.trans (foldRange_view2 _ _ _ (fun t a => ?_)) ?_
    | simp
    | simp [apply_ite State.view]
    | split

@[simp] theorem State.settleWork_view (s : State) (p d t : Nat) : (State.settleWork s p d t).view = s.view := by
  unfold State.settleWork
  repeat' first
    | with_reducible rfl
    | refine Eq.trans (foldl_view _ _ _ (fun t a => ?_)) ?_
    | refine Eq.trans (foldRange_view _ _ _ (fun t a => ?_)) ?_
    | refine Eq.trans (foldl_view2 _ _ _ (fun t a => ?_)) ?_
    | refine Eq.trans (foldRange_view2 _ _ _ (fun t a => ?_)) ?_
    | simp
    | simp [apply_ite State.view]
    | split

@[simp] theorem State.settleTile_view (s : State) (p d t : Nat) : (State.settleTile s p d t).view = s.view := by
  unfold State.settleTile
  split
  · rfl
  · exact (foldRange_view _ _ _ (fun t a => by simp)).trans (by simp)

@[simp] theorem State.settleDie_view (s : State) (p d : Nat) : (State.settleDie s p d).view = s.view := by
  unfold State.settleDie
  split
  · rfl
  · split
    · rfl
    · dsimp only
      split
      · exact (foldRange_view _ _ _ (fun t a => State.settlePushes_view ..)).trans
          (foldRange_view _ _ _ (fun t a => by split <;> simp))
      · rw [State.putDie_view]
        exact (foldRange_view _ _ _ (fun t a => State.settlePushes_view ..)).trans
          (foldRange_view _ _ _ (fun t a => by split <;> simp))

@[simp] theorem State.settle_view (s : State) (p : Nat) (x : Partition) : (State.settle s p x).view = s.view := by
  unfold State.settle
  repeat' first
    | with_reducible rfl
    | refine Eq.trans (foldl_view _ _ _ (fun t a => ?_)) ?_
    | refine Eq.trans (foldRange_view _ _ _ (fun t a => ?_)) ?_
    | refine Eq.trans (foldl_view2 _ _ _ (fun t a => ?_)) ?_
    | refine Eq.trans (foldRange_view2 _ _ _ (fun t a => ?_)) ?_
    | simp
    | simp [apply_ite State.view]
    | split

@[simp] theorem State.restoreRims_view (s : State) (x : Partition) (j : Nat) (z : Saved) : (State.restoreRims s x j z).view = s.view := by
  unfold State.restoreRims; exact foldl_view _ _ _ (fun t a => by simp)

@[simp] theorem State.saveRunning_view (s : State) (p : Nat) : (State.saveRunning s p).view = s.view := by
  unfold State.saveRunning
  repeat' first
    | with_reducible rfl
    | refine Eq.trans (foldl_view _ _ _ (fun t a => ?_)) ?_
    | refine Eq.trans (foldRange_view _ _ _ (fun t a => ?_)) ?_
    | refine Eq.trans (foldl_view2 _ _ _ (fun t a => ?_)) ?_
    | refine Eq.trans (foldRange_view2 _ _ _ (fun t a => ?_)) ?_
    | simp
    | simp [apply_ite State.view]
    | split

@[simp] theorem State.restoreContext_view (s : State) (p c : Nat) : (State.restoreContext s p c).view = s.view := by
  unfold State.restoreContext; repeat' split
  all_goals first | rfl | simp

@[simp] theorem State.flushRims_view (s : State) (x : Partition) (lo n : Nat) : (State.flushRims s x lo n).view = s.view := by
  unfold State.flushRims
  repeat' first
    | with_reducible rfl
    | refine Eq.trans (foldl_view _ _ _ (fun t a => ?_)) ?_
    | refine Eq.trans (foldRange_view _ _ _ (fun t a => ?_)) ?_
    | refine Eq.trans (foldl_view2 _ _ _ (fun t a => ?_)) ?_
    | refine Eq.trans (foldRange_view2 _ _ _ (fun t a => ?_)) ?_
    | simp
    | simp [apply_ite State.view]
    | split

@[simp] theorem State.writeExtent_view (s : State) (x : Partition) (c e base key : Nat) (v : Context) (chunks : List (List Byte)) : (State.writeExtent s x c e base key v chunks).view = s.view := by
  unfold State.writeExtent
  repeat' first
    | with_reducible rfl
    | refine Eq.trans (foldl_view _ _ _ (fun t a => ?_)) ?_
    | refine Eq.trans (foldRange_view _ _ _ (fun t a => ?_)) ?_
    | refine Eq.trans (foldl_view2 _ _ _ (fun t a => ?_)) ?_
    | refine Eq.trans (foldRange_view2 _ _ _ (fun t a => ?_)) ?_
    | simp

@[simp] theorem State.evict_view (s : State) (p c base : Nat) : (State.evict s p c base).view = s.view := by
  unfold State.evict
  extract_lets u
  have hu : u.view = s.view := by
    dsimp only [u]
    repeat' split
    all_goals simp
  split
  · exact hu
  · split
    · exact hu
    · simp only [State.writeExtent_view, State.setPartition_view, State.flushRims_view]
      exact hu

@[simp] theorem State.makeRoom_view (s : State) (p : Nat) (x : Partition) (o c base : Nat) (w : Context) : (State.makeRoom s p x o c base w).view = s.view := by
  unfold State.makeRoom
  extract_lets u
  have hu : u.view = s.view := by dsimp only [u]; split <;> simp
  split
  · exact hu
  · dsimp only
    split
    · exact hu
    · split
      · exact hu
      · have hv := State.hubServe_view _ _ _ _ _ ‹_›
        repeat' split
        all_goals simp [hv, hu]

@[simp] theorem State.bringIn_view (s : State) (p c j : Nat) (v : Context) (x : Partition) : (State.bringIn s p c j v x).view = s.view := by
  unfold State.bringIn; exact foldl_view _ _ _ (fun t a => by simp)

@[simp] theorem State.bringNothing_view (s : State) (p c j : Nat) (v : Context) (x : Partition) : (State.bringNothing s p c j v x).view = s.view := by
  unfold State.bringNothing
  repeat' first
    | with_reducible rfl
    | refine Eq.trans (foldl_view _ _ _ (fun t a => ?_)) ?_
    | refine Eq.trans (foldRange_view _ _ _ (fun t a => ?_)) ?_
    | refine Eq.trans (foldl_view2 _ _ _ (fun t a => ?_)) ?_
    | refine Eq.trans (foldRange_view2 _ _ _ (fun t a => ?_)) ?_
    | simp
    | simp [apply_ite State.view]
    | split

@[simp] theorem State.openDebug_view (s : State) : (State.openDebug s).view = s.view := by
  unfold State.openDebug
  repeat' first
    | with_reducible rfl
    | refine Eq.trans (foldl_view _ _ _ (fun t a => ?_)) ?_
    | refine Eq.trans (foldRange_view _ _ _ (fun t a => ?_)) ?_
    | refine Eq.trans (foldl_view2 _ _ _ (fun t a => ?_)) ?_
    | refine Eq.trans (foldRange_view2 _ _ _ (fun t a => ?_)) ?_
    | simp
    | simp [apply_ite State.view]
    | split

@[simp] theorem State.mirror_view (s : State) (p c nStacks from_ to_ n : Nat) : (State.mirror s p c nStacks from_ to_ n).view = s.view := by
  unfold State.mirror
  refine (foldRange_view _ _ _ (fun t a => by simp)).trans ?_
  repeat' split
  all_goals simp

@[simp] theorem State.mirrorData_view (s : State) (p c nStacks at_ n : Nat) : (State.mirrorData s p c nStacks at_ n).2.view = s.view := by
  unfold State.mirrorData
  repeat' first
    | with_reducible rfl
    | refine Eq.trans (foldl_view _ _ _ (fun t a => ?_)) ?_
    | refine Eq.trans (foldRange_view _ _ _ (fun t a => ?_)) ?_
    | refine Eq.trans (foldl_view2 _ _ _ (fun t a => ?_)) ?_
    | refine Eq.trans (foldRange_view2 _ _ _ (fun t a => ?_)) ?_
    | simp

@[simp] theorem State.endCheckpoint_view (s : State) (p c : Nat) (k : CheckpointState) (st : Status) (result : List W32) : (State.endCheckpoint s p c k st result).view = s.view := by
  unfold State.endCheckpoint
  repeat' first
    | with_reducible rfl
    | refine Eq.trans (foldl_view _ _ _ (fun t a => ?_)) ?_
    | refine Eq.trans (foldRange_view _ _ _ (fun t a => ?_)) ?_
    | refine Eq.trans (foldl_view2 _ _ _ (fun t a => ?_)) ?_
    | refine Eq.trans (foldRange_view2 _ _ _ (fun t a => ?_)) ?_
    | simp
    | simp [apply_ite State.view]
    | split

@[simp] theorem State.goesOn_view (s : State) (k : Nat) (c : Picked) (how : Progress) : (State.goesOn s k c how).view = s.view := rfl

@[simp] theorem State.answer_view (s : State) (q : Request) (opcode : Nat) (c : Picked) (st : Status) (detail : Nat) (result : List W32) : (State.answer s q opcode c st detail result).view = s.view := by simp [State.answer]

@[simp] theorem State.done_view (s : State) (q : Request) (opcode : Nat) (st : Status) (result : List W32) : (State.done s q opcode st result).view = s.view := by simp [State.done]

@[simp] theorem State.transfer_view (s : State) (q : Request) (c : Picked) (st : Status) (detail : Nat) (result : List W32) : (State.transfer s q c st detail result).view = s.view := rfl

@[simp] theorem State.reply_view (s : State) (e : CmdEntry) (bs : List Byte) : (State.reply s e bs).view = s.view := rfl

@[simp] theorem State.createPartition_view (s : State) (h : NewPart) : (State.createPartition s h).view = s.view := by
  unfold State.createPartition; exact foldl_view _ _ _ (fun t a => by simp)

@[simp] theorem State.destroy_view (s : State) (p : Nat) (x : Partition) (by_ : Option (Nat × Nat)) : (State.destroy s p x by_).view = s.view := by
  unfold State.destroy
  repeat' first
    | with_reducible rfl
    | refine Eq.trans (foldl_view _ _ _ (fun t a => ?_)) ?_
    | refine Eq.trans (foldRange_view _ _ _ (fun t a => ?_)) ?_
    | refine Eq.trans (foldl_view2 _ _ _ (fun t a => ?_)) ?_
    | refine Eq.trans (foldRange_view2 _ _ _ (fun t a => ?_)) ?_
    | simp
    | simp [apply_ite State.view]
    | split

@[simp] theorem State.destroyFor_view (s : State) (q : Request) (c : Picked) (p : Nat) (x : Partition) : (State.destroyFor s q c p x).view = s.view := by
  unfold State.destroyFor
  rw [State.goesOn_view, State.beginTeardown_view]
  split
  · rw [State.setPartition_view, State.stopPartition_view]
  · rw [State.stopPartition_view]

@[simp] theorem State.destroyContext_view (s : State) (e : CmdEntry) (p c : Nat) : (State.destroyContext s e p c).view = s.view := by
  unfold State.destroyContext
  repeat' first
    | with_reducible rfl
    | refine Eq.trans (foldl_view _ _ _ (fun t a => ?_)) ?_
    | refine Eq.trans (foldRange_view _ _ _ (fun t a => ?_)) ?_
    | refine Eq.trans (foldl_view2 _ _ _ (fun t a => ?_)) ?_
    | refine Eq.trans (foldRange_view2 _ _ _ (fun t a => ?_)) ?_
    | simp
    | simp [apply_ite State.view]
    | split

@[simp] theorem State.placePattern_view (s : State) (p c : Nat) (x : Partition) (v : Context) (q : Pattern) : (State.placePattern s p c x v q).view = s.view := by
  unfold State.placePattern
  have h : ∀ u : State, u.view = s.view → ((match (q.die 0).seqCfg with
      | some g => u.clearLists p c g x.stackRims.length
      | none => u) : State).view = s.view := by
    intro u hu
    split <;> simp [hu]
  apply h
  split
  · simp only [State.setPartition_view]
    exact foldl_view _ _ _ (fun t a => by simp)
  · simp

@[simp] theorem State.countHost_view (s : State) (p c n : Nat) : (State.countHost s p c n).view = s.view := by
  unfold State.countHost; split <;> simp

@[simp] theorem State.loadPattern_view (s : State) (q : Request) (c : Picked) (p n : Nat) (x : Partition) (v : Context) : (State.loadPattern s q c p n x v).view = s.view := by
  unfold State.loadPattern
  repeat' first
    | with_reducible rfl
    | refine Eq.trans (foldl_view _ _ _ (fun t a => ?_)) ?_
    | refine Eq.trans (foldRange_view _ _ _ (fun t a => ?_)) ?_
    | refine Eq.trans (foldl_view2 _ _ _ (fun t a => ?_)) ?_
    | refine Eq.trans (foldRange_view2 _ _ _ (fun t a => ?_)) ?_
    | simp
    | simp [apply_ite State.view]
    | split

@[simp] theorem State.unload_view (s : State) (k : Nat) (w : Picked) (e : CmdEntry) (p c : Nat) (v : Context) : (State.unload s k w e p c v).view = s.view := by
  unfold State.unload
  repeat' first
    | with_reducible rfl
    | refine Eq.trans (foldl_view _ _ _ (fun t a => ?_)) ?_
    | refine Eq.trans (foldRange_view _ _ _ (fun t a => ?_)) ?_
    | refine Eq.trans (foldl_view2 _ _ _ (fun t a => ?_)) ?_
    | refine Eq.trans (foldRange_view2 _ _ _ (fun t a => ?_)) ?_
    | simp
    | simp [apply_ite State.view]
    | split

@[simp] theorem State.arrived_view (s : State) (ok : Bool) (bs : List Byte) : (State.arrived s ok bs).2.view = s.view := by
  unfold State.arrived; split <;> simp

@[simp] theorem State.restoreData_view (s : State) (p c nStacks a n : Nat) (bs : List Byte) : (State.restoreData s p c nStacks a n bs).view = s.view := by
  unfold State.restoreData; exact foldl_view _ _ _ (fun t a => by simp)

@[simp] theorem State.restore_view (s : State) (q : Request) (w : Picked) (p c : Nat) (x : Partition) (v : Context) : (State.restore s q w p c x v).view = s.view := by
  unfold State.restore
  repeat' first
    | with_reducible rfl
    | refine Eq.trans (foldl_view _ _ _ (fun t a => ?_)) ?_
    | refine Eq.trans (foldRange_view _ _ _ (fun t a => ?_)) ?_
    | refine Eq.trans (foldl_view2 _ _ _ (fun t a => ?_)) ?_
    | refine Eq.trans (foldRange_view2 _ _ _ (fun t a => ?_)) ?_
    | simp
    | simp [apply_ite State.view]

@[simp] theorem State.holdSeq_view (s : State) (q : Request) (c : Picked) (isAdmit : Bool) : (State.holdSeq s q c isAdmit).view = s.view := by
  unfold State.holdSeq; split <;> simp

@[simp] theorem State.spoilBuffer_view (s : State) (a : Active) (o : Int) : (State.spoilBuffer s a o).view = s.view := by
  unfold State.spoilBuffer
  repeat' first
    | with_reducible rfl
    | refine Eq.trans (foldl_view _ _ _ (fun t a => ?_)) ?_
    | refine Eq.trans (foldRange_view _ _ _ (fun t a => ?_)) ?_
    | refine Eq.trans (foldl_view2 _ _ _ (fun t a => ?_)) ?_
    | refine Eq.trans (foldRange_view2 _ _ _ (fun t a => ?_)) ?_
    | simp
    | simp [apply_ite State.view]
    | split

@[simp] theorem State.failRead_view (s : State) (k u j : Nat) (a : Active) (o : Int) : (State.failRead s k u j a o).view = s.view := by
  unfold State.failRead
  rw [State.uncorrectable_view, State.setRing_view, State.spoilBuffer_view]

@[simp] theorem State.remoteCompletes_view (s : State) (k u symbols : Nat) : (State.remoteCompletes s k u symbols).view = s.view := by
  unfold State.remoteCompletes
  repeat' first
    | with_reducible rfl
    | refine Eq.trans (foldl_view _ _ _ (fun t a => ?_)) ?_
    | refine Eq.trans (foldRange_view _ _ _ (fun t a => ?_)) ?_
    | refine Eq.trans (foldl_view2 _ _ _ (fun t a => ?_)) ?_
    | refine Eq.trans (foldRange_view2 _ _ _ (fun t a => ?_)) ?_
    | simp
    | simp [apply_ite State.view]
    | split

@[simp] theorem State.openSession_view (s : State) (q : Request) : (State.openSession s q).view = s.view := by
  unfold State.openSession
  repeat' first
    | with_reducible rfl
    | refine Eq.trans (foldl_view _ _ _ (fun t a => ?_)) ?_
    | refine Eq.trans (foldRange_view _ _ _ (fun t a => ?_)) ?_
    | refine Eq.trans (foldl_view2 _ _ _ (fun t a => ?_)) ?_
    | refine Eq.trans (foldRange_view2 _ _ _ (fun t a => ?_)) ?_
    | simp
    | simp [apply_ite State.view]
    | split

@[simp] theorem State.resumePosts_view (s : State) : (State.resumePosts s).view = s.view := by
  unfold State.resumePosts
  repeat' first
    | with_reducible rfl
    | refine Eq.trans (foldl_view _ _ _ (fun t a => ?_)) ?_
    | refine Eq.trans (foldRange_view _ _ _ (fun t a => ?_)) ?_
    | refine Eq.trans (foldl_view2 _ _ _ (fun t a => ?_)) ?_
    | refine Eq.trans (foldRange_view2 _ _ _ (fun t a => ?_)) ?_
    | simp
    | simp [apply_ite State.view]
    | split

@[simp] theorem State.installKeys_view (s : State) (z : Session) (plain : List Byte) : (State.installKeys s z plain).view = s.view := by
  unfold State.installKeys; simp

@[simp] theorem State.unlockDebug_view (s : State) (q : Request) (c : Picked) : (State.unlockDebug s q c).view = s.view := by
  unfold State.unlockDebug
  repeat' first
    | with_reducible rfl
    | refine Eq.trans (foldl_view _ _ _ (fun t a => ?_)) ?_
    | refine Eq.trans (foldRange_view _ _ _ (fun t a => ?_)) ?_
    | refine Eq.trans (foldl_view2 _ _ _ (fun t a => ?_)) ?_
    | refine Eq.trans (foldRange_view2 _ _ _ (fun t a => ?_)) ?_
    | simp
    | simp [apply_ite State.view]

end Sys2Proof.Machine
end

