-- ==== Sys2Proof/Laws/Sparse.lean ====
section
/-! SUPPORT. Reading what was written to a sparse map or a byte memory, and the canonical form that every write keeps. -/

namespace Sys2Proof.Machine

/-! ### Reading a map after a write -/

/-- The entries that a written run lists, from key `lo`. -/
theorem Sparse.find_run {α : Type} (vs : List (Option α)) (lo k : Nat) :
    (((vs.zipIdx lo).filterMap (fun e => e.1.map (fun v => (e.2, v)))).find? (fun e => e.1 == k)).map (·.2)
      = if lo ≤ k ∧ k < lo + vs.length then vs.getD (k - lo) none else none := by
  induction vs generalizing lo with
  | nil => simp
  | cons v vs ih =>
    have h := ih (lo + 1)
    rw [List.zipIdx_cons]
    by_cases e : lo = k
    · subst e
      cases v with
      | none =>
        simp only [List.filterMap_cons, Option.map_none, List.length_cons, Nat.sub_self, List.getD_cons_zero]
        rw [h]
        simp
      | some w => simp
    · have g : ∀ i, lo + 1 ≤ k → (v :: vs).getD (k - lo) i = vs.getD (k - (lo + 1)) i := by
        intro i hk
        obtain ⟨j, rfl⟩ : ∃ j, k = lo + 1 + j := ⟨k - (lo + 1), by omega⟩
        rw [show lo + 1 + j - lo = j + 1 by omega, show lo + 1 + j - (lo + 1) = j by omega, List.getD_cons_succ]
      have c : (lo + 1 ≤ k ∧ k < lo + 1 + vs.length) ↔ (lo ≤ k ∧ k < lo + (v :: vs).length) := by
        simp only [List.length_cons]; omega
      have step : ((((v, lo) :: vs.zipIdx (lo + 1)).filterMap (fun e => e.1.map (fun v => (e.2, v)))).find?
          (fun e => e.1 == k)) = (((vs.zipIdx (lo + 1)).filterMap (fun e => e.1.map (fun v => (e.2, v)))).find?
          (fun e => e.1 == k)) := by
        cases v with
        | none => rfl
        | some w => simp [e]
      rw [step, h, if_congr c rfl rfl]
      split
      · rename_i hk; rw [g none (by omega)]
      · rfl

/-- A key is read from the written run when it lies in it, and as before otherwise. -/
theorem Sparse.get?_putList {α : Type} (m : SMap α) (lo : Nat) (vs : List (Option α)) (k : Nat) :
    Sparse.get? (Sparse.putList m lo vs) k
      = if lo ≤ k ∧ k < lo + vs.length then vs.getD (k - lo) none else Sparse.get? m k := by
  have run := Sparse.find_run vs lo k
  have below : (m.filter (fun e => decide (e.1 < lo))).find? (fun e => e.1 == k)
      = if k < lo then m.find? (fun e => e.1 == k) else none := by
    rw [List.find?_filter]
    split
    · congr 1; funext e; by_cases h : e.1 = k <;> simp [h]; omega
    · rw [List.find?_eq_none]; intro e _; simp; omega
  have above : (m.filter (fun e => decide (lo + vs.length ≤ e.1))).find? (fun e => e.1 == k)
      = if lo + vs.length ≤ k then m.find? (fun e => e.1 == k) else none := by
    rw [List.find?_filter]
    split
    · congr 1; funext e; by_cases h : e.1 = k <;> simp [h]; omega
    · rw [List.find?_eq_none]; intro e _; simp; omega
  unfold Sparse.get? Sparse.putList
  rw [List.find?_append, List.find?_append, below, above]
  by_cases h1 : k < lo
  · rw [if_neg (by omega : ¬ (lo ≤ k ∧ k < lo + vs.length))] at run ⊢
    rw [if_pos h1, if_neg (by omega : ¬ lo + vs.length ≤ k)]
    cases hf : m.find? (fun e => e.1 == k) with
    | some e => simp
    | none => simpa using run
  · rw [if_neg h1]
    by_cases h2 : lo + vs.length ≤ k
    · rw [if_neg (by omega : ¬ (lo ≤ k ∧ k < lo + vs.length))] at run ⊢
      rw [if_pos h2]
      simp only [Option.map_eq_none_iff] at run
      rw [run]; simp
    · rw [if_pos (by omega : lo ≤ k ∧ k < lo + vs.length)] at run ⊢
      rw [if_neg h2]
      simpa using run

@[simp] theorem Sparse.get?_set {α : Type} (m : SMap α) (k : Nat) (v : α) (j : Nat) :
    Sparse.get? (Sparse.set m k v) j = if j = k then some v else Sparse.get? m j := by
  unfold Sparse.set
  rw [Sparse.get?_putList]
  by_cases h : j = k
  · subst h; simp
  · rw [if_neg h, if_neg (by simp; omega)]

@[simp] theorem Sparse.get?_erase {α : Type} (m : SMap α) (k j : Nat) :
    Sparse.get? (Sparse.erase m k) j = if j = k then none else Sparse.get? m j := by
  unfold Sparse.erase
  rw [Sparse.get?_putList]
  by_cases h : j = k
  · subst h; simp
  · rw [if_neg h, if_neg (by simp; omega)]

@[simp] theorem Sparse.getD_set {α : Type} (d : α) (m : SMap α) (k : Nat) (v : α) (j : Nat) :
    Sparse.getD d (Sparse.set m k v) j = if j = k then v else Sparse.getD d m j := by
  unfold Sparse.getD
  rw [Sparse.get?_set]
  split <;> rfl

@[simp] theorem Sparse.getD_setD {α : Type} [DecidableEq α] (d : α) (m : SMap α) (k : Nat) (v : α) (j : Nat) :
    Sparse.getD d (Sparse.setD d m k v) j = if j = k then v else Sparse.getD d m j := by
  unfold Sparse.getD Sparse.setD
  rw [Sparse.get?_putList]
  by_cases h : j = k
  · subst h
    rw [if_pos (by simp), if_pos rfl, Nat.sub_self]
    by_cases hv : v = d <;> simp [hv]
  · rw [if_neg h, if_neg (by simp; omega)]

/-- A byte of a zero-default memory after a write. -/
theorem Mem.read_writeBytes (m : Mem) (a : Nat) (bs : List Byte) (b : Nat) :
    Mem.read (Mem.writeBytes m a bs) b = if a ≤ b ∧ b < a + bs.length then bs.getD (b - a) 0 else Mem.read m b := by
  unfold Mem.read Mem.writeBytes Sparse.getD
  rw [Sparse.get?_putList, List.length_map]
  split
  · rename_i h
    have hl : b - a < bs.length := by omega
    rw [List.getD_eq_getElem?_getD, List.getD_eq_getElem?_getD, List.getElem?_map, List.getElem?_eq_getElem hl]
    by_cases hz : bs[b - a] = 0#8 <;> simp [hz]
  · rfl

/-- A byte of a recording memory after a write. -/
theorem Mem.get?_record (m : Mem) (a : Nat) (bs : List Byte) (b : Nat) :
    Sparse.get? (Mem.record m a bs) b = if a ≤ b ∧ b < a + bs.length then bs[b - a]? else Sparse.get? m b := by
  unfold Mem.record
  rw [Sparse.get?_putList, List.length_map]
  split
  · rename_i h
    have hl : b - a < bs.length := by omega
    rw [List.getD_eq_getElem?_getD, List.getElem?_map, List.getElem?_eq_getElem hl]
    rfl
  · rfl

theorem Mem.get?_forget (m : Mem) (a n b : Nat) :
    Sparse.get? (Mem.forget m a n) b = if a ≤ b ∧ b < a + n then none else Sparse.get? m b := by
  unfold Mem.forget
  rw [Sparse.get?_putList, List.length_replicate]
  split
  · rename_i h
    rw [List.getD_eq_getElem?_getD, List.getElem?_replicate]
    split <;> rfl
  · rfl

/-! ### Canonical form -/

/-- The keys of a written run rise and lie in it. -/
theorem Sparse.run_keys {α : Type} (vs : List (Option α)) (lo : Nat) :
    (((vs.zipIdx lo).filterMap (fun e => e.1.map (fun v => (e.2, v)))).Pairwise (fun a b => a.1 < b.1)) ∧
      ∀ e ∈ (vs.zipIdx lo).filterMap (fun e => e.1.map (fun v => (e.2, v))),
        lo ≤ e.1 ∧ e.1 < lo + vs.length ∧ some e.2 ∈ vs := by
  induction vs generalizing lo with
  | nil => simp
  | cons v vs ih =>
    obtain ⟨h1, h2⟩ := ih (lo + 1)
    rw [List.zipIdx_cons]
    cases v with
    | none =>
      refine ⟨by simpa using h1, fun e he => ?_⟩
      have := h2 e (by simpa using he)
      simp only [List.length_cons, List.mem_cons]
      exact ⟨by omega, by omega, Or.inr this.2.2⟩
    | some w =>
      simp only [List.filterMap_cons, Option.map_some, List.pairwise_cons, List.mem_cons, List.length_cons]
      refine ⟨⟨fun e he => ?_, h1⟩, fun e he => ?_⟩
      · have := h2 e he; show lo < e.1; omega
      · obtain rfl | he := he
        · exact ⟨Nat.le_refl _, by simp, Or.inl rfl⟩
        · have := h2 e he
          exact ⟨by omega, by omega, Or.inr this.2.2⟩

theorem Sparse.putList_sorted {α : Type} {m : SMap α} (h : Sparse.Sorted m) (lo : Nat) (vs : List (Option α)) :
    Sparse.Sorted (Sparse.putList m lo vs) := by
  obtain ⟨r1, r2⟩ := Sparse.run_keys vs lo
  unfold Sparse.putList
  refine List.pairwise_append.2 ⟨List.pairwise_append.2 ⟨h.filter _, r1, fun a ha b hb => ?_⟩, h.filter _, fun a ha b hb => ?_⟩
  · have := r2 b hb; simp at ha; omega
  · simp at hb
    rcases List.mem_append.1 ha with ha | ha
    · simp at ha; omega
    · have := r2 a ha; omega

theorem Sparse.putList_canonical {α : Type} [DecidableEq α] {d : α} {m : SMap α} (h : Sparse.Canonical d m) (lo : Nat)
    (vs : List (Option α)) (hv : some d ∉ vs) : Sparse.Canonical d (Sparse.putList m lo vs) := by
  refine ⟨Sparse.putList_sorted h.1 lo vs, fun e he => ?_⟩
  unfold Sparse.putList at he
  rcases List.mem_append.1 he with he | he
  · rcases List.mem_append.1 he with he | he
    · exact h.2 e (List.mem_of_mem_filter he)
    · intro hd
      exact hv (hd ▸ ((Sparse.run_keys vs lo).2 e he).2.2)
  · exact h.2 e (List.mem_of_mem_filter he)

theorem Sparse.set_sorted {α : Type} {m : SMap α} (h : Sparse.Sorted m) (k : Nat) (v : α) :
    Sparse.Sorted (Sparse.set m k v) := Sparse.putList_sorted h k _

theorem Sparse.erase_sorted {α : Type} {m : SMap α} (h : Sparse.Sorted m) (k : Nat) : Sparse.Sorted (Sparse.erase m k) :=
  Sparse.putList_sorted h k _

theorem Sparse.setD_canonical {α : Type} [DecidableEq α] {d : α} {m : SMap α} (h : Sparse.Canonical d m) (k : Nat) (v : α) :
    Sparse.Canonical d (Sparse.setD d m k v) := by
  refine Sparse.putList_canonical h k _ ?_
  by_cases hv : v = d <;> simp [hv]
  exact fun e => hv e.symm

/-- A write keeps the canonical form of a zero-default memory. -/
theorem Mem.writeBytes_wf {m : Mem} (h : Mem.wf m) (a : Nat) (bs : List Byte) : Mem.wf (Mem.writeBytes m a bs) := by
  refine Sparse.putList_canonical h a _ ?_
  simp only [List.mem_map, not_exists, not_and]
  intro b _
  by_cases hb : b = 0 <;> simp [hb]

theorem Mem.record_sorted {m : Mem} (h : Sparse.Sorted m) (a : Nat) (bs : List Byte) : Sparse.Sorted (Mem.record m a bs) :=
  Sparse.putList_sorted h a _

theorem Mem.forget_sorted {m : Mem} (h : Sparse.Sorted m) (a n : Nat) : Sparse.Sorted (Mem.forget m a n) :=
  Sparse.putList_sorted h a _

/-! ### Bytes -/

@[simp] theorem leBytes_length (n v : Nat) : (leBytes n v).length = n := by
  induction n generalizing v with
  | zero => rfl
  | succ n ih => simp [leBytes, ih]

theorem leNat_leBytes (n v : Nat) : leNat (leBytes n v) = v % 256 ^ n := by
  induction n generalizing v with
  | zero => simp [leBytes, leNat, Nat.mod_one]
  | succ n ih =>
    rw [leBytes, leNat, ih, Nat.pow_succ', Nat.mod_mul]
    simp [BitVec.toNat_ofNat]

end Sys2Proof.Machine
end

