-- ==== Sys2Proof/Laws/Hub.lean ====
section
/-! SUPPORT. What the hub's round robin can do (spec/10_streams_prefetch_gather.md R309): a transfer that is served changes only the
turn and the units served, and a partition that alone has transfers pending is always served. -/

namespace Sys2Proof.Machine

/-- Where only partition `p`, with a share, waits for units, the round robin serves it. -/
theorem hubRun_alone (p : Nat) : ∀ (f need t k : Nat) (ls : List HubLine),
    (∀ l ∈ ls, l.part ≠ p → l.left = 0) → (∀ l ∈ ls, l.part = p → l.left = need ∧ 0 < l.weight) → (∃ l ∈ ls, l.part = p) →
    0 < need → 2 * need + (if t = p ∧ 0 < k then 0 else 1) ≤ f → (hubRun f p (t, k) ls).isSome = true := by
  intro f
  induction f with
  | zero => intro need t k ls _ _ _ hn hf; omega
  | succ f ih =>
    intro need t k ls others mine has hn hf
    obtain ⟨m, hm, hmp⟩ := has
    rw [hubRun]
    cases hfind : ls.find? (fun l => l.part == t && decide (0 < l.left) && decide (0 < k)) with
    | some l =>
      have hl := List.mem_of_find?_eq_some hfind
      have hs := List.find?_some hfind
      simp only [Bool.and_eq_true, beq_iff_eq, decide_eq_true_eq] at hs
      obtain ⟨⟨hlt, hleft⟩, hk⟩ := hs
      have hp : l.part = p := by
        by_contra h
        have := others l hl h
        omega
      obtain ⟨hneed, _⟩ := mine l hl hp
      have htp : t = p := by rw [← hlt, hp]
      subst htp
      dsimp only
      by_cases hmin : min k l.left = l.left
      · simp [hmin]
      · rw [if_neg hmin]
        have hkl : min k l.left = k := by omega
        rw [hkl]
        refine ih (need - k) t 0 _ ?_ ?_ ?_ (by omega) ?_
        · intro o ho hne
          obtain ⟨o', ho', rfl⟩ := List.mem_map.1 ho
          by_cases h : o'.part = t
          · simp [h, HubLine.serve] at hne
          · simpa [h] using others o' ho' (by simpa only [h, if_false] using hne)
        · intro o ho he
          obtain ⟨o', ho', rfl⟩ := List.mem_map.1 ho
          by_cases h : o'.part = t
          · have := mine o' ho' h
            simp [h, HubLine.serve, this.1, this.2]
          · simp [h] at he
        · exact ⟨_, List.mem_map.2 ⟨m, hm, rfl⟩, by simp [hmp, HubLine.serve]⟩
        · simp only [hk, and_true, if_true] at hf
          simp only [Nat.lt_irrefl, and_false, if_false]
          omega
    | none =>
      have hm' := mine m hm hmp
      have hmem : m ∈ ls.filter (fun l => decide (0 < l.left)) := by
        simp [hm]; omega
      have hcond : ¬ (t = p ∧ 0 < k) := by
        rintro ⟨rfl, hk⟩
        have := List.find?_eq_none.1 hfind m hm
        simp [hmp, hk] at this
        omega
      rw [if_neg hcond] at hf
      have hnext : ∃ l, nextLine ls t = some l ∧ l ∈ ls.filter (fun l => decide (0 < l.left)) := by
        unfold nextLine
        cases h1 : (ls.filter (fun l => decide (0 < l.left))).find? (fun l => decide (t < l.part)) with
        | some l => exact ⟨l, by dsimp only; rw [h1]; rfl, List.mem_of_find?_eq_some h1⟩
        | none =>
          cases h2 : ls.filter (fun l => decide (0 < l.left)) with
          | nil => rw [h2] at hmem; cases hmem
          | cons a as =>
            rw [h2] at h1
            exact ⟨a, by dsimp only; rw [h1]; rfl, by simp⟩
      obtain ⟨l, hl, hlr⟩ := hnext
      simp only [List.mem_filter, decide_eq_true_eq] at hlr
      have hp : l.part = p := by
        by_contra h
        have := others l hlr.1 h
        omega
      dsimp only
      rw [hl]
      dsimp only
      refine ih need l.part l.weight ls others mine ⟨m, hm, hmp⟩ hn ?_
      rw [if_pos ⟨hp, (mine l hlr.1 hp).2⟩]
      omega

/-- A partition whose transfers are the only ones pending in a direction is served, while the stream is secure. -/
theorem State.hubServe_alone (s : State) (p : Nat) (out : Bool) (units : Nat) (secure : s.insecure = false)
    (alone : ∀ z ∈ s.partitions, if z.1 = p then 0 < z.2.hostShare else s.hostPending z.1 z.2 out = 0) :
    s.hubServe p out units ≠ none := by
  unfold State.hubServe
  rw [secure]
  cases hx : s.partition? p with
  | none => simp
  | some x =>
    simp only [Bool.false_eq_true, if_false]
    split
    · simp
    · rename_i hneed
      have hrun : ∀ t k, (hubRun (2 * (units - min (s.hostPending p x out) (x.served out) + 1)
          * ((s.partitions.map (s.hubLine p (units - min (s.hostPending p x out) (x.served out)) out)).length + 1)) p (t, k)
          (s.partitions.map (s.hubLine p (units - min (s.hostPending p x out) (x.served out)) out))).isSome = true := by
        intro t k
        have hmem : ∃ y, (p, y) ∈ s.partitions := by
          unfold State.partition? Sparse.get? at hx
          obtain ⟨e, he, _⟩ := Option.map_eq_some_iff.1 hx
          have := List.find?_some he
          simp only [beq_iff_eq] at this
          exact ⟨e.2, by rw [← this]; exact List.mem_of_find?_eq_some he⟩
        obtain ⟨y, hy⟩ := hmem
        refine hubRun_alone p _ _ t k _ ?_ ?_ ⟨_, List.mem_map.2 ⟨_, hy, rfl⟩, rfl⟩ (Nat.pos_of_ne_zero hneed) ?_
        · intro l hl hne
          obtain ⟨z, hz, rfl⟩ := List.mem_map.1 hl
          have hzp : z.1 ≠ p := hne
          have := alone z hz
          rw [if_neg hzp] at this
          simp [State.hubLine, hzp, this]
        · intro l hl he
          obtain ⟨z, hz, rfl⟩ := List.mem_map.1 hl
          have hzp : z.1 = p := he
          have := alone z hz
          rw [if_pos hzp] at this
          exact ⟨by simp [State.hubLine, hzp], this⟩
        · generalize units - min (s.hostPending p x out) (x.served out) = n
          generalize (s.partitions.map _).length = m
          have : 2 * (n + 1) * 1 ≤ 2 * (n + 1) * (m + 1) := Nat.mul_le_mul_left _ (by omega)
          split <;> omega
      intro hnone
      split at hnone
      · rename_i heq
        have := hrun (if out then s.hubOut else s.hubIn).1 (if out then s.hubOut else s.hubIn).2
        rw [heq] at this
        cases this
      · cases hnone

end Sys2Proof.Machine
end

