-- ==== Sys2Proof/Laws/State.lean ====
section
/-! SUPPORT. What the setters of the state leave alone, and what is read back after them. -/

namespace Sys2Proof.Machine

/-! ### setPartition -/

@[simp] theorem State.setPartition_part (s : State) (p : Nat) (x : Partition) : (s.setPartition p x).part = s.part := rfl
@[simp] theorem State.setPartition_time (s : State) (p : Nat) (x : Partition) : (s.setPartition p x).time = s.time := rfl
@[simp] theorem State.setPartition_beat (s : State) (p : Nat) (x : Partition) : (s.setPartition p x).beat = s.beat := rfl
@[simp] theorem State.setPartition_transitBeat (s : State) (p : Nat) (x : Partition) : (s.setPartition p x).transitBeat = s.transitBeat := rfl
@[simp] theorem State.setPartition_clockLow (s : State) (p : Nat) (x : Partition) : (s.setPartition p x).clockLow = s.clockLow := rfl
@[simp] theorem State.setPartition_clockPending (s : State) (p : Nat) (x : Partition) : (s.setPartition p x).clockPending = s.clockPending := rfl
@[simp] theorem State.setPartition_clockFrom (s : State) (p : Nat) (x : Partition) : (s.setPartition p x).clockFrom = s.clockFrom := rfl
@[simp] theorem State.setPartition_belowSince (s : State) (p : Nat) (x : Partition) : (s.setPartition p x).belowSince = s.belowSince := rfl
@[simp] theorem State.setPartition_aboveSince (s : State) (p : Nat) (x : Partition) : (s.setPartition p x).aboveSince = s.aboveSince := rfl
@[simp] theorem State.setPartition_power (s : State) (p : Nat) (x : Partition) : (s.setPartition p x).power = s.power := rfl
@[simp] theorem State.setPartition_converters (s : State) (p : Nat) (x : Partition) : (s.setPartition p x).converters = s.converters := rfl
@[simp] theorem State.setPartition_perst (s : State) (p : Nat) (x : Partition) : (s.setPartition p x).perst = s.perst := rfl
@[simp] theorem State.setPartition_throt (s : State) (p : Nat) (x : Partition) : (s.setPartition p x).throt = s.throt := rfl
@[simp] theorem State.setPartition_throtAt (s : State) (p : Nat) (x : Partition) : (s.setPartition p x).throtAt = s.throtAt := rfl
@[simp] theorem State.setPartition_emerg (s : State) (p : Nat) (x : Partition) : (s.setPartition p x).emerg = s.emerg := rfl
@[simp] theorem State.setPartition_pwrgd (s : State) (p : Nat) (x : Partition) : (s.setPartition p x).pwrgd = s.pwrgd := rfl
@[simp] theorem State.setPartition_alertN (s : State) (p : Nat) (x : Partition) : (s.setPartition p x).alertN = s.alertN := rfl
@[simp] theorem State.setPartition_thermtripN (s : State) (p : Nat) (x : Partition) : (s.setPartition p x).thermtripN = s.thermtripN := rfl
@[simp] theorem State.setPartition_envelope (s : State) (p : Nat) (x : Partition) : (s.setPartition p x).envelope = s.envelope := rfl
@[simp] theorem State.setPartition_storedEnvelope (s : State) (p : Nat) (x : Partition) : (s.setPartition p x).storedEnvelope = s.storedEnvelope := rfl
@[simp] theorem State.setPartition_plim (s : State) (p : Nat) (x : Partition) : (s.setPartition p x).plim = s.plim := rfl
@[simp] theorem State.setPartition_beatLimit (s : State) (p : Nat) (x : Partition) : (s.setPartition p x).beatLimit = s.beatLimit := rfl
@[simp] theorem State.setPartition_cause (s : State) (p : Nat) (x : Partition) : (s.setPartition p x).cause = s.cause := rfl
@[simp] theorem State.setPartition_overhead (s : State) (p : Nat) (x : Partition) : (s.setPartition p x).overhead = s.overhead := rfl
@[simp] theorem State.setPartition_pinW (s : State) (p : Nat) (x : Partition) : (s.setPartition p x).pinW = s.pinW := rfl
@[simp] theorem State.setPartition_vin (s : State) (p : Nat) (x : Partition) : (s.setPartition p x).vin = s.vin := rfl
@[simp] theorem State.setPartition_coolantIn (s : State) (p : Nat) (x : Partition) : (s.setPartition p x).coolantIn = s.coolantIn := rfl
@[simp] theorem State.setPartition_coolantOut (s : State) (p : Nat) (x : Partition) : (s.setPartition p x).coolantOut = s.coolantOut := rfl
@[simp] theorem State.setPartition_junctions (s : State) (p : Nat) (x : Partition) : (s.setPartition p x).junctions = s.junctions := rfl
@[simp] theorem State.setPartition_inputGuard (s : State) (p : Nat) (x : Partition) : (s.setPartition p x).inputGuard = s.inputGuard := rfl
@[simp] theorem State.setPartition_stage (s : State) (p : Nat) (x : Partition) : (s.setPartition p x).stage = s.stage := rfl
@[simp] theorem State.setPartition_fallback (s : State) (p : Nat) (x : Partition) : (s.setPartition p x).fallback = s.fallback := rfl
@[simp] theorem State.setPartition_firmware (s : State) (p : Nat) (x : Partition) : (s.setPartition p x).firmware = s.firmware := rfl
@[simp] theorem State.setPartition_activeSlot (s : State) (p : Nat) (x : Partition) : (s.setPartition p x).activeSlot = s.activeSlot := rfl
@[simp] theorem State.setPartition_runningImage (s : State) (p : Nat) (x : Partition) : (s.setPartition p x).runningImage = s.runningImage := rfl
@[simp] theorem State.setPartition_keyRevoked (s : State) (p : Nat) (x : Partition) : (s.setPartition p x).keyRevoked = s.keyRevoked := rfl
@[simp] theorem State.setPartition_minSvn (s : State) (p : Nat) (x : Partition) : (s.setPartition p x).minSvn = s.minSvn := rfl
@[simp] theorem State.setPartition_bootCount (s : State) (p : Nat) (x : Partition) : (s.setPartition p x).bootCount = s.bootCount := rfl
@[simp] theorem State.setPartition_serial (s : State) (p : Nat) (x : Partition) : (s.setPartition p x).serial = s.serial := rfl
@[simp] theorem State.setPartition_meshW (s : State) (p : Nat) (x : Partition) : (s.setPartition p x).meshW = s.meshW := rfl
@[simp] theorem State.setPartition_meshH (s : State) (p : Nat) (x : Partition) : (s.setPartition p x).meshH = s.meshH := rfl
@[simp] theorem State.setPartition_row0 (s : State) (p : Nat) (x : Partition) : (s.setPartition p x).row0 = s.row0 := rfl
@[simp] theorem State.setPartition_meshValid (s : State) (p : Nat) (x : Partition) : (s.setPartition p x).meshValid = s.meshValid := rfl
@[simp] theorem State.setPartition_linkUp (s : State) (p : Nat) (x : Partition) : (s.setPartition p x).linkUp = s.linkUp := rfl
@[simp] theorem State.setPartition_linkRate (s : State) (p : Nat) (x : Partition) : (s.setPartition p x).linkRate = s.linkRate := rfl
@[simp] theorem State.setPartition_linkNarrow (s : State) (p : Nat) (x : Partition) : (s.setPartition p x).linkNarrow = s.linkNarrow := rfl
@[simp] theorem State.setPartition_linkFailures (s : State) (p : Nat) (x : Partition) : (s.setPartition p x).linkFailures = s.linkFailures := rfl
@[simp] theorem State.setPartition_hwFault (s : State) (p : Nat) (x : Partition) : (s.setPartition p x).hwFault = s.hwFault := rfl
@[simp] theorem State.setPartition_hwNode (s : State) (p : Nat) (x : Partition) : (s.setPartition p x).hwNode = s.hwNode := rfl
@[simp] theorem State.setPartition_features (s : State) (p : Nat) (x : Partition) : (s.setPartition p x).features = s.features := rfl
@[simp] theorem State.setPartition_rings (s : State) (p : Nat) (x : Partition) : (s.setPartition p x).rings = s.rings := rfl
@[simp] theorem State.setPartition_vectors (s : State) (p : Nat) (x : Partition) : (s.setPartition p x).vectors = s.vectors := rfl
@[simp] theorem State.setPartition_messages (s : State) (p : Nat) (x : Partition) : (s.setPartition p x).messages = s.messages := rfl
@[simp] theorem State.setPartition_snapSeq (s : State) (p : Nat) (x : Partition) : (s.setPartition p x).snapSeq = s.snapSeq := rfl
@[simp] theorem State.setPartition_snap (s : State) (p : Nat) (x : Partition) : (s.setPartition p x).snap = s.snap := rfl
@[simp] theorem State.setPartition_hostMem (s : State) (p : Nat) (x : Partition) : (s.setPartition p x).hostMem = s.hostMem := rfl
@[simp] theorem State.setPartition_session (s : State) (p : Nat) (x : Partition) : (s.setPartition p x).session = s.session := rfl
@[simp] theorem State.setPartition_ide (s : State) (p : Nat) (x : Partition) : (s.setPartition p x).ide = s.ide := rfl
@[simp] theorem State.setPartition_debugOpen (s : State) (p : Nat) (x : Partition) : (s.setPartition p x).debugOpen = s.debugOpen := rfl
@[simp] theorem State.setPartition_debugWait (s : State) (p : Nat) (x : Partition) : (s.setPartition p x).debugWait = s.debugWait := rfl
@[simp] theorem State.setPartition_keyNumber (s : State) (p : Nat) (x : Partition) : (s.setPartition p x).keyNumber = s.keyNumber := rfl
@[simp] theorem State.setPartition_spares (s : State) (p : Nat) (x : Partition) : (s.setPartition p x).spares = s.spares := rfl
@[simp] theorem State.setPartition_diag (s : State) (p : Nat) (x : Partition) : (s.setPartition p x).diag = s.diag := rfl
@[simp] theorem State.setPartition_diagSources (s : State) (p : Nat) (x : Partition) : (s.setPartition p x).diagSources = s.diagSources := rfl
@[simp] theorem State.setPartition_heartbeats (s : State) (p : Nat) (x : Partition) : (s.setPartition p x).heartbeats = s.heartbeats := rfl
@[simp] theorem State.setPartition_wires (s : State) (p : Nat) (x : Partition) : (s.setPartition p x).wires = s.wires := rfl
@[simp] theorem State.setPartition_rims (s : State) (p : Nat) (x : Partition) : (s.setPartition p x).rims = s.rims := rfl
@[simp] theorem State.setPartition_hubIn (s : State) (p : Nat) (x : Partition) : (s.setPartition p x).hubIn = s.hubIn := rfl
@[simp] theorem State.setPartition_hubOut (s : State) (p : Nat) (x : Partition) : (s.setPartition p x).hubOut = s.hubOut := rfl
@[simp] theorem State.setPartition_i3cReady (s : State) (p : Nat) (x : Partition) : (s.setPartition p x).i3cReady = s.i3cReady := rfl
@[simp] theorem State.setPartition_i3cAddress (s : State) (p : Nat) (x : Partition) : (s.setPartition p x).i3cAddress = s.i3cAddress := rfl
@[simp] theorem State.setPartition_i3cOffset (s : State) (p : Nat) (x : Partition) : (s.setPartition p x).i3cOffset = s.i3cOffset := rfl
@[simp] theorem State.setPartition_i3cAnswer (s : State) (p : Nat) (x : Partition) : (s.setPartition p x).i3cAnswer = s.i3cAnswer := rfl
@[simp] theorem State.setPartition_i3cAck (s : State) (p : Nat) (x : Partition) : (s.setPartition p x).i3cAck = s.i3cAck := rfl
@[simp] theorem State.setPartition_fresh (s : State) (p : Nat) (x : Partition) : (s.setPartition p x).fresh = s.fresh := rfl
@[simp] theorem State.setPartition_pending (s : State) (p : Nat) (x : Partition) : (s.setPartition p x).pending = s.pending := rfl

/-! ### setRim -/

@[simp] theorem State.setRim_part (s : State) (k : Nat) (r : Rim) : (s.setRim k r).part = s.part := rfl
@[simp] theorem State.setRim_time (s : State) (k : Nat) (r : Rim) : (s.setRim k r).time = s.time := rfl
@[simp] theorem State.setRim_beat (s : State) (k : Nat) (r : Rim) : (s.setRim k r).beat = s.beat := rfl
@[simp] theorem State.setRim_transitBeat (s : State) (k : Nat) (r : Rim) : (s.setRim k r).transitBeat = s.transitBeat := rfl
@[simp] theorem State.setRim_clockLow (s : State) (k : Nat) (r : Rim) : (s.setRim k r).clockLow = s.clockLow := rfl
@[simp] theorem State.setRim_clockPending (s : State) (k : Nat) (r : Rim) : (s.setRim k r).clockPending = s.clockPending := rfl
@[simp] theorem State.setRim_clockFrom (s : State) (k : Nat) (r : Rim) : (s.setRim k r).clockFrom = s.clockFrom := rfl
@[simp] theorem State.setRim_belowSince (s : State) (k : Nat) (r : Rim) : (s.setRim k r).belowSince = s.belowSince := rfl
@[simp] theorem State.setRim_aboveSince (s : State) (k : Nat) (r : Rim) : (s.setRim k r).aboveSince = s.aboveSince := rfl
@[simp] theorem State.setRim_power (s : State) (k : Nat) (r : Rim) : (s.setRim k r).power = s.power := rfl
@[simp] theorem State.setRim_converters (s : State) (k : Nat) (r : Rim) : (s.setRim k r).converters = s.converters := rfl
@[simp] theorem State.setRim_perst (s : State) (k : Nat) (r : Rim) : (s.setRim k r).perst = s.perst := rfl
@[simp] theorem State.setRim_throt (s : State) (k : Nat) (r : Rim) : (s.setRim k r).throt = s.throt := rfl
@[simp] theorem State.setRim_throtAt (s : State) (k : Nat) (r : Rim) : (s.setRim k r).throtAt = s.throtAt := rfl
@[simp] theorem State.setRim_emerg (s : State) (k : Nat) (r : Rim) : (s.setRim k r).emerg = s.emerg := rfl
@[simp] theorem State.setRim_pwrgd (s : State) (k : Nat) (r : Rim) : (s.setRim k r).pwrgd = s.pwrgd := rfl
@[simp] theorem State.setRim_alertN (s : State) (k : Nat) (r : Rim) : (s.setRim k r).alertN = s.alertN := rfl
@[simp] theorem State.setRim_thermtripN (s : State) (k : Nat) (r : Rim) : (s.setRim k r).thermtripN = s.thermtripN := rfl
@[simp] theorem State.setRim_envelope (s : State) (k : Nat) (r : Rim) : (s.setRim k r).envelope = s.envelope := rfl
@[simp] theorem State.setRim_storedEnvelope (s : State) (k : Nat) (r : Rim) : (s.setRim k r).storedEnvelope = s.storedEnvelope := rfl
@[simp] theorem State.setRim_plim (s : State) (k : Nat) (r : Rim) : (s.setRim k r).plim = s.plim := rfl
@[simp] theorem State.setRim_beatLimit (s : State) (k : Nat) (r : Rim) : (s.setRim k r).beatLimit = s.beatLimit := rfl
@[simp] theorem State.setRim_cause (s : State) (k : Nat) (r : Rim) : (s.setRim k r).cause = s.cause := rfl
@[simp] theorem State.setRim_overhead (s : State) (k : Nat) (r : Rim) : (s.setRim k r).overhead = s.overhead := rfl
@[simp] theorem State.setRim_pinW (s : State) (k : Nat) (r : Rim) : (s.setRim k r).pinW = s.pinW := rfl
@[simp] theorem State.setRim_vin (s : State) (k : Nat) (r : Rim) : (s.setRim k r).vin = s.vin := rfl
@[simp] theorem State.setRim_coolantIn (s : State) (k : Nat) (r : Rim) : (s.setRim k r).coolantIn = s.coolantIn := rfl
@[simp] theorem State.setRim_coolantOut (s : State) (k : Nat) (r : Rim) : (s.setRim k r).coolantOut = s.coolantOut := rfl
@[simp] theorem State.setRim_junctions (s : State) (k : Nat) (r : Rim) : (s.setRim k r).junctions = s.junctions := rfl
@[simp] theorem State.setRim_inputGuard (s : State) (k : Nat) (r : Rim) : (s.setRim k r).inputGuard = s.inputGuard := rfl
@[simp] theorem State.setRim_stage (s : State) (k : Nat) (r : Rim) : (s.setRim k r).stage = s.stage := rfl
@[simp] theorem State.setRim_fallback (s : State) (k : Nat) (r : Rim) : (s.setRim k r).fallback = s.fallback := rfl
@[simp] theorem State.setRim_firmware (s : State) (k : Nat) (r : Rim) : (s.setRim k r).firmware = s.firmware := rfl
@[simp] theorem State.setRim_activeSlot (s : State) (k : Nat) (r : Rim) : (s.setRim k r).activeSlot = s.activeSlot := rfl
@[simp] theorem State.setRim_runningImage (s : State) (k : Nat) (r : Rim) : (s.setRim k r).runningImage = s.runningImage := rfl
@[simp] theorem State.setRim_keyRevoked (s : State) (k : Nat) (r : Rim) : (s.setRim k r).keyRevoked = s.keyRevoked := rfl
@[simp] theorem State.setRim_minSvn (s : State) (k : Nat) (r : Rim) : (s.setRim k r).minSvn = s.minSvn := rfl
@[simp] theorem State.setRim_bootCount (s : State) (k : Nat) (r : Rim) : (s.setRim k r).bootCount = s.bootCount := rfl
@[simp] theorem State.setRim_serial (s : State) (k : Nat) (r : Rim) : (s.setRim k r).serial = s.serial := rfl
@[simp] theorem State.setRim_meshW (s : State) (k : Nat) (r : Rim) : (s.setRim k r).meshW = s.meshW := rfl
@[simp] theorem State.setRim_meshH (s : State) (k : Nat) (r : Rim) : (s.setRim k r).meshH = s.meshH := rfl
@[simp] theorem State.setRim_row0 (s : State) (k : Nat) (r : Rim) : (s.setRim k r).row0 = s.row0 := rfl
@[simp] theorem State.setRim_meshValid (s : State) (k : Nat) (r : Rim) : (s.setRim k r).meshValid = s.meshValid := rfl
@[simp] theorem State.setRim_linkUp (s : State) (k : Nat) (r : Rim) : (s.setRim k r).linkUp = s.linkUp := rfl
@[simp] theorem State.setRim_linkRate (s : State) (k : Nat) (r : Rim) : (s.setRim k r).linkRate = s.linkRate := rfl
@[simp] theorem State.setRim_linkNarrow (s : State) (k : Nat) (r : Rim) : (s.setRim k r).linkNarrow = s.linkNarrow := rfl
@[simp] theorem State.setRim_linkFailures (s : State) (k : Nat) (r : Rim) : (s.setRim k r).linkFailures = s.linkFailures := rfl
@[simp] theorem State.setRim_hwFault (s : State) (k : Nat) (r : Rim) : (s.setRim k r).hwFault = s.hwFault := rfl
@[simp] theorem State.setRim_hwNode (s : State) (k : Nat) (r : Rim) : (s.setRim k r).hwNode = s.hwNode := rfl
@[simp] theorem State.setRim_features (s : State) (k : Nat) (r : Rim) : (s.setRim k r).features = s.features := rfl
@[simp] theorem State.setRim_rings (s : State) (k : Nat) (r : Rim) : (s.setRim k r).rings = s.rings := rfl
@[simp] theorem State.setRim_vectors (s : State) (k : Nat) (r : Rim) : (s.setRim k r).vectors = s.vectors := rfl
@[simp] theorem State.setRim_messages (s : State) (k : Nat) (r : Rim) : (s.setRim k r).messages = s.messages := rfl
@[simp] theorem State.setRim_snapSeq (s : State) (k : Nat) (r : Rim) : (s.setRim k r).snapSeq = s.snapSeq := rfl
@[simp] theorem State.setRim_snap (s : State) (k : Nat) (r : Rim) : (s.setRim k r).snap = s.snap := rfl
@[simp] theorem State.setRim_hostMem (s : State) (k : Nat) (r : Rim) : (s.setRim k r).hostMem = s.hostMem := rfl
@[simp] theorem State.setRim_session (s : State) (k : Nat) (r : Rim) : (s.setRim k r).session = s.session := rfl
@[simp] theorem State.setRim_ide (s : State) (k : Nat) (r : Rim) : (s.setRim k r).ide = s.ide := rfl
@[simp] theorem State.setRim_debugOpen (s : State) (k : Nat) (r : Rim) : (s.setRim k r).debugOpen = s.debugOpen := rfl
@[simp] theorem State.setRim_debugWait (s : State) (k : Nat) (r : Rim) : (s.setRim k r).debugWait = s.debugWait := rfl
@[simp] theorem State.setRim_keyNumber (s : State) (k : Nat) (r : Rim) : (s.setRim k r).keyNumber = s.keyNumber := rfl
@[simp] theorem State.setRim_spares (s : State) (k : Nat) (r : Rim) : (s.setRim k r).spares = s.spares := rfl
@[simp] theorem State.setRim_diag (s : State) (k : Nat) (r : Rim) : (s.setRim k r).diag = s.diag := rfl
@[simp] theorem State.setRim_diagSources (s : State) (k : Nat) (r : Rim) : (s.setRim k r).diagSources = s.diagSources := rfl
@[simp] theorem State.setRim_heartbeats (s : State) (k : Nat) (r : Rim) : (s.setRim k r).heartbeats = s.heartbeats := rfl
@[simp] theorem State.setRim_wires (s : State) (k : Nat) (r : Rim) : (s.setRim k r).wires = s.wires := rfl
@[simp] theorem State.setRim_partitions (s : State) (k : Nat) (r : Rim) : (s.setRim k r).partitions = s.partitions := rfl
@[simp] theorem State.setRim_hubIn (s : State) (k : Nat) (r : Rim) : (s.setRim k r).hubIn = s.hubIn := rfl
@[simp] theorem State.setRim_hubOut (s : State) (k : Nat) (r : Rim) : (s.setRim k r).hubOut = s.hubOut := rfl
@[simp] theorem State.setRim_i3cReady (s : State) (k : Nat) (r : Rim) : (s.setRim k r).i3cReady = s.i3cReady := rfl
@[simp] theorem State.setRim_i3cAddress (s : State) (k : Nat) (r : Rim) : (s.setRim k r).i3cAddress = s.i3cAddress := rfl
@[simp] theorem State.setRim_i3cOffset (s : State) (k : Nat) (r : Rim) : (s.setRim k r).i3cOffset = s.i3cOffset := rfl
@[simp] theorem State.setRim_i3cAnswer (s : State) (k : Nat) (r : Rim) : (s.setRim k r).i3cAnswer = s.i3cAnswer := rfl
@[simp] theorem State.setRim_i3cAck (s : State) (k : Nat) (r : Rim) : (s.setRim k r).i3cAck = s.i3cAck := rfl
@[simp] theorem State.setRim_fresh (s : State) (k : Nat) (r : Rim) : (s.setRim k r).fresh = s.fresh := rfl
@[simp] theorem State.setRim_pending (s : State) (k : Nat) (r : Rim) : (s.setRim k r).pending = s.pending := rfl

/-! ### setRing -/

@[simp] theorem State.setRing_part (s : State) (k : Nat) (r : Ring) : (s.setRing k r).part = s.part := rfl
@[simp] theorem State.setRing_time (s : State) (k : Nat) (r : Ring) : (s.setRing k r).time = s.time := rfl
@[simp] theorem State.setRing_beat (s : State) (k : Nat) (r : Ring) : (s.setRing k r).beat = s.beat := rfl
@[simp] theorem State.setRing_transitBeat (s : State) (k : Nat) (r : Ring) : (s.setRing k r).transitBeat = s.transitBeat := rfl
@[simp] theorem State.setRing_clockLow (s : State) (k : Nat) (r : Ring) : (s.setRing k r).clockLow = s.clockLow := rfl
@[simp] theorem State.setRing_clockPending (s : State) (k : Nat) (r : Ring) : (s.setRing k r).clockPending = s.clockPending := rfl
@[simp] theorem State.setRing_clockFrom (s : State) (k : Nat) (r : Ring) : (s.setRing k r).clockFrom = s.clockFrom := rfl
@[simp] theorem State.setRing_belowSince (s : State) (k : Nat) (r : Ring) : (s.setRing k r).belowSince = s.belowSince := rfl
@[simp] theorem State.setRing_aboveSince (s : State) (k : Nat) (r : Ring) : (s.setRing k r).aboveSince = s.aboveSince := rfl
@[simp] theorem State.setRing_power (s : State) (k : Nat) (r : Ring) : (s.setRing k r).power = s.power := rfl
@[simp] theorem State.setRing_converters (s : State) (k : Nat) (r : Ring) : (s.setRing k r).converters = s.converters := rfl
@[simp] theorem State.setRing_perst (s : State) (k : Nat) (r : Ring) : (s.setRing k r).perst = s.perst := rfl
@[simp] theorem State.setRing_throt (s : State) (k : Nat) (r : Ring) : (s.setRing k r).throt = s.throt := rfl
@[simp] theorem State.setRing_throtAt (s : State) (k : Nat) (r : Ring) : (s.setRing k r).throtAt = s.throtAt := rfl
@[simp] theorem State.setRing_emerg (s : State) (k : Nat) (r : Ring) : (s.setRing k r).emerg = s.emerg := rfl
@[simp] theorem State.setRing_pwrgd (s : State) (k : Nat) (r : Ring) : (s.setRing k r).pwrgd = s.pwrgd := rfl
@[simp] theorem State.setRing_alertN (s : State) (k : Nat) (r : Ring) : (s.setRing k r).alertN = s.alertN := rfl
@[simp] theorem State.setRing_thermtripN (s : State) (k : Nat) (r : Ring) : (s.setRing k r).thermtripN = s.thermtripN := rfl
@[simp] theorem State.setRing_envelope (s : State) (k : Nat) (r : Ring) : (s.setRing k r).envelope = s.envelope := rfl
@[simp] theorem State.setRing_storedEnvelope (s : State) (k : Nat) (r : Ring) : (s.setRing k r).storedEnvelope = s.storedEnvelope := rfl
@[simp] theorem State.setRing_plim (s : State) (k : Nat) (r : Ring) : (s.setRing k r).plim = s.plim := rfl
@[simp] theorem State.setRing_beatLimit (s : State) (k : Nat) (r : Ring) : (s.setRing k r).beatLimit = s.beatLimit := rfl
@[simp] theorem State.setRing_cause (s : State) (k : Nat) (r : Ring) : (s.setRing k r).cause = s.cause := rfl
@[simp] theorem State.setRing_overhead (s : State) (k : Nat) (r : Ring) : (s.setRing k r).overhead = s.overhead := rfl
@[simp] theorem State.setRing_pinW (s : State) (k : Nat) (r : Ring) : (s.setRing k r).pinW = s.pinW := rfl
@[simp] theorem State.setRing_vin (s : State) (k : Nat) (r : Ring) : (s.setRing k r).vin = s.vin := rfl
@[simp] theorem State.setRing_coolantIn (s : State) (k : Nat) (r : Ring) : (s.setRing k r).coolantIn = s.coolantIn := rfl
@[simp] theorem State.setRing_coolantOut (s : State) (k : Nat) (r : Ring) : (s.setRing k r).coolantOut = s.coolantOut := rfl
@[simp] theorem State.setRing_junctions (s : State) (k : Nat) (r : Ring) : (s.setRing k r).junctions = s.junctions := rfl
@[simp] theorem State.setRing_inputGuard (s : State) (k : Nat) (r : Ring) : (s.setRing k r).inputGuard = s.inputGuard := rfl
@[simp] theorem State.setRing_stage (s : State) (k : Nat) (r : Ring) : (s.setRing k r).stage = s.stage := rfl
@[simp] theorem State.setRing_fallback (s : State) (k : Nat) (r : Ring) : (s.setRing k r).fallback = s.fallback := rfl
@[simp] theorem State.setRing_firmware (s : State) (k : Nat) (r : Ring) : (s.setRing k r).firmware = s.firmware := rfl
@[simp] theorem State.setRing_activeSlot (s : State) (k : Nat) (r : Ring) : (s.setRing k r).activeSlot = s.activeSlot := rfl
@[simp] theorem State.setRing_runningImage (s : State) (k : Nat) (r : Ring) : (s.setRing k r).runningImage = s.runningImage := rfl
@[simp] theorem State.setRing_keyRevoked (s : State) (k : Nat) (r : Ring) : (s.setRing k r).keyRevoked = s.keyRevoked := rfl
@[simp] theorem State.setRing_minSvn (s : State) (k : Nat) (r : Ring) : (s.setRing k r).minSvn = s.minSvn := rfl
@[simp] theorem State.setRing_bootCount (s : State) (k : Nat) (r : Ring) : (s.setRing k r).bootCount = s.bootCount := rfl
@[simp] theorem State.setRing_serial (s : State) (k : Nat) (r : Ring) : (s.setRing k r).serial = s.serial := rfl
@[simp] theorem State.setRing_meshW (s : State) (k : Nat) (r : Ring) : (s.setRing k r).meshW = s.meshW := rfl
@[simp] theorem State.setRing_meshH (s : State) (k : Nat) (r : Ring) : (s.setRing k r).meshH = s.meshH := rfl
@[simp] theorem State.setRing_row0 (s : State) (k : Nat) (r : Ring) : (s.setRing k r).row0 = s.row0 := rfl
@[simp] theorem State.setRing_meshValid (s : State) (k : Nat) (r : Ring) : (s.setRing k r).meshValid = s.meshValid := rfl
@[simp] theorem State.setRing_linkUp (s : State) (k : Nat) (r : Ring) : (s.setRing k r).linkUp = s.linkUp := rfl
@[simp] theorem State.setRing_linkRate (s : State) (k : Nat) (r : Ring) : (s.setRing k r).linkRate = s.linkRate := rfl
@[simp] theorem State.setRing_linkNarrow (s : State) (k : Nat) (r : Ring) : (s.setRing k r).linkNarrow = s.linkNarrow := rfl
@[simp] theorem State.setRing_linkFailures (s : State) (k : Nat) (r : Ring) : (s.setRing k r).linkFailures = s.linkFailures := rfl
@[simp] theorem State.setRing_hwFault (s : State) (k : Nat) (r : Ring) : (s.setRing k r).hwFault = s.hwFault := rfl
@[simp] theorem State.setRing_hwNode (s : State) (k : Nat) (r : Ring) : (s.setRing k r).hwNode = s.hwNode := rfl
@[simp] theorem State.setRing_features (s : State) (k : Nat) (r : Ring) : (s.setRing k r).features = s.features := rfl
@[simp] theorem State.setRing_vectors (s : State) (k : Nat) (r : Ring) : (s.setRing k r).vectors = s.vectors := rfl
@[simp] theorem State.setRing_messages (s : State) (k : Nat) (r : Ring) : (s.setRing k r).messages = s.messages := rfl
@[simp] theorem State.setRing_snapSeq (s : State) (k : Nat) (r : Ring) : (s.setRing k r).snapSeq = s.snapSeq := rfl
@[simp] theorem State.setRing_snap (s : State) (k : Nat) (r : Ring) : (s.setRing k r).snap = s.snap := rfl
@[simp] theorem State.setRing_hostMem (s : State) (k : Nat) (r : Ring) : (s.setRing k r).hostMem = s.hostMem := rfl
@[simp] theorem State.setRing_session (s : State) (k : Nat) (r : Ring) : (s.setRing k r).session = s.session := rfl
@[simp] theorem State.setRing_ide (s : State) (k : Nat) (r : Ring) : (s.setRing k r).ide = s.ide := rfl
@[simp] theorem State.setRing_debugOpen (s : State) (k : Nat) (r : Ring) : (s.setRing k r).debugOpen = s.debugOpen := rfl
@[simp] theorem State.setRing_debugWait (s : State) (k : Nat) (r : Ring) : (s.setRing k r).debugWait = s.debugWait := rfl
@[simp] theorem State.setRing_keyNumber (s : State) (k : Nat) (r : Ring) : (s.setRing k r).keyNumber = s.keyNumber := rfl
@[simp] theorem State.setRing_spares (s : State) (k : Nat) (r : Ring) : (s.setRing k r).spares = s.spares := rfl
@[simp] theorem State.setRing_diag (s : State) (k : Nat) (r : Ring) : (s.setRing k r).diag = s.diag := rfl
@[simp] theorem State.setRing_diagSources (s : State) (k : Nat) (r : Ring) : (s.setRing k r).diagSources = s.diagSources := rfl
@[simp] theorem State.setRing_heartbeats (s : State) (k : Nat) (r : Ring) : (s.setRing k r).heartbeats = s.heartbeats := rfl
@[simp] theorem State.setRing_wires (s : State) (k : Nat) (r : Ring) : (s.setRing k r).wires = s.wires := rfl
@[simp] theorem State.setRing_partitions (s : State) (k : Nat) (r : Ring) : (s.setRing k r).partitions = s.partitions := rfl
@[simp] theorem State.setRing_rims (s : State) (k : Nat) (r : Ring) : (s.setRing k r).rims = s.rims := rfl
@[simp] theorem State.setRing_hubIn (s : State) (k : Nat) (r : Ring) : (s.setRing k r).hubIn = s.hubIn := rfl
@[simp] theorem State.setRing_hubOut (s : State) (k : Nat) (r : Ring) : (s.setRing k r).hubOut = s.hubOut := rfl
@[simp] theorem State.setRing_i3cReady (s : State) (k : Nat) (r : Ring) : (s.setRing k r).i3cReady = s.i3cReady := rfl
@[simp] theorem State.setRing_i3cAddress (s : State) (k : Nat) (r : Ring) : (s.setRing k r).i3cAddress = s.i3cAddress := rfl
@[simp] theorem State.setRing_i3cOffset (s : State) (k : Nat) (r : Ring) : (s.setRing k r).i3cOffset = s.i3cOffset := rfl
@[simp] theorem State.setRing_i3cAnswer (s : State) (k : Nat) (r : Ring) : (s.setRing k r).i3cAnswer = s.i3cAnswer := rfl
@[simp] theorem State.setRing_i3cAck (s : State) (k : Nat) (r : Ring) : (s.setRing k r).i3cAck = s.i3cAck := rfl
@[simp] theorem State.setRing_fresh (s : State) (k : Nat) (r : Ring) : (s.setRing k r).fresh = s.fresh := rfl
@[simp] theorem State.setRing_pending (s : State) (k : Nat) (r : Ring) : (s.setRing k r).pending = s.pending := rfl

/-! ### setWire -/

@[simp] theorem State.setWire_part (s : State) (w : Nat) (x : Wires) : (s.setWire w x).part = s.part := rfl
@[simp] theorem State.setWire_time (s : State) (w : Nat) (x : Wires) : (s.setWire w x).time = s.time := rfl
@[simp] theorem State.setWire_beat (s : State) (w : Nat) (x : Wires) : (s.setWire w x).beat = s.beat := rfl
@[simp] theorem State.setWire_transitBeat (s : State) (w : Nat) (x : Wires) : (s.setWire w x).transitBeat = s.transitBeat := rfl
@[simp] theorem State.setWire_clockLow (s : State) (w : Nat) (x : Wires) : (s.setWire w x).clockLow = s.clockLow := rfl
@[simp] theorem State.setWire_clockPending (s : State) (w : Nat) (x : Wires) : (s.setWire w x).clockPending = s.clockPending := rfl
@[simp] theorem State.setWire_clockFrom (s : State) (w : Nat) (x : Wires) : (s.setWire w x).clockFrom = s.clockFrom := rfl
@[simp] theorem State.setWire_belowSince (s : State) (w : Nat) (x : Wires) : (s.setWire w x).belowSince = s.belowSince := rfl
@[simp] theorem State.setWire_aboveSince (s : State) (w : Nat) (x : Wires) : (s.setWire w x).aboveSince = s.aboveSince := rfl
@[simp] theorem State.setWire_power (s : State) (w : Nat) (x : Wires) : (s.setWire w x).power = s.power := rfl
@[simp] theorem State.setWire_converters (s : State) (w : Nat) (x : Wires) : (s.setWire w x).converters = s.converters := rfl
@[simp] theorem State.setWire_perst (s : State) (w : Nat) (x : Wires) : (s.setWire w x).perst = s.perst := rfl
@[simp] theorem State.setWire_throt (s : State) (w : Nat) (x : Wires) : (s.setWire w x).throt = s.throt := rfl
@[simp] theorem State.setWire_throtAt (s : State) (w : Nat) (x : Wires) : (s.setWire w x).throtAt = s.throtAt := rfl
@[simp] theorem State.setWire_emerg (s : State) (w : Nat) (x : Wires) : (s.setWire w x).emerg = s.emerg := rfl
@[simp] theorem State.setWire_pwrgd (s : State) (w : Nat) (x : Wires) : (s.setWire w x).pwrgd = s.pwrgd := rfl
@[simp] theorem State.setWire_alertN (s : State) (w : Nat) (x : Wires) : (s.setWire w x).alertN = s.alertN := rfl
@[simp] theorem State.setWire_thermtripN (s : State) (w : Nat) (x : Wires) : (s.setWire w x).thermtripN = s.thermtripN := rfl
@[simp] theorem State.setWire_envelope (s : State) (w : Nat) (x : Wires) : (s.setWire w x).envelope = s.envelope := rfl
@[simp] theorem State.setWire_storedEnvelope (s : State) (w : Nat) (x : Wires) : (s.setWire w x).storedEnvelope = s.storedEnvelope := rfl
@[simp] theorem State.setWire_plim (s : State) (w : Nat) (x : Wires) : (s.setWire w x).plim = s.plim := rfl
@[simp] theorem State.setWire_beatLimit (s : State) (w : Nat) (x : Wires) : (s.setWire w x).beatLimit = s.beatLimit := rfl
@[simp] theorem State.setWire_cause (s : State) (w : Nat) (x : Wires) : (s.setWire w x).cause = s.cause := rfl
@[simp] theorem State.setWire_overhead (s : State) (w : Nat) (x : Wires) : (s.setWire w x).overhead = s.overhead := rfl
@[simp] theorem State.setWire_pinW (s : State) (w : Nat) (x : Wires) : (s.setWire w x).pinW = s.pinW := rfl
@[simp] theorem State.setWire_vin (s : State) (w : Nat) (x : Wires) : (s.setWire w x).vin = s.vin := rfl
@[simp] theorem State.setWire_coolantIn (s : State) (w : Nat) (x : Wires) : (s.setWire w x).coolantIn = s.coolantIn := rfl
@[simp] theorem State.setWire_coolantOut (s : State) (w : Nat) (x : Wires) : (s.setWire w x).coolantOut = s.coolantOut := rfl
@[simp] theorem State.setWire_junctions (s : State) (w : Nat) (x : Wires) : (s.setWire w x).junctions = s.junctions := rfl
@[simp] theorem State.setWire_inputGuard (s : State) (w : Nat) (x : Wires) : (s.setWire w x).inputGuard = s.inputGuard := rfl
@[simp] theorem State.setWire_stage (s : State) (w : Nat) (x : Wires) : (s.setWire w x).stage = s.stage := rfl
@[simp] theorem State.setWire_fallback (s : State) (w : Nat) (x : Wires) : (s.setWire w x).fallback = s.fallback := rfl
@[simp] theorem State.setWire_firmware (s : State) (w : Nat) (x : Wires) : (s.setWire w x).firmware = s.firmware := rfl
@[simp] theorem State.setWire_activeSlot (s : State) (w : Nat) (x : Wires) : (s.setWire w x).activeSlot = s.activeSlot := rfl
@[simp] theorem State.setWire_runningImage (s : State) (w : Nat) (x : Wires) : (s.setWire w x).runningImage = s.runningImage := rfl
@[simp] theorem State.setWire_keyRevoked (s : State) (w : Nat) (x : Wires) : (s.setWire w x).keyRevoked = s.keyRevoked := rfl
@[simp] theorem State.setWire_minSvn (s : State) (w : Nat) (x : Wires) : (s.setWire w x).minSvn = s.minSvn := rfl
@[simp] theorem State.setWire_bootCount (s : State) (w : Nat) (x : Wires) : (s.setWire w x).bootCount = s.bootCount := rfl
@[simp] theorem State.setWire_serial (s : State) (w : Nat) (x : Wires) : (s.setWire w x).serial = s.serial := rfl
@[simp] theorem State.setWire_meshW (s : State) (w : Nat) (x : Wires) : (s.setWire w x).meshW = s.meshW := rfl
@[simp] theorem State.setWire_meshH (s : State) (w : Nat) (x : Wires) : (s.setWire w x).meshH = s.meshH := rfl
@[simp] theorem State.setWire_row0 (s : State) (w : Nat) (x : Wires) : (s.setWire w x).row0 = s.row0 := rfl
@[simp] theorem State.setWire_meshValid (s : State) (w : Nat) (x : Wires) : (s.setWire w x).meshValid = s.meshValid := rfl
@[simp] theorem State.setWire_linkUp (s : State) (w : Nat) (x : Wires) : (s.setWire w x).linkUp = s.linkUp := rfl
@[simp] theorem State.setWire_linkRate (s : State) (w : Nat) (x : Wires) : (s.setWire w x).linkRate = s.linkRate := rfl
@[simp] theorem State.setWire_linkNarrow (s : State) (w : Nat) (x : Wires) : (s.setWire w x).linkNarrow = s.linkNarrow := rfl
@[simp] theorem State.setWire_linkFailures (s : State) (w : Nat) (x : Wires) : (s.setWire w x).linkFailures = s.linkFailures := rfl
@[simp] theorem State.setWire_hwFault (s : State) (w : Nat) (x : Wires) : (s.setWire w x).hwFault = s.hwFault := rfl
@[simp] theorem State.setWire_hwNode (s : State) (w : Nat) (x : Wires) : (s.setWire w x).hwNode = s.hwNode := rfl
@[simp] theorem State.setWire_features (s : State) (w : Nat) (x : Wires) : (s.setWire w x).features = s.features := rfl
@[simp] theorem State.setWire_rings (s : State) (w : Nat) (x : Wires) : (s.setWire w x).rings = s.rings := rfl
@[simp] theorem State.setWire_vectors (s : State) (w : Nat) (x : Wires) : (s.setWire w x).vectors = s.vectors := rfl
@[simp] theorem State.setWire_messages (s : State) (w : Nat) (x : Wires) : (s.setWire w x).messages = s.messages := rfl
@[simp] theorem State.setWire_snapSeq (s : State) (w : Nat) (x : Wires) : (s.setWire w x).snapSeq = s.snapSeq := rfl
@[simp] theorem State.setWire_snap (s : State) (w : Nat) (x : Wires) : (s.setWire w x).snap = s.snap := rfl
@[simp] theorem State.setWire_hostMem (s : State) (w : Nat) (x : Wires) : (s.setWire w x).hostMem = s.hostMem := rfl
@[simp] theorem State.setWire_session (s : State) (w : Nat) (x : Wires) : (s.setWire w x).session = s.session := rfl
@[simp] theorem State.setWire_ide (s : State) (w : Nat) (x : Wires) : (s.setWire w x).ide = s.ide := rfl
@[simp] theorem State.setWire_debugOpen (s : State) (w : Nat) (x : Wires) : (s.setWire w x).debugOpen = s.debugOpen := rfl
@[simp] theorem State.setWire_debugWait (s : State) (w : Nat) (x : Wires) : (s.setWire w x).debugWait = s.debugWait := rfl
@[simp] theorem State.setWire_keyNumber (s : State) (w : Nat) (x : Wires) : (s.setWire w x).keyNumber = s.keyNumber := rfl
@[simp] theorem State.setWire_spares (s : State) (w : Nat) (x : Wires) : (s.setWire w x).spares = s.spares := rfl
@[simp] theorem State.setWire_diag (s : State) (w : Nat) (x : Wires) : (s.setWire w x).diag = s.diag := rfl
@[simp] theorem State.setWire_diagSources (s : State) (w : Nat) (x : Wires) : (s.setWire w x).diagSources = s.diagSources := rfl
@[simp] theorem State.setWire_heartbeats (s : State) (w : Nat) (x : Wires) : (s.setWire w x).heartbeats = s.heartbeats := rfl
@[simp] theorem State.setWire_partitions (s : State) (w : Nat) (x : Wires) : (s.setWire w x).partitions = s.partitions := rfl
@[simp] theorem State.setWire_rims (s : State) (w : Nat) (x : Wires) : (s.setWire w x).rims = s.rims := rfl
@[simp] theorem State.setWire_hubIn (s : State) (w : Nat) (x : Wires) : (s.setWire w x).hubIn = s.hubIn := rfl
@[simp] theorem State.setWire_hubOut (s : State) (w : Nat) (x : Wires) : (s.setWire w x).hubOut = s.hubOut := rfl
@[simp] theorem State.setWire_i3cReady (s : State) (w : Nat) (x : Wires) : (s.setWire w x).i3cReady = s.i3cReady := rfl
@[simp] theorem State.setWire_i3cAddress (s : State) (w : Nat) (x : Wires) : (s.setWire w x).i3cAddress = s.i3cAddress := rfl
@[simp] theorem State.setWire_i3cOffset (s : State) (w : Nat) (x : Wires) : (s.setWire w x).i3cOffset = s.i3cOffset := rfl
@[simp] theorem State.setWire_i3cAnswer (s : State) (w : Nat) (x : Wires) : (s.setWire w x).i3cAnswer = s.i3cAnswer := rfl
@[simp] theorem State.setWire_i3cAck (s : State) (w : Nat) (x : Wires) : (s.setWire w x).i3cAck = s.i3cAck := rfl
@[simp] theorem State.setWire_fresh (s : State) (w : Nat) (x : Wires) : (s.setWire w x).fresh = s.fresh := rfl
@[simp] theorem State.setWire_pending (s : State) (w : Nat) (x : Wires) : (s.setWire w x).pending = s.pending := rfl

/-! ### setVector -/

@[simp] theorem State.setVector_part (s : State) (v : Nat) (x : Vectors) : (s.setVector v x).part = s.part := rfl
@[simp] theorem State.setVector_time (s : State) (v : Nat) (x : Vectors) : (s.setVector v x).time = s.time := rfl
@[simp] theorem State.setVector_beat (s : State) (v : Nat) (x : Vectors) : (s.setVector v x).beat = s.beat := rfl
@[simp] theorem State.setVector_transitBeat (s : State) (v : Nat) (x : Vectors) : (s.setVector v x).transitBeat = s.transitBeat := rfl
@[simp] theorem State.setVector_clockLow (s : State) (v : Nat) (x : Vectors) : (s.setVector v x).clockLow = s.clockLow := rfl
@[simp] theorem State.setVector_clockPending (s : State) (v : Nat) (x : Vectors) : (s.setVector v x).clockPending = s.clockPending := rfl
@[simp] theorem State.setVector_clockFrom (s : State) (v : Nat) (x : Vectors) : (s.setVector v x).clockFrom = s.clockFrom := rfl
@[simp] theorem State.setVector_belowSince (s : State) (v : Nat) (x : Vectors) : (s.setVector v x).belowSince = s.belowSince := rfl
@[simp] theorem State.setVector_aboveSince (s : State) (v : Nat) (x : Vectors) : (s.setVector v x).aboveSince = s.aboveSince := rfl
@[simp] theorem State.setVector_power (s : State) (v : Nat) (x : Vectors) : (s.setVector v x).power = s.power := rfl
@[simp] theorem State.setVector_converters (s : State) (v : Nat) (x : Vectors) : (s.setVector v x).converters = s.converters := rfl
@[simp] theorem State.setVector_perst (s : State) (v : Nat) (x : Vectors) : (s.setVector v x).perst = s.perst := rfl
@[simp] theorem State.setVector_throt (s : State) (v : Nat) (x : Vectors) : (s.setVector v x).throt = s.throt := rfl
@[simp] theorem State.setVector_throtAt (s : State) (v : Nat) (x : Vectors) : (s.setVector v x).throtAt = s.throtAt := rfl
@[simp] theorem State.setVector_emerg (s : State) (v : Nat) (x : Vectors) : (s.setVector v x).emerg = s.emerg := rfl
@[simp] theorem State.setVector_pwrgd (s : State) (v : Nat) (x : Vectors) : (s.setVector v x).pwrgd = s.pwrgd := rfl
@[simp] theorem State.setVector_alertN (s : State) (v : Nat) (x : Vectors) : (s.setVector v x).alertN = s.alertN := rfl
@[simp] theorem State.setVector_thermtripN (s : State) (v : Nat) (x : Vectors) : (s.setVector v x).thermtripN = s.thermtripN := rfl
@[simp] theorem State.setVector_envelope (s : State) (v : Nat) (x : Vectors) : (s.setVector v x).envelope = s.envelope := rfl
@[simp] theorem State.setVector_storedEnvelope (s : State) (v : Nat) (x : Vectors) : (s.setVector v x).storedEnvelope = s.storedEnvelope := rfl
@[simp] theorem State.setVector_plim (s : State) (v : Nat) (x : Vectors) : (s.setVector v x).plim = s.plim := rfl
@[simp] theorem State.setVector_beatLimit (s : State) (v : Nat) (x : Vectors) : (s.setVector v x).beatLimit = s.beatLimit := rfl
@[simp] theorem State.setVector_cause (s : State) (v : Nat) (x : Vectors) : (s.setVector v x).cause = s.cause := rfl
@[simp] theorem State.setVector_overhead (s : State) (v : Nat) (x : Vectors) : (s.setVector v x).overhead = s.overhead := rfl
@[simp] theorem State.setVector_pinW (s : State) (v : Nat) (x : Vectors) : (s.setVector v x).pinW = s.pinW := rfl
@[simp] theorem State.setVector_vin (s : State) (v : Nat) (x : Vectors) : (s.setVector v x).vin = s.vin := rfl
@[simp] theorem State.setVector_coolantIn (s : State) (v : Nat) (x : Vectors) : (s.setVector v x).coolantIn = s.coolantIn := rfl
@[simp] theorem State.setVector_coolantOut (s : State) (v : Nat) (x : Vectors) : (s.setVector v x).coolantOut = s.coolantOut := rfl
@[simp] theorem State.setVector_junctions (s : State) (v : Nat) (x : Vectors) : (s.setVector v x).junctions = s.junctions := rfl
@[simp] theorem State.setVector_inputGuard (s : State) (v : Nat) (x : Vectors) : (s.setVector v x).inputGuard = s.inputGuard := rfl
@[simp] theorem State.setVector_stage (s : State) (v : Nat) (x : Vectors) : (s.setVector v x).stage = s.stage := rfl
@[simp] theorem State.setVector_fallback (s : State) (v : Nat) (x : Vectors) : (s.setVector v x).fallback = s.fallback := rfl
@[simp] theorem State.setVector_firmware (s : State) (v : Nat) (x : Vectors) : (s.setVector v x).firmware = s.firmware := rfl
@[simp] theorem State.setVector_activeSlot (s : State) (v : Nat) (x : Vectors) : (s.setVector v x).activeSlot = s.activeSlot := rfl
@[simp] theorem State.setVector_runningImage (s : State) (v : Nat) (x : Vectors) : (s.setVector v x).runningImage = s.runningImage := rfl
@[simp] theorem State.setVector_keyRevoked (s : State) (v : Nat) (x : Vectors) : (s.setVector v x).keyRevoked = s.keyRevoked := rfl
@[simp] theorem State.setVector_minSvn (s : State) (v : Nat) (x : Vectors) : (s.setVector v x).minSvn = s.minSvn := rfl
@[simp] theorem State.setVector_bootCount (s : State) (v : Nat) (x : Vectors) : (s.setVector v x).bootCount = s.bootCount := rfl
@[simp] theorem State.setVector_serial (s : State) (v : Nat) (x : Vectors) : (s.setVector v x).serial = s.serial := rfl
@[simp] theorem State.setVector_meshW (s : State) (v : Nat) (x : Vectors) : (s.setVector v x).meshW = s.meshW := rfl
@[simp] theorem State.setVector_meshH (s : State) (v : Nat) (x : Vectors) : (s.setVector v x).meshH = s.meshH := rfl
@[simp] theorem State.setVector_row0 (s : State) (v : Nat) (x : Vectors) : (s.setVector v x).row0 = s.row0 := rfl
@[simp] theorem State.setVector_meshValid (s : State) (v : Nat) (x : Vectors) : (s.setVector v x).meshValid = s.meshValid := rfl
@[simp] theorem State.setVector_linkUp (s : State) (v : Nat) (x : Vectors) : (s.setVector v x).linkUp = s.linkUp := rfl
@[simp] theorem State.setVector_linkRate (s : State) (v : Nat) (x : Vectors) : (s.setVector v x).linkRate = s.linkRate := rfl
@[simp] theorem State.setVector_linkNarrow (s : State) (v : Nat) (x : Vectors) : (s.setVector v x).linkNarrow = s.linkNarrow := rfl
@[simp] theorem State.setVector_linkFailures (s : State) (v : Nat) (x : Vectors) : (s.setVector v x).linkFailures = s.linkFailures := rfl
@[simp] theorem State.setVector_hwFault (s : State) (v : Nat) (x : Vectors) : (s.setVector v x).hwFault = s.hwFault := rfl
@[simp] theorem State.setVector_hwNode (s : State) (v : Nat) (x : Vectors) : (s.setVector v x).hwNode = s.hwNode := rfl
@[simp] theorem State.setVector_features (s : State) (v : Nat) (x : Vectors) : (s.setVector v x).features = s.features := rfl
@[simp] theorem State.setVector_rings (s : State) (v : Nat) (x : Vectors) : (s.setVector v x).rings = s.rings := rfl
@[simp] theorem State.setVector_messages (s : State) (v : Nat) (x : Vectors) : (s.setVector v x).messages = s.messages := rfl
@[simp] theorem State.setVector_snapSeq (s : State) (v : Nat) (x : Vectors) : (s.setVector v x).snapSeq = s.snapSeq := rfl
@[simp] theorem State.setVector_snap (s : State) (v : Nat) (x : Vectors) : (s.setVector v x).snap = s.snap := rfl
@[simp] theorem State.setVector_hostMem (s : State) (v : Nat) (x : Vectors) : (s.setVector v x).hostMem = s.hostMem := rfl
@[simp] theorem State.setVector_session (s : State) (v : Nat) (x : Vectors) : (s.setVector v x).session = s.session := rfl
@[simp] theorem State.setVector_ide (s : State) (v : Nat) (x : Vectors) : (s.setVector v x).ide = s.ide := rfl
@[simp] theorem State.setVector_debugOpen (s : State) (v : Nat) (x : Vectors) : (s.setVector v x).debugOpen = s.debugOpen := rfl
@[simp] theorem State.setVector_debugWait (s : State) (v : Nat) (x : Vectors) : (s.setVector v x).debugWait = s.debugWait := rfl
@[simp] theorem State.setVector_keyNumber (s : State) (v : Nat) (x : Vectors) : (s.setVector v x).keyNumber = s.keyNumber := rfl
@[simp] theorem State.setVector_spares (s : State) (v : Nat) (x : Vectors) : (s.setVector v x).spares = s.spares := rfl
@[simp] theorem State.setVector_diag (s : State) (v : Nat) (x : Vectors) : (s.setVector v x).diag = s.diag := rfl
@[simp] theorem State.setVector_diagSources (s : State) (v : Nat) (x : Vectors) : (s.setVector v x).diagSources = s.diagSources := rfl
@[simp] theorem State.setVector_heartbeats (s : State) (v : Nat) (x : Vectors) : (s.setVector v x).heartbeats = s.heartbeats := rfl
@[simp] theorem State.setVector_wires (s : State) (v : Nat) (x : Vectors) : (s.setVector v x).wires = s.wires := rfl
@[simp] theorem State.setVector_partitions (s : State) (v : Nat) (x : Vectors) : (s.setVector v x).partitions = s.partitions := rfl
@[simp] theorem State.setVector_rims (s : State) (v : Nat) (x : Vectors) : (s.setVector v x).rims = s.rims := rfl
@[simp] theorem State.setVector_hubIn (s : State) (v : Nat) (x : Vectors) : (s.setVector v x).hubIn = s.hubIn := rfl
@[simp] theorem State.setVector_hubOut (s : State) (v : Nat) (x : Vectors) : (s.setVector v x).hubOut = s.hubOut := rfl
@[simp] theorem State.setVector_i3cReady (s : State) (v : Nat) (x : Vectors) : (s.setVector v x).i3cReady = s.i3cReady := rfl
@[simp] theorem State.setVector_i3cAddress (s : State) (v : Nat) (x : Vectors) : (s.setVector v x).i3cAddress = s.i3cAddress := rfl
@[simp] theorem State.setVector_i3cOffset (s : State) (v : Nat) (x : Vectors) : (s.setVector v x).i3cOffset = s.i3cOffset := rfl
@[simp] theorem State.setVector_i3cAnswer (s : State) (v : Nat) (x : Vectors) : (s.setVector v x).i3cAnswer = s.i3cAnswer := rfl
@[simp] theorem State.setVector_i3cAck (s : State) (v : Nat) (x : Vectors) : (s.setVector v x).i3cAck = s.i3cAck := rfl
@[simp] theorem State.setVector_fresh (s : State) (v : Nat) (x : Vectors) : (s.setVector v x).fresh = s.fresh := rfl
@[simp] theorem State.setVector_pending (s : State) (v : Nat) (x : Vectors) : (s.setVector v x).pending = s.pending := rfl

/-! ### hostWrite -/

@[simp] theorem State.hostWrite_part (s : State) (a : Nat) (bs : List Byte) : (s.hostWrite a bs).part = s.part := rfl
@[simp] theorem State.hostWrite_time (s : State) (a : Nat) (bs : List Byte) : (s.hostWrite a bs).time = s.time := rfl
@[simp] theorem State.hostWrite_beat (s : State) (a : Nat) (bs : List Byte) : (s.hostWrite a bs).beat = s.beat := rfl
@[simp] theorem State.hostWrite_transitBeat (s : State) (a : Nat) (bs : List Byte) : (s.hostWrite a bs).transitBeat = s.transitBeat := rfl
@[simp] theorem State.hostWrite_clockLow (s : State) (a : Nat) (bs : List Byte) : (s.hostWrite a bs).clockLow = s.clockLow := rfl
@[simp] theorem State.hostWrite_clockPending (s : State) (a : Nat) (bs : List Byte) : (s.hostWrite a bs).clockPending = s.clockPending := rfl
@[simp] theorem State.hostWrite_clockFrom (s : State) (a : Nat) (bs : List Byte) : (s.hostWrite a bs).clockFrom = s.clockFrom := rfl
@[simp] theorem State.hostWrite_belowSince (s : State) (a : Nat) (bs : List Byte) : (s.hostWrite a bs).belowSince = s.belowSince := rfl
@[simp] theorem State.hostWrite_aboveSince (s : State) (a : Nat) (bs : List Byte) : (s.hostWrite a bs).aboveSince = s.aboveSince := rfl
@[simp] theorem State.hostWrite_power (s : State) (a : Nat) (bs : List Byte) : (s.hostWrite a bs).power = s.power := rfl
@[simp] theorem State.hostWrite_converters (s : State) (a : Nat) (bs : List Byte) : (s.hostWrite a bs).converters = s.converters := rfl
@[simp] theorem State.hostWrite_perst (s : State) (a : Nat) (bs : List Byte) : (s.hostWrite a bs).perst = s.perst := rfl
@[simp] theorem State.hostWrite_throt (s : State) (a : Nat) (bs : List Byte) : (s.hostWrite a bs).throt = s.throt := rfl
@[simp] theorem State.hostWrite_throtAt (s : State) (a : Nat) (bs : List Byte) : (s.hostWrite a bs).throtAt = s.throtAt := rfl
@[simp] theorem State.hostWrite_emerg (s : State) (a : Nat) (bs : List Byte) : (s.hostWrite a bs).emerg = s.emerg := rfl
@[simp] theorem State.hostWrite_pwrgd (s : State) (a : Nat) (bs : List Byte) : (s.hostWrite a bs).pwrgd = s.pwrgd := rfl
@[simp] theorem State.hostWrite_alertN (s : State) (a : Nat) (bs : List Byte) : (s.hostWrite a bs).alertN = s.alertN := rfl
@[simp] theorem State.hostWrite_thermtripN (s : State) (a : Nat) (bs : List Byte) : (s.hostWrite a bs).thermtripN = s.thermtripN := rfl
@[simp] theorem State.hostWrite_envelope (s : State) (a : Nat) (bs : List Byte) : (s.hostWrite a bs).envelope = s.envelope := rfl
@[simp] theorem State.hostWrite_storedEnvelope (s : State) (a : Nat) (bs : List Byte) : (s.hostWrite a bs).storedEnvelope = s.storedEnvelope := rfl
@[simp] theorem State.hostWrite_plim (s : State) (a : Nat) (bs : List Byte) : (s.hostWrite a bs).plim = s.plim := rfl
@[simp] theorem State.hostWrite_beatLimit (s : State) (a : Nat) (bs : List Byte) : (s.hostWrite a bs).beatLimit = s.beatLimit := rfl
@[simp] theorem State.hostWrite_cause (s : State) (a : Nat) (bs : List Byte) : (s.hostWrite a bs).cause = s.cause := rfl
@[simp] theorem State.hostWrite_overhead (s : State) (a : Nat) (bs : List Byte) : (s.hostWrite a bs).overhead = s.overhead := rfl
@[simp] theorem State.hostWrite_pinW (s : State) (a : Nat) (bs : List Byte) : (s.hostWrite a bs).pinW = s.pinW := rfl
@[simp] theorem State.hostWrite_vin (s : State) (a : Nat) (bs : List Byte) : (s.hostWrite a bs).vin = s.vin := rfl
@[simp] theorem State.hostWrite_coolantIn (s : State) (a : Nat) (bs : List Byte) : (s.hostWrite a bs).coolantIn = s.coolantIn := rfl
@[simp] theorem State.hostWrite_coolantOut (s : State) (a : Nat) (bs : List Byte) : (s.hostWrite a bs).coolantOut = s.coolantOut := rfl
@[simp] theorem State.hostWrite_junctions (s : State) (a : Nat) (bs : List Byte) : (s.hostWrite a bs).junctions = s.junctions := rfl
@[simp] theorem State.hostWrite_inputGuard (s : State) (a : Nat) (bs : List Byte) : (s.hostWrite a bs).inputGuard = s.inputGuard := rfl
@[simp] theorem State.hostWrite_stage (s : State) (a : Nat) (bs : List Byte) : (s.hostWrite a bs).stage = s.stage := rfl
@[simp] theorem State.hostWrite_fallback (s : State) (a : Nat) (bs : List Byte) : (s.hostWrite a bs).fallback = s.fallback := rfl
@[simp] theorem State.hostWrite_firmware (s : State) (a : Nat) (bs : List Byte) : (s.hostWrite a bs).firmware = s.firmware := rfl
@[simp] theorem State.hostWrite_activeSlot (s : State) (a : Nat) (bs : List Byte) : (s.hostWrite a bs).activeSlot = s.activeSlot := rfl
@[simp] theorem State.hostWrite_runningImage (s : State) (a : Nat) (bs : List Byte) : (s.hostWrite a bs).runningImage = s.runningImage := rfl
@[simp] theorem State.hostWrite_keyRevoked (s : State) (a : Nat) (bs : List Byte) : (s.hostWrite a bs).keyRevoked = s.keyRevoked := rfl
@[simp] theorem State.hostWrite_minSvn (s : State) (a : Nat) (bs : List Byte) : (s.hostWrite a bs).minSvn = s.minSvn := rfl
@[simp] theorem State.hostWrite_bootCount (s : State) (a : Nat) (bs : List Byte) : (s.hostWrite a bs).bootCount = s.bootCount := rfl
@[simp] theorem State.hostWrite_serial (s : State) (a : Nat) (bs : List Byte) : (s.hostWrite a bs).serial = s.serial := rfl
@[simp] theorem State.hostWrite_meshW (s : State) (a : Nat) (bs : List Byte) : (s.hostWrite a bs).meshW = s.meshW := rfl
@[simp] theorem State.hostWrite_meshH (s : State) (a : Nat) (bs : List Byte) : (s.hostWrite a bs).meshH = s.meshH := rfl
@[simp] theorem State.hostWrite_row0 (s : State) (a : Nat) (bs : List Byte) : (s.hostWrite a bs).row0 = s.row0 := rfl
@[simp] theorem State.hostWrite_meshValid (s : State) (a : Nat) (bs : List Byte) : (s.hostWrite a bs).meshValid = s.meshValid := rfl
@[simp] theorem State.hostWrite_linkUp (s : State) (a : Nat) (bs : List Byte) : (s.hostWrite a bs).linkUp = s.linkUp := rfl
@[simp] theorem State.hostWrite_linkRate (s : State) (a : Nat) (bs : List Byte) : (s.hostWrite a bs).linkRate = s.linkRate := rfl
@[simp] theorem State.hostWrite_linkNarrow (s : State) (a : Nat) (bs : List Byte) : (s.hostWrite a bs).linkNarrow = s.linkNarrow := rfl
@[simp] theorem State.hostWrite_linkFailures (s : State) (a : Nat) (bs : List Byte) : (s.hostWrite a bs).linkFailures = s.linkFailures := rfl
@[simp] theorem State.hostWrite_hwFault (s : State) (a : Nat) (bs : List Byte) : (s.hostWrite a bs).hwFault = s.hwFault := rfl
@[simp] theorem State.hostWrite_hwNode (s : State) (a : Nat) (bs : List Byte) : (s.hostWrite a bs).hwNode = s.hwNode := rfl
@[simp] theorem State.hostWrite_features (s : State) (a : Nat) (bs : List Byte) : (s.hostWrite a bs).features = s.features := rfl
@[simp] theorem State.hostWrite_rings (s : State) (a : Nat) (bs : List Byte) : (s.hostWrite a bs).rings = s.rings := rfl
@[simp] theorem State.hostWrite_vectors (s : State) (a : Nat) (bs : List Byte) : (s.hostWrite a bs).vectors = s.vectors := rfl
@[simp] theorem State.hostWrite_messages (s : State) (a : Nat) (bs : List Byte) : (s.hostWrite a bs).messages = s.messages := rfl
@[simp] theorem State.hostWrite_snapSeq (s : State) (a : Nat) (bs : List Byte) : (s.hostWrite a bs).snapSeq = s.snapSeq := rfl
@[simp] theorem State.hostWrite_snap (s : State) (a : Nat) (bs : List Byte) : (s.hostWrite a bs).snap = s.snap := rfl
@[simp] theorem State.hostWrite_session (s : State) (a : Nat) (bs : List Byte) : (s.hostWrite a bs).session = s.session := rfl
@[simp] theorem State.hostWrite_ide (s : State) (a : Nat) (bs : List Byte) : (s.hostWrite a bs).ide = s.ide := rfl
@[simp] theorem State.hostWrite_debugOpen (s : State) (a : Nat) (bs : List Byte) : (s.hostWrite a bs).debugOpen = s.debugOpen := rfl
@[simp] theorem State.hostWrite_debugWait (s : State) (a : Nat) (bs : List Byte) : (s.hostWrite a bs).debugWait = s.debugWait := rfl
@[simp] theorem State.hostWrite_keyNumber (s : State) (a : Nat) (bs : List Byte) : (s.hostWrite a bs).keyNumber = s.keyNumber := rfl
@[simp] theorem State.hostWrite_spares (s : State) (a : Nat) (bs : List Byte) : (s.hostWrite a bs).spares = s.spares := rfl
@[simp] theorem State.hostWrite_diag (s : State) (a : Nat) (bs : List Byte) : (s.hostWrite a bs).diag = s.diag := rfl
@[simp] theorem State.hostWrite_diagSources (s : State) (a : Nat) (bs : List Byte) : (s.hostWrite a bs).diagSources = s.diagSources := rfl
@[simp] theorem State.hostWrite_heartbeats (s : State) (a : Nat) (bs : List Byte) : (s.hostWrite a bs).heartbeats = s.heartbeats := rfl
@[simp] theorem State.hostWrite_wires (s : State) (a : Nat) (bs : List Byte) : (s.hostWrite a bs).wires = s.wires := rfl
@[simp] theorem State.hostWrite_partitions (s : State) (a : Nat) (bs : List Byte) : (s.hostWrite a bs).partitions = s.partitions := rfl
@[simp] theorem State.hostWrite_rims (s : State) (a : Nat) (bs : List Byte) : (s.hostWrite a bs).rims = s.rims := rfl
@[simp] theorem State.hostWrite_hubIn (s : State) (a : Nat) (bs : List Byte) : (s.hostWrite a bs).hubIn = s.hubIn := rfl
@[simp] theorem State.hostWrite_hubOut (s : State) (a : Nat) (bs : List Byte) : (s.hostWrite a bs).hubOut = s.hubOut := rfl
@[simp] theorem State.hostWrite_i3cReady (s : State) (a : Nat) (bs : List Byte) : (s.hostWrite a bs).i3cReady = s.i3cReady := rfl
@[simp] theorem State.hostWrite_i3cAddress (s : State) (a : Nat) (bs : List Byte) : (s.hostWrite a bs).i3cAddress = s.i3cAddress := rfl
@[simp] theorem State.hostWrite_i3cOffset (s : State) (a : Nat) (bs : List Byte) : (s.hostWrite a bs).i3cOffset = s.i3cOffset := rfl
@[simp] theorem State.hostWrite_i3cAnswer (s : State) (a : Nat) (bs : List Byte) : (s.hostWrite a bs).i3cAnswer = s.i3cAnswer := rfl
@[simp] theorem State.hostWrite_i3cAck (s : State) (a : Nat) (bs : List Byte) : (s.hostWrite a bs).i3cAck = s.i3cAck := rfl
@[simp] theorem State.hostWrite_fresh (s : State) (a : Nat) (bs : List Byte) : (s.hostWrite a bs).fresh = s.fresh := rfl
@[simp] theorem State.hostWrite_pending (s : State) (a : Nat) (bs : List Byte) : (s.hostWrite a bs).pending = s.pending := rfl

/-! ### putDie -/

@[simp] theorem State.putDie_part (s : State) (x : Site) (d : Die) : (s.putDie x d).part = s.part := rfl
@[simp] theorem State.putDie_time (s : State) (x : Site) (d : Die) : (s.putDie x d).time = s.time := rfl
@[simp] theorem State.putDie_beat (s : State) (x : Site) (d : Die) : (s.putDie x d).beat = s.beat := rfl
@[simp] theorem State.putDie_transitBeat (s : State) (x : Site) (d : Die) : (s.putDie x d).transitBeat = s.transitBeat := rfl
@[simp] theorem State.putDie_clockLow (s : State) (x : Site) (d : Die) : (s.putDie x d).clockLow = s.clockLow := rfl
@[simp] theorem State.putDie_clockPending (s : State) (x : Site) (d : Die) : (s.putDie x d).clockPending = s.clockPending := rfl
@[simp] theorem State.putDie_clockFrom (s : State) (x : Site) (d : Die) : (s.putDie x d).clockFrom = s.clockFrom := rfl
@[simp] theorem State.putDie_belowSince (s : State) (x : Site) (d : Die) : (s.putDie x d).belowSince = s.belowSince := rfl
@[simp] theorem State.putDie_aboveSince (s : State) (x : Site) (d : Die) : (s.putDie x d).aboveSince = s.aboveSince := rfl
@[simp] theorem State.putDie_power (s : State) (x : Site) (d : Die) : (s.putDie x d).power = s.power := rfl
@[simp] theorem State.putDie_converters (s : State) (x : Site) (d : Die) : (s.putDie x d).converters = s.converters := rfl
@[simp] theorem State.putDie_perst (s : State) (x : Site) (d : Die) : (s.putDie x d).perst = s.perst := rfl
@[simp] theorem State.putDie_throt (s : State) (x : Site) (d : Die) : (s.putDie x d).throt = s.throt := rfl
@[simp] theorem State.putDie_throtAt (s : State) (x : Site) (d : Die) : (s.putDie x d).throtAt = s.throtAt := rfl
@[simp] theorem State.putDie_emerg (s : State) (x : Site) (d : Die) : (s.putDie x d).emerg = s.emerg := rfl
@[simp] theorem State.putDie_pwrgd (s : State) (x : Site) (d : Die) : (s.putDie x d).pwrgd = s.pwrgd := rfl
@[simp] theorem State.putDie_alertN (s : State) (x : Site) (d : Die) : (s.putDie x d).alertN = s.alertN := rfl
@[simp] theorem State.putDie_thermtripN (s : State) (x : Site) (d : Die) : (s.putDie x d).thermtripN = s.thermtripN := rfl
@[simp] theorem State.putDie_envelope (s : State) (x : Site) (d : Die) : (s.putDie x d).envelope = s.envelope := rfl
@[simp] theorem State.putDie_storedEnvelope (s : State) (x : Site) (d : Die) : (s.putDie x d).storedEnvelope = s.storedEnvelope := rfl
@[simp] theorem State.putDie_plim (s : State) (x : Site) (d : Die) : (s.putDie x d).plim = s.plim := rfl
@[simp] theorem State.putDie_beatLimit (s : State) (x : Site) (d : Die) : (s.putDie x d).beatLimit = s.beatLimit := rfl
@[simp] theorem State.putDie_cause (s : State) (x : Site) (d : Die) : (s.putDie x d).cause = s.cause := rfl
@[simp] theorem State.putDie_overhead (s : State) (x : Site) (d : Die) : (s.putDie x d).overhead = s.overhead := rfl
@[simp] theorem State.putDie_pinW (s : State) (x : Site) (d : Die) : (s.putDie x d).pinW = s.pinW := rfl
@[simp] theorem State.putDie_vin (s : State) (x : Site) (d : Die) : (s.putDie x d).vin = s.vin := rfl
@[simp] theorem State.putDie_coolantIn (s : State) (x : Site) (d : Die) : (s.putDie x d).coolantIn = s.coolantIn := rfl
@[simp] theorem State.putDie_coolantOut (s : State) (x : Site) (d : Die) : (s.putDie x d).coolantOut = s.coolantOut := rfl
@[simp] theorem State.putDie_junctions (s : State) (x : Site) (d : Die) : (s.putDie x d).junctions = s.junctions := rfl
@[simp] theorem State.putDie_inputGuard (s : State) (x : Site) (d : Die) : (s.putDie x d).inputGuard = s.inputGuard := rfl
@[simp] theorem State.putDie_stage (s : State) (x : Site) (d : Die) : (s.putDie x d).stage = s.stage := rfl
@[simp] theorem State.putDie_fallback (s : State) (x : Site) (d : Die) : (s.putDie x d).fallback = s.fallback := rfl
@[simp] theorem State.putDie_firmware (s : State) (x : Site) (d : Die) : (s.putDie x d).firmware = s.firmware := rfl
@[simp] theorem State.putDie_activeSlot (s : State) (x : Site) (d : Die) : (s.putDie x d).activeSlot = s.activeSlot := rfl
@[simp] theorem State.putDie_runningImage (s : State) (x : Site) (d : Die) : (s.putDie x d).runningImage = s.runningImage := rfl
@[simp] theorem State.putDie_keyRevoked (s : State) (x : Site) (d : Die) : (s.putDie x d).keyRevoked = s.keyRevoked := rfl
@[simp] theorem State.putDie_minSvn (s : State) (x : Site) (d : Die) : (s.putDie x d).minSvn = s.minSvn := rfl
@[simp] theorem State.putDie_bootCount (s : State) (x : Site) (d : Die) : (s.putDie x d).bootCount = s.bootCount := rfl
@[simp] theorem State.putDie_serial (s : State) (x : Site) (d : Die) : (s.putDie x d).serial = s.serial := rfl
@[simp] theorem State.putDie_meshW (s : State) (x : Site) (d : Die) : (s.putDie x d).meshW = s.meshW := rfl
@[simp] theorem State.putDie_meshH (s : State) (x : Site) (d : Die) : (s.putDie x d).meshH = s.meshH := rfl
@[simp] theorem State.putDie_row0 (s : State) (x : Site) (d : Die) : (s.putDie x d).row0 = s.row0 := rfl
@[simp] theorem State.putDie_meshValid (s : State) (x : Site) (d : Die) : (s.putDie x d).meshValid = s.meshValid := rfl
@[simp] theorem State.putDie_linkUp (s : State) (x : Site) (d : Die) : (s.putDie x d).linkUp = s.linkUp := rfl
@[simp] theorem State.putDie_linkRate (s : State) (x : Site) (d : Die) : (s.putDie x d).linkRate = s.linkRate := rfl
@[simp] theorem State.putDie_linkNarrow (s : State) (x : Site) (d : Die) : (s.putDie x d).linkNarrow = s.linkNarrow := rfl
@[simp] theorem State.putDie_linkFailures (s : State) (x : Site) (d : Die) : (s.putDie x d).linkFailures = s.linkFailures := rfl
@[simp] theorem State.putDie_hwFault (s : State) (x : Site) (d : Die) : (s.putDie x d).hwFault = s.hwFault := rfl
@[simp] theorem State.putDie_hwNode (s : State) (x : Site) (d : Die) : (s.putDie x d).hwNode = s.hwNode := rfl
@[simp] theorem State.putDie_features (s : State) (x : Site) (d : Die) : (s.putDie x d).features = s.features := rfl
@[simp] theorem State.putDie_rings (s : State) (x : Site) (d : Die) : (s.putDie x d).rings = s.rings := rfl
@[simp] theorem State.putDie_vectors (s : State) (x : Site) (d : Die) : (s.putDie x d).vectors = s.vectors := rfl
@[simp] theorem State.putDie_messages (s : State) (x : Site) (d : Die) : (s.putDie x d).messages = s.messages := rfl
@[simp] theorem State.putDie_snapSeq (s : State) (x : Site) (d : Die) : (s.putDie x d).snapSeq = s.snapSeq := rfl
@[simp] theorem State.putDie_snap (s : State) (x : Site) (d : Die) : (s.putDie x d).snap = s.snap := rfl
@[simp] theorem State.putDie_hostMem (s : State) (x : Site) (d : Die) : (s.putDie x d).hostMem = s.hostMem := rfl
@[simp] theorem State.putDie_session (s : State) (x : Site) (d : Die) : (s.putDie x d).session = s.session := rfl
@[simp] theorem State.putDie_ide (s : State) (x : Site) (d : Die) : (s.putDie x d).ide = s.ide := rfl
@[simp] theorem State.putDie_debugOpen (s : State) (x : Site) (d : Die) : (s.putDie x d).debugOpen = s.debugOpen := rfl
@[simp] theorem State.putDie_debugWait (s : State) (x : Site) (d : Die) : (s.putDie x d).debugWait = s.debugWait := rfl
@[simp] theorem State.putDie_keyNumber (s : State) (x : Site) (d : Die) : (s.putDie x d).keyNumber = s.keyNumber := rfl
@[simp] theorem State.putDie_spares (s : State) (x : Site) (d : Die) : (s.putDie x d).spares = s.spares := rfl
@[simp] theorem State.putDie_diag (s : State) (x : Site) (d : Die) : (s.putDie x d).diag = s.diag := rfl
@[simp] theorem State.putDie_diagSources (s : State) (x : Site) (d : Die) : (s.putDie x d).diagSources = s.diagSources := rfl
@[simp] theorem State.putDie_heartbeats (s : State) (x : Site) (d : Die) : (s.putDie x d).heartbeats = s.heartbeats := rfl
@[simp] theorem State.putDie_wires (s : State) (x : Site) (d : Die) : (s.putDie x d).wires = s.wires := rfl
@[simp] theorem State.putDie_rims (s : State) (x : Site) (d : Die) : (s.putDie x d).rims = s.rims := rfl
@[simp] theorem State.putDie_hubIn (s : State) (x : Site) (d : Die) : (s.putDie x d).hubIn = s.hubIn := rfl
@[simp] theorem State.putDie_hubOut (s : State) (x : Site) (d : Die) : (s.putDie x d).hubOut = s.hubOut := rfl
@[simp] theorem State.putDie_i3cReady (s : State) (x : Site) (d : Die) : (s.putDie x d).i3cReady = s.i3cReady := rfl
@[simp] theorem State.putDie_i3cAddress (s : State) (x : Site) (d : Die) : (s.putDie x d).i3cAddress = s.i3cAddress := rfl
@[simp] theorem State.putDie_i3cOffset (s : State) (x : Site) (d : Die) : (s.putDie x d).i3cOffset = s.i3cOffset := rfl
@[simp] theorem State.putDie_i3cAnswer (s : State) (x : Site) (d : Die) : (s.putDie x d).i3cAnswer = s.i3cAnswer := rfl
@[simp] theorem State.putDie_i3cAck (s : State) (x : Site) (d : Die) : (s.putDie x d).i3cAck = s.i3cAck := rfl
@[simp] theorem State.putDie_fresh (s : State) (x : Site) (d : Die) : (s.putDie x d).fresh = s.fresh := rfl
@[simp] theorem State.putDie_pending (s : State) (x : Site) (d : Die) : (s.putDie x d).pending = s.pending := rfl

/-! ### Reading back -/

@[simp] theorem State.partition?_setPartition (s : State) (p q : Nat) (x : Partition) :
    (s.setPartition p x).partition? q = if q = p then some x else s.partition? q := Sparse.get?_set _ _ _ _

@[simp] theorem State.rim_setRim (s : State) (k j : Nat) (r : Rim) :
    (s.setRim k r).rim j = if j = k then r else s.rim j := Sparse.getD_set _ _ _ _ _

@[simp] theorem State.ring_setRing (s : State) (k j : Nat) (r : Ring) :
    (s.setRing k r).ring j = if j = k then r else s.ring j := Sparse.getD_set _ _ _ _ _

@[simp] theorem State.wire_setWire (s : State) (w v : Nat) (x : Wires) :
    (s.setWire w x).wire v = if v = w then x else s.wire v := Sparse.getD_set _ _ _ _ _

@[simp] theorem State.vector_setVector (s : State) (v w : Nat) (x : Vectors) :
    (s.setVector v x).vector w = if w = v then x else s.vector w := Sparse.getD_set _ _ _ _ _

@[simp] theorem Partition.die_setDie (x : Partition) (d e : Nat) (v : Die) :
    (x.setDie d v).die e = if e = d then v else x.die e := Sparse.getD_set _ _ _ _ _

@[simp] theorem Partition.context?_setContext (x : Partition) (c e : Nat) (v : Context) :
    (x.setContext c v).context? e = if e = c then some v else x.context? e := Sparse.get?_set _ _ _ _

@[simp] theorem Die.mtile_setMtile (d : Die) (t u : Nat) (x : MTile) :
    (d.setMtile t x).mtile u = if u = t then x else d.mtile u := Sparse.getD_set _ _ _ _ _

@[simp] theorem Die.vtile_setVtile (d : Die) (t u : Nat) (x : VTile) :
    (d.setVtile t x).vtile u = if u = t then x else d.vtile u := Sparse.getD_set _ _ _ _ _

@[simp] theorem Die.core_setCore (d : Die) (c e : Nat) (x : Core) :
    (d.setCore c x).core e = if e = c then x else d.core e := Sparse.getD_set _ _ _ _ _

@[simp] theorem VTile.reg_setReg (t : VTile) (r q : Nat) (v : List W32) :
    (t.setReg r v).reg q = if q = r then v else t.reg q := Sparse.getD_set _ _ _ _ _

@[simp] theorem Die.eventCount_setEvent (d : Die) (e f n : Nat) :
    (d.setEvent e n).eventCount f = if f = e then n else d.eventCount f := Sparse.getD_setD _ _ _ _ _

/-- A byte of host memory after a write. -/
theorem State.hostByte_hostWrite (s : State) (a : Nat) (bs : List Byte) (b : Nat) :
    (s.hostWrite a bs).hostByte b = if a ≤ b ∧ b < a + bs.length then bs.getD (b - a) 0 else s.hostByte b := by
  unfold State.hostByte State.hostWrite
  simp only [Mem.get?_record]
  split
  · rename_i h
    rw [List.getElem?_eq_getElem (by omega), List.getD_eq_getElem?_getD, List.getElem?_eq_getElem (by omega)]
    rfl
  · rfl

end Sys2Proof.Machine
end

