-- ==== Sys2Proof/Laws/Issue.lean ====
section
/-! SUPPORT. What issuing a word does when it may issue, in one lemma per kind of tile, and reading accumulator memory after an
update. -/

namespace Sys2Proof.Machine

/-- An M-tile word that may issue and that its command accepts has the effect of its meaning. -/
theorem runM_issues {s : State} {t : MRef} {w : BitVec 128} {x : Site} {op : MOp} (h : MIssues s t w x op)
    (accept : MOp → Bool) (f : Site → MTile → MOp → Effect)
    (ha : ∀ raw, effectiveM (x.die.mtile t.tile).prog raw = op → accept raw = true) :
    runM s t.part t.die t.tile w accept f = s.apply x (advanceM t.tile) (f x (x.die.mtile t.tile) op) := by
  obtain ⟨raw, hd, he⟩ := h.decoded
  have hi := h.inside
  unfold runM
  simp only [h.site, h.goes, h.running, h.open_, h.free, h.unheld, h.clean, h.stored, hd, ha raw he, he, h.legal, h.placed]
  simp
  omega

/-- A V-tile word that may issue and that its command accepts has the effect of its meaning. -/
theorem runV_issues {s : State} {t : VRef} {w : W64} {x : Site} {op : VOp} (h : VIssues s t w x op)
    (accept : VOp → Bool) (f : Site → VTile → VOp → Effect)
    (ha : ∀ raw, effectiveV (x.die.vtile t.tile).prog raw = op → accept raw = true) :
    runV s t.part t.die t.tile w accept f = s.apply x (advanceV t.tile) (f x (x.die.vtile t.tile) op) := by
  obtain ⟨raw, hd, he⟩ := h.decoded
  have hi := h.inside
  have hr := h.room
  have hn := h.nested
  unfold runV
  simp only [h.site, h.goes, h.running, h.open_, h.free, h.clean, h.stored, hd, ha raw he, he, h.legal, h.unheld]
  cases op with
  | word g => simp [Nat.not_lt.2 hi, Nat.not_lt.2 hr]
  | loop b c r a => simp [hn b c r a rfl, Nat.not_lt.2 hi, Nat.not_lt.2 hr]

/-- A C-tile word that may issue and that its command accepts has the effect of its meaning. -/
theorem runC_issues {s : State} {c : CRef} {w : W32} {x : Site} {f : CFields} (h : CIssues s c w x f)
    (accept : CFields → Bool) (g : Site → Core → CFields → Effect) (ha : accept f = true) :
    runC s c.part c.die c.core w accept g = s.apply x id (g x (x.die.core c.core) f) := by
  have hi := h.inside
  unfold runC
  simp only [h.site, h.goes, h.running, h.free, h.clean, h.stored, h.decoded, ha, h.unheld]
  simp
  omega

/-- The operation of a loop's iteration is of the same kind as the word. -/
theorem effectiveM_kind (p : Prog) (raw : MOp) :
    (∀ f, effectiveM p raw = .mma f → ∃ g, raw = .mma g ∧ g.vector = f.vector) ∧
    (∀ a b c d e f, effectiveM p raw = .drn a b c d e f → ∃ a' e', raw = .drn a' b c d e' f) ∧
    (∀ a, effectiveM p raw = .acz a → ∃ a', raw = .acz a') ∧
    (∀ a b c, effectiveM p raw = .acl a b c → ∃ a' c', raw = .acl a' b c') ∧
    (∀ a b c, effectiveM p raw = .gap a b c → raw = .gap a b c) ∧
    (∀ e, effectiveM p raw = .wait e → raw = .wait e) ∧
    (∀ e, effectiveM p raw = .sig e → raw = .sig e) ∧
    (∀ a b c d e, effectiveM p raw = .loop a b c d e → raw = .loop a b c d e) ∧
    (effectiveM p raw = .finish → raw = .finish) := by
  unfold effectiveM
  cases p.loop with
  | none =>
    refine ⟨?_, ?_, ?_, ?_, ?_, ?_, ?_, ?_, ?_⟩ <;> intros <;> simp_all
  | some l =>
    refine ⟨?_, ?_, ?_, ?_, ?_, ?_, ?_, ?_, ?_⟩ <;> intros <;> rename_i h <;> cases raw <;> simp [MOp.advance] at h ⊢ <;>
      simp_all [← h]

/-- The operation of a loop's iteration has the word's opcode. -/
theorem effectiveV_isV (p : Prog) (raw : VOp) (op : Nat) : isV op (effectiveV p raw) = isV op raw := by
  unfold effectiveV
  cases raw with
  | loop b c r a => cases p.loop <;> rfl
  | word f =>
    cases p.loop with
    | none => rfl
    | some l => rfl

/-- An element of accumulator memory after a tile's update. -/
theorem accAt_accUpdate (acc : SMap W64) (t : Nat) (f : Nat → Option W64) (u e : Nat) (he : e < tileElems) :
    accAt (accUpdate acc t f) u e = if u = t then (f e).getD (accAt acc t e) else accAt acc u e := by
  unfold accAt accUpdate Sparse.getD
  rw [Sparse.get?_putList]
  simp only [List.length_map, List.length_range]
  by_cases h : u = t
  · subst h
    rw [if_pos (by omega), if_pos rfl, show u * tileElems + e - u * tileElems = e by omega]
    rw [List.getD_eq_getElem?_getD, List.getElem?_map, List.getElem?_range he]
    simp only [Option.map_some, Option.getD_some, accAt, Sparse.getD]
    by_cases hz : (f e).getD ((Sparse.get? acc (u * tileElems + e)).getD 0#64) = 0#64 <;> simp [hz]
  · rw [if_neg h, if_neg]
    intro hh
    have : u = t := by
      have h1 : (u * tileElems + e) / tileElems = u := by
        rw [Nat.mul_comm, Nat.mul_add_div (by decide), Nat.div_eq_of_lt he, Nat.add_zero]
      have h2 : (u * tileElems + e) / tileElems = t := by
        apply Nat.div_eq_of_lt_le <;> unfold tileElems at * <;> omega
      omega
    exact h this

end Sys2Proof.Machine
end

