-- ==== Sys2Proof/Laws/Quiet.lean ====
section
/-! SUPPORT. Frame lemmas of the commands that do not touch the module-level view: each answers a next state
with that view unchanged. -/

namespace Sys2Proof.Machine

@[simp] theorem execMma_view (t : MRef) (w : BitVec 128) (s : State) : outView (execMma t w s) = some s.view := by simp [execMma]

@[simp] theorem execMmv_view (t : MRef) (w : BitVec 128) (s : State) : outView (execMmv t w s) = some s.view := by simp [execMmv]

@[simp] theorem execDrn_view (t : MRef) (w : BitVec 128) (s : State) : outView (execDrn t w s) = some s.view := by simp [execDrn]

@[simp] theorem execAcz_view (t : MRef) (w : BitVec 128) (s : State) : outView (execAcz t w s) = some s.view := by simp [execAcz]

@[simp] theorem execAcl_view (t : MRef) (w : BitVec 128) (s : State) : outView (execAcl t w s) = some s.view := by simp [execAcl]

@[simp] theorem execGap_view (t : MRef) (w : BitVec 128) (s : State) : outView (execGap t w s) = some s.view := by simp [execGap]

@[simp] theorem execMtWait_view (t : MRef) (w : BitVec 128) (s : State) : outView (execMtWait t w s) = some s.view := by simp [execMtWait]

@[simp] theorem execMtSig_view (t : MRef) (w : BitVec 128) (s : State) : outView (execMtSig t w s) = some s.view := by simp [execMtSig]

@[simp] theorem execMtLoop_view (t : MRef) (w : BitVec 128) (s : State) : outView (execMtLoop t w s) = some s.view := by simp [execMtLoop]

@[simp] theorem execMtEnd_view (t : MRef) (w : BitVec 128) (s : State) : outView (execMtEnd t w s) = some s.view := by simp [execMtEnd]

@[simp] theorem execAccumulatorEntryStart_view (t : MRef) (bank : Fin 2) (s : State) : outView (execAccumulatorEntryStart t bank s) = some s.view := by
  unfold execAccumulatorEntryStart; split <;> simp

@[simp] theorem execSpill_view (t : MRef) (s : State) : outView (execSpill t s) = some s.view := by
  unfold execSpill; split <;> simp

@[simp] theorem execArrayResultReady_view (t : MRef) (s : State) : outView (execArrayResultReady t s) = some s.view := by
  unfold execArrayResultReady; split <;> simp

@[simp] theorem execFadd_view (t : VRef) (w : W64) (s : State) : outView (execFadd t w s) = some s.view := by simp [execFadd]

@[simp] theorem execFsub_view (t : VRef) (w : W64) (s : State) : outView (execFsub t w s) = some s.view := by simp [execFsub]

@[simp] theorem execFmul_view (t : VRef) (w : W64) (s : State) : outView (execFmul t w s) = some s.view := by simp [execFmul]

@[simp] theorem execFma_view (t : VRef) (w : W64) (s : State) : outView (execFma t w s) = some s.view := by simp [execFma]

@[simp] theorem execFnma_view (t : VRef) (w : W64) (s : State) : outView (execFnma t w s) = some s.view := by simp [execFnma]

@[simp] theorem execFmin_view (t : VRef) (w : W64) (s : State) : outView (execFmin t w s) = some s.view := by simp [execFmin]

@[simp] theorem execFmax_view (t : VRef) (w : W64) (s : State) : outView (execFmax t w s) = some s.view := by simp [execFmax]

@[simp] theorem execFsgn_view (t : VRef) (w : W64) (s : State) : outView (execFsgn t w s) = some s.view := by simp [execFsgn]

@[simp] theorem execFcmp_view (t : VRef) (w : W64) (s : State) : outView (execFcmp t w s) = some s.view := by simp [execFcmp]

@[simp] theorem execSel_view (t : VRef) (w : W64) (s : State) : outView (execSel t w s) = some s.view := by simp [execSel]

@[simp] theorem execIalu_view (t : VRef) (w : W64) (s : State) : outView (execIalu t w s) = some s.view := by simp [execIalu]

@[simp] theorem execSfu_view (t : VRef) (w : W64) (s : State) : outView (execSfu t w s) = some s.view := by simp [execSfu]

@[simp] theorem execCvt_view (t : VRef) (w : W64) (s : State) : outView (execCvt t w s) = some s.view := by simp [execCvt]

@[simp] theorem execCvmx_view (t : VRef) (w : W64) (s : State) : outView (execCvmx t w s) = some s.view := by simp [execCvmx]

@[simp] theorem execDvmx_view (t : VRef) (w : W64) (s : State) : outView (execDvmx t w s) = some s.view := by simp [execDvmx]

@[simp] theorem execCvb_view (t : VRef) (w : W64) (s : State) : outView (execCvb t w s) = some s.view := by simp [execCvb]

@[simp] theorem execRsum_view (t : VRef) (w : W64) (s : State) : outView (execRsum t w s) = some s.view := by simp [execRsum]

@[simp] theorem execRmax_view (t : VRef) (w : W64) (s : State) : outView (execRmax t w s) = some s.view := by simp [execRmax]

@[simp] theorem execRmin_view (t : VRef) (w : W64) (s : State) : outView (execRmin t w s) = some s.view := by simp [execRmin]

@[simp] theorem execRdot_view (t : VRef) (w : W64) (s : State) : outView (execRdot t w s) = some s.view := by simp [execRdot]

@[simp] theorem execLd_view (t : VRef) (w : W64) (s : State) : outView (execLd t w s) = some s.view := by simp [execLd]

@[simp] theorem execSt_view (t : VRef) (w : W64) (s : State) : outView (execSt t w s) = some s.view := by simp [execSt]

@[simp] theorem execLdb_view (t : VRef) (w : W64) (s : State) : outView (execLdb t w s) = some s.view := by simp [execLdb]

@[simp] theorem execPut_view (t : VRef) (w : W64) (s : State) : outView (execPut t w s) = some s.view := by simp [execPut]

@[simp] theorem execVtWait_view (t : VRef) (w : W64) (s : State) : outView (execVtWait t w s) = some s.view := by simp [execVtWait]

@[simp] theorem execVtSig_view (t : VRef) (w : W64) (s : State) : outView (execVtSig t w s) = some s.view := by simp [execVtSig]

@[simp] theorem execVtLoop_view (t : VRef) (w : W64) (s : State) : outView (execVtLoop t w s) = some s.view := by simp [execVtLoop]

@[simp] theorem execVtEnd_view (t : VRef) (w : W64) (s : State) : outView (execVtEnd t w s) = some s.view := by simp [execVtEnd]

@[simp] theorem execCtInteger_view (c : CRef) (w : W32) (s : State) : outView (execCtInteger c w s) = some s.view := by simp [execCtInteger]

@[simp] theorem execCtIntegerImmediate_view (c : CRef) (w : W32) (s : State) : outView (execCtIntegerImmediate c w s) = some s.view := by simp [execCtIntegerImmediate]

@[simp] theorem execShiftIn_view (c : CRef) (w : W32) (s : State) : outView (execShiftIn c w s) = some s.view := by simp [execShiftIn]

@[simp] theorem execMultiply_view (c : CRef) (w : W32) (s : State) : outView (execMultiply c w s) = some s.view := by simp [execMultiply]

@[simp] theorem execDivide_view (c : CRef) (w : W32) (s : State) : outView (execDivide c w s) = some s.view := by simp [execDivide]

@[simp] theorem execCtLoad_view (c : CRef) (w : W32) (s : State) : outView (execCtLoad c w s) = some s.view := by simp [execCtLoad]

@[simp] theorem execCtStore_view (c : CRef) (w : W32) (s : State) : outView (execCtStore c w s) = some s.view := by simp [execCtStore]

@[simp] theorem execDieRead_view (c : CRef) (w : W32) (s : State) : outView (execDieRead c w s) = some s.view := by simp [execDieRead]

@[simp] theorem execDieWrite_view (c : CRef) (w : W32) (s : State) : outView (execDieWrite c w s) = some s.view := by simp [execDieWrite]

@[simp] theorem execFence_view (c : CRef) (w : W32) (s : State) : outView (execFence c w s) = some s.view := by simp [execFence]

@[simp] theorem execBranch_view (c : CRef) (w : W32) (s : State) : outView (execBranch c w s) = some s.view := by simp [execBranch]

@[simp] theorem execJal_view (c : CRef) (w : W32) (s : State) : outView (execJal c w s) = some s.view := by simp [execJal]

@[simp] theorem execJalr_view (c : CRef) (w : W32) (s : State) : outView (execJalr c w s) = some s.view := by simp [execJalr]

@[simp] theorem execTsend_view (c : CRef) (w : W32) (s : State) : outView (execTsend c w s) = some s.view := by simp [execTsend]

@[simp] theorem execTrecv_view (c : CRef) (w : W32) (s : State) : outView (execTrecv c w s) = some s.view := by simp [execTrecv]

@[simp] theorem execTpoll_view (c : CRef) (w : W32) (s : State) : outView (execTpoll c w s) = some s.view := by simp [execTpoll]

@[simp] theorem execSeqPortRead_view (c : CRef) (w : W32) (s : State) : outView (execSeqPortRead c w s) = some s.view := by simp [execSeqPortRead]

@[simp] theorem execSeqPortSignal_view (c : CRef) (w : W32) (s : State) : outView (execSeqPortSignal c w s) = some s.view := by simp [execSeqPortSignal]

@[simp] theorem execSeqPortWait_view (c : CRef) (w : W32) (s : State) : outView (execSeqPortWait c w s) = some s.view := by simp [execSeqPortWait]

@[simp] theorem execSeqPortSetReady_view (c : CRef) (w : W32) (s : State) : outView (execSeqPortSetReady c w s) = some s.view := by simp [execSeqPortSetReady]

@[simp] theorem execCtFault_view (c : CRef) (w : W32) (s : State) : outView (execCtFault c w s) = some s.view := by simp [execCtFault]

@[simp] theorem execCtEnd_view (c : CRef) (w : W32) (s : State) : outView (execCtEnd c w s) = some s.view := by simp [execCtEnd]

@[simp] theorem execEventWaitComplete_view (d : DRef) (event : BitVec 8) (s : State) : outView (execEventWaitComplete d event s) = some s.view := by
  unfold execEventWaitComplete
  repeat' first
    | with_reducible rfl
    | refine Eq.trans (foldl_view _ _ _ (fun t a => ?_)) ?_
    | refine Eq.trans (foldRange_view _ _ _ (fun t a => ?_)) ?_
    | simp
    | intro _
    | exact State.reserveEntry_view _ _ _ _ _ ‹_›
    | exact State.deliverPacket_view _ _ _ _ _ _ ‹_›
    | simp [apply_ite State.view]
    | split

@[simp] theorem execCreditHoldTimeout_view (d : DRef) (s : State) : outView (execCreditHoldTimeout d s) = some s.view := by
  unfold execCreditHoldTimeout; repeat' split
  all_goals first | rfl | simp

@[simp] theorem execSequencerStart_view (d : DRef) (s : State) : outView (execSequencerStart d s) = some s.view := by
  unfold execSequencerStart; repeat' split
  all_goals first | rfl | simp

@[simp] theorem execSequencerSignal_view (d : DRef) (s : State) : outView (execSequencerSignal d s) = some s.view := by
  unfold execSequencerSignal; repeat' split
  all_goals first | rfl | simp

@[simp] theorem execSyncPoint_view (d : DRef) (s : State) : outView (execSyncPoint d s) = some s.view := by
  unfold execSyncPoint
  repeat' first
    | with_reducible rfl
    | refine Eq.trans (foldl_view _ _ _ (fun t a => ?_)) ?_
    | refine Eq.trans (foldRange_view _ _ _ (fun t a => ?_)) ?_
    | simp
    | intro _
    | exact State.reserveEntry_view _ _ _ _ _ ‹_›
    | exact State.deliverPacket_view _ _ _ _ _ _ ‹_›
    | simp [apply_ite State.view]
    | split

@[simp] theorem execSyncTimeout_view (d : DRef) (flag : Fin 16) (s : State) : outView (execSyncTimeout d flag s) = some s.view := by
  unfold execSyncTimeout; repeat' split
  all_goals first | rfl | simp

@[simp] theorem execRoundAdmission_view (p : PartId) (s : State) : outView (execRoundAdmission p s) = some s.view := by
  unfold execRoundAdmission
  repeat' first
    | with_reducible rfl
    | refine Eq.trans (foldl_view _ _ _ (fun t a => ?_)) ?_
    | refine Eq.trans (foldRange_view _ _ _ (fun t a => ?_)) ?_
    | simp
    | intro _
    | exact State.reserveEntry_view _ _ _ _ _ ‹_›
    | exact State.deliverPacket_view _ _ _ _ _ _ ‹_›
    | simp [apply_ite State.view]
    | split

@[simp] theorem execHeldRoundAdmit_view (p : PartId) (s : State) : outView (execHeldRoundAdmit p s) = some s.view := by
  unfold execHeldRoundAdmit
  repeat' first
    | with_reducible rfl
    | refine Eq.trans (foldl_view _ _ _ (fun t a => ?_)) ?_
    | refine Eq.trans (foldRange_view _ _ _ (fun t a => ?_)) ?_
    | simp
    | intro _
    | exact State.reserveEntry_view _ _ _ _ _ ‹_›
    | exact State.deliverPacket_view _ _ _ _ _ _ ‹_›
    | simp [apply_ite State.view]
    | split

@[simp] theorem execRoundStart_view (p : PartId) (s : State) : outView (execRoundStart p s) = some s.view := by
  unfold execRoundStart
  repeat' first
    | with_reducible rfl
    | refine Eq.trans (foldl_view _ _ _ (fun t a => ?_)) ?_
    | refine Eq.trans (foldRange_view _ _ _ (fun t a => ?_)) ?_
    | simp
    | intro _
    | exact State.reserveEntry_view _ _ _ _ _ ‹_›
    | exact State.deliverPacket_view _ _ _ _ _ _ ‹_›
    | simp [apply_ite State.view]
    | split

@[simp] theorem execStepEnd_view (p : PartId) (s : State) : outView (execStepEnd p s) = some s.view := by
  unfold execStepEnd
  repeat' first
    | with_reducible rfl
    | refine Eq.trans (foldl_view _ _ _ (fun t a => ?_)) ?_
    | refine Eq.trans (foldRange_view _ _ _ (fun t a => ?_)) ?_
    | simp
    | intro _
    | exact State.reserveEntry_view _ _ _ _ _ ‹_›
    | exact State.deliverPacket_view _ _ _ _ _ _ ‹_›
    | simp [apply_ite State.view]
    | split

@[simp] theorem execErrorResponseDecision_view (p : PartId) (s : State) : outView (execErrorResponseDecision p s) = some s.view := by
  unfold execErrorResponseDecision; repeat' split
  all_goals first | rfl | simp

@[simp] theorem execResync_view (p : PartId) (s : State) : outView (execResync p s) = some s.view := by
  unfold execResync
  repeat' first
    | with_reducible rfl
    | refine Eq.trans (foldl_view _ _ _ (fun t a => ?_)) ?_
    | refine Eq.trans (foldRange_view _ _ _ (fun t a => ?_)) ?_
    | simp
    | intro _
    | exact State.reserveEntry_view _ _ _ _ _ ‹_›
    | exact State.deliverPacket_view _ _ _ _ _ _ ‹_›
    | simp [apply_ite State.view]
    | split

@[simp] theorem execLedgerWindowEnd_view (meanW vin overheadW : Nat) (s : State) : outView (execLedgerWindowEnd meanW vin overheadW s) = some s.view := by
  unfold execLedgerWindowEnd; split <;> simp

@[simp] theorem execReconciliation_view (p : PartId) (measuredUj : Nat) (s : State) : outView (execReconciliation p measuredUj s) = some s.view := by
  unfold execReconciliation; repeat' split
  all_goals first | rfl | simp

@[simp] theorem execDomainFreeze_view (p : PartId) (s : State) : outView (execDomainFreeze p s) = some s.view := by
  unfold execDomainFreeze; repeat' split
  all_goals first | rfl | simp

@[simp] theorem execDomainResume_view (p : PartId) (s : State) : outView (execDomainResume p s) = some s.view := by
  unfold execDomainResume; repeat' split
  all_goals first | rfl | simp

@[simp] theorem execReEntry_view (wire : Wire) (s : State) : outView (execReEntry wire s) = some s.view := by
  unfold execReEntry
  repeat' first
    | with_reducible rfl
    | refine Eq.trans (foldl_view _ _ _ (fun t a => ?_)) ?_
    | refine Eq.trans (foldRange_view _ _ _ (fun t a => ?_)) ?_
    | simp
    | intro _
    | exact State.reserveEntry_view _ _ _ _ _ ‹_›
    | exact State.deliverPacket_view _ _ _ _ _ _ ‹_›
    | simp [apply_ite State.view]
    | split

@[simp] theorem execBelayTimeout_view (wire : Wire) (s : State) : outView (execBelayTimeout wire s) = some s.view := by
  unfold execBelayTimeout
  repeat' first
    | with_reducible rfl
    | refine Eq.trans (foldl_view _ _ _ (fun t a => ?_)) ?_
    | refine Eq.trans (foldRange_view _ _ _ (fun t a => ?_)) ?_
    | simp
    | intro _
    | exact State.reserveEntry_view _ _ _ _ _ ‹_›
    | exact State.deliverPacket_view _ _ _ _ _ _ ‹_›
    | simp [apply_ite State.view]
    | split

@[simp] theorem execSlotEntry_view (d : DRef) (s : State) : outView (execSlotEntry d s) = some s.view := by
  unfold execSlotEntry
  repeat' first
    | with_reducible rfl
    | refine Eq.trans (foldl_view _ _ _ (fun t a => ?_)) ?_
    | refine Eq.trans (foldRange_view _ _ _ (fun t a => ?_)) ?_
    | simp
    | intro _
    | exact State.reserveEntry_view _ _ _ _ _ ‹_›
    | exact State.deliverPacket_view _ _ _ _ _ _ ‹_›
    | simp [apply_ite State.view]
    | split

@[simp] theorem execFabricDelivery_view (d : DRef) (s : State) : outView (execFabricDelivery d s) = some s.view := by
  unfold execFabricDelivery
  repeat' first
    | with_reducible rfl
    | refine Eq.trans (foldl_view _ _ _ (fun t a => ?_)) ?_
    | refine Eq.trans (foldRange_view _ _ _ (fun t a => ?_)) ?_
    | simp
    | intro _
    | exact State.reserveEntry_view _ _ _ _ _ ‹_›
    | exact State.deliverPacket_view _ _ _ _ _ _ ‹_›
    | simp [apply_ite State.view]
    | split

@[simp] theorem execPushArrival_view (d : DRef) (queue : Fin 20) (s : State) : outView (execPushArrival d queue s) = some s.view := by
  unfold execPushArrival
  repeat' first
    | with_reducible rfl
    | refine Eq.trans (foldl_view _ _ _ (fun t a => ?_)) ?_
    | refine Eq.trans (foldRange_view _ _ _ (fun t a => ?_)) ?_
    | simp
    | intro _
    | exact State.reserveEntry_view _ _ _ _ _ ‹_›
    | exact State.deliverPacket_view _ _ _ _ _ _ ‹_›
    | simp [apply_ite State.view]
    | split

@[simp] theorem execTerminusFirstPass_view (d : DRef) (term : Fin 32) (s : State) : outView (execTerminusFirstPass d term s) = some s.view := by
  unfold execTerminusFirstPass; dsimp only
  repeat' split
  all_goals simp

@[simp] theorem execTerminusSecondPass_view (d : DRef) (term : Fin 32) (s : State) : outView (execTerminusSecondPass d term s) = some s.view := by
  unfold execTerminusSecondPass; dsimp only
  repeat' split
  all_goals simp

@[simp] theorem execFlitCheckFailure_view (p : PartId) (at_ : CheckPlace) (s : State) : outView (execFlitCheckFailure p at_ s) = some s.view := by
  have h : ∀ (l : List Nat) (a : Nat) (u : State), (l.foldl (fun t k => t.detectedError p k none
      (.flitCheck p a)) u).view = u.view := fun l a u => foldl_view _ _ _ (fun t k => by simp)
  unfold execFlitCheckFailure; dsimp only
  repeat' split
  all_goals first
    | rfl
    | (simp only [outView_next, State.hardFault_view, h, State.responseDue_view, State.raise_view]; rfl)

@[simp] theorem execLinkLoss_view (a b : Node) (s : State) : outView (execLinkLoss a b s) = some s.view := by
  unfold execLinkLoss; split <;> simp

@[simp] theorem execTetherWordCheckFailure_view (a b : Node) (s : State) : outView (execTetherWordCheckFailure a b s) = some s.view := by
  unfold execTetherWordCheckFailure; split <;> simp

@[simp] theorem execTetherDelivery_view (p : PartId) (position : Nat) (s : State) : outView (execTetherDelivery p position s) = some s.view := by
  unfold execTetherDelivery
  repeat' first
    | with_reducible rfl
    | refine Eq.trans (foldl_view _ _ _ (fun t a => ?_)) ?_
    | refine Eq.trans (foldRange_view _ _ _ (fun t a => ?_)) ?_
    | simp
    | intro _
    | exact State.reserveEntry_view _ _ _ _ _ ‹_›
    | exact State.deliverPacket_view _ _ _ _ _ _ ‹_›
    | simp [apply_ite State.view]
    | split

@[simp] theorem execIadd32_view (rim : RimId) (unit : BitVec 31) (operand : BitVec 512) (mask : BitVec 16) (s : State) : outView (execIadd32 rim unit operand mask s) = some s.view := by simp [execIadd32]

@[simp] theorem execIadd64_view (rim : RimId) (unit : BitVec 31) (operand : BitVec 512) (mask : BitVec 16) (s : State) : outView (execIadd64 rim unit operand mask s) = some s.view := by simp [execIadd64]

@[simp] theorem execImin32_view (rim : RimId) (unit : BitVec 31) (operand : BitVec 512) (mask : BitVec 16) (s : State) : outView (execImin32 rim unit operand mask s) = some s.view := by simp [execImin32]

@[simp] theorem execImax32_view (rim : RimId) (unit : BitVec 31) (operand : BitVec 512) (mask : BitVec 16) (s : State) : outView (execImax32 rim unit operand mask s) = some s.view := by simp [execImax32]

@[simp] theorem execUmin32_view (rim : RimId) (unit : BitVec 31) (operand : BitVec 512) (mask : BitVec 16) (s : State) : outView (execUmin32 rim unit operand mask s) = some s.view := by simp [execUmin32]

@[simp] theorem execUmax32_view (rim : RimId) (unit : BitVec 31) (operand : BitVec 512) (mask : BitVec 16) (s : State) : outView (execUmax32 rim unit operand mask s) = some s.view := by simp [execUmax32]

@[simp] theorem execImin64_view (rim : RimId) (unit : BitVec 31) (operand : BitVec 512) (mask : BitVec 16) (s : State) : outView (execImin64 rim unit operand mask s) = some s.view := by simp [execImin64]

@[simp] theorem execImax64_view (rim : RimId) (unit : BitVec 31) (operand : BitVec 512) (mask : BitVec 16) (s : State) : outView (execImax64 rim unit operand mask s) = some s.view := by simp [execImax64]

@[simp] theorem execBsiadd_view (rim : RimId) (unit : BitVec 31) (operand : BitVec 512) (mask : BitVec 16) (s : State) : outView (execBsiadd rim unit operand mask s) = some s.view := by simp [execBsiadd]

@[simp] theorem execXfadd_view (rim : RimId) (unit : BitVec 31) (operand : BitVec 512) (mask : BitVec 16) (window : BitVec 9) (s : State) : outView (execXfadd rim unit operand mask window s) = some s.view := by simp [execXfadd]

@[simp] theorem execFinalize_view (rim : RimId) (unit : BitVec 31) (s : State) : outView (execFinalize rim unit s) = some s.view := by simp [execFinalize]

@[simp] theorem execFlush_view (rim : RimId) (unit : BitVec 31) (s : State) : outView (execFlush rim unit s) = some s.view := by simp [execFlush]

@[simp] theorem execRefresh_view (rim : RimId) (channel : Fin 64) (s : State) : outView (execRefresh rim channel s) = some s.view := by
  unfold execRefresh; split <;> simp

@[simp] theorem execScrubOwed_view (rim : RimId) (s : State) : outView (execScrubOwed rim s) = some s.view := by
  unfold execScrubOwed
  repeat' first
    | with_reducible rfl
    | refine Eq.trans (foldl_view _ _ _ (fun t a => ?_)) ?_
    | refine Eq.trans (foldRange_view _ _ _ (fun t a => ?_)) ?_
    | simp
    | intro _
    | exact State.reserveEntry_view _ _ _ _ _ ‹_›
    | exact State.deliverPacket_view _ _ _ _ _ _ ‹_›
    | simp [apply_ite State.view]
    | split

@[simp] theorem execScrub_view (rim : RimId) (unit : BitVec 31) (symbols : Fin 73) (s : State) : outView (execScrub rim unit symbols s) = some s.view := by
  unfold execScrub
  repeat' first
    | with_reducible rfl
    | refine Eq.trans (foldl_view _ _ _ (fun t a => ?_)) ?_
    | refine Eq.trans (foldRange_view _ _ _ (fun t a => ?_)) ?_
    | simp
    | intro _
    | exact State.reserveEntry_view _ _ _ _ _ ‹_›
    | exact State.deliverPacket_view _ _ _ _ _ _ ‹_›
    | simp [apply_ite State.view]
    | split

@[simp] theorem execCalibration_view (rim : RimId) (s : State) : outView (execCalibration rim s) = some s.view := by
  unfold execCalibration
  repeat' first
    | with_reducible rfl
    | refine Eq.trans (foldl_view _ _ _ (fun t a => ?_)) ?_
    | refine Eq.trans (foldRange_view _ _ _ (fun t a => ?_)) ?_
    | simp
    | intro _
    | exact State.reserveEntry_view _ _ _ _ _ ‹_›
    | exact State.deliverPacket_view _ _ _ _ _ _ ‹_›
    | simp [apply_ite State.view]
    | split

@[simp] theorem execForcedCalibration_view (rim : RimId) (s : State) : outView (execForcedCalibration rim s) = some s.view := by
  unfold execForcedCalibration
  repeat' first
    | with_reducible rfl
    | refine Eq.trans (foldl_view _ _ _ (fun t a => ?_)) ?_
    | refine Eq.trans (foldRange_view _ _ _ (fun t a => ?_)) ?_
    | simp
    | intro _
    | exact State.reserveEntry_view _ _ _ _ _ ‹_›
    | exact State.deliverPacket_view _ _ _ _ _ _ ‹_›
    | simp [apply_ite State.view]
    | split

@[simp] theorem execCalibrationComplete_view (rim : RimId) (s : State) : outView (execCalibrationComplete rim s) = some s.view := by
  unfold execCalibrationComplete
  repeat' first
    | with_reducible rfl
    | refine Eq.trans (foldl_view _ _ _ (fun t a => ?_)) ?_
    | refine Eq.trans (foldRange_view _ _ _ (fun t a => ?_)) ?_
    | simp
    | intro _
    | exact State.reserveEntry_view _ _ _ _ _ ‹_›
    | exact State.deliverPacket_view _ _ _ _ _ _ ‹_›
    | simp [apply_ite State.view]
    | split

@[simp] theorem execReadStream_view (e : EngRef) (s : State) : outView (execReadStream e s) = some s.view := by simp [execReadStream]

@[simp] theorem execGather_view (e : EngRef) (s : State) : outView (execGather e s) = some s.view := by simp [execGather]

@[simp] theorem execWriteStream_view (e : EngRef) (s : State) : outView (execWriteStream e s) = some s.view := by simp [execWriteStream]

@[simp] theorem execOperationStream_view (e : EngRef) (s : State) : outView (execOperationStream e s) = some s.view := by simp [execOperationStream]

@[simp] theorem execScatter_view (e : EngRef) (s : State) : outView (execScatter e s) = some s.view := by simp [execScatter]

@[simp] theorem execIndexedOperation_view (e : EngRef) (s : State) : outView (execIndexedOperation e s) = some s.view := by simp [execIndexedOperation]

@[simp] theorem execHankRead_view (e : EngRef) (s : State) : outView (execHankRead e s) = some s.view := by
  unfold execHankRead; repeat' split
  all_goals first | rfl | simp

@[simp] theorem execNullDescriptor_view (e : EngRef) (s : State) : outView (execNullDescriptor e s) = some s.view := by
  unfold execNullDescriptor; repeat' split
  all_goals simp

@[simp] theorem execHankWait_view (e : EngRef) (s : State) : outView (execHankWait e s) = some s.view := by simp [execHankWait]

@[simp] theorem execStagingPullCheck_view (e : EngRef) (s : State) : outView (execStagingPullCheck e s) = some s.view := by
  unfold execStagingPullCheck
  repeat' first
    | with_reducible rfl
    | refine Eq.trans (foldl_view _ _ _ (fun t a => ?_)) ?_
    | refine Eq.trans (foldRange_view _ _ _ (fun t a => ?_)) ?_
    | simp
    | intro _
    | exact State.reserveEntry_view _ _ _ _ _ ‹_›
    | exact State.deliverPacket_view _ _ _ _ _ _ ‹_›
    | simp [apply_ite State.view]
    | split

@[simp] theorem execStagingFlitComplete_view (e : EngRef) (s : State) : outView (execStagingFlitComplete e s) = some s.view := by
  unfold execStagingFlitComplete
  repeat' first
    | with_reducible rfl
    | refine Eq.trans (foldl_view _ _ _ (fun t a => ?_)) ?_
    | refine Eq.trans (foldRange_view _ _ _ (fun t a => ?_)) ?_
    | simp
    | intro _
    | exact State.reserveEntry_view _ _ _ _ _ ‹_›
    | exact State.deliverPacket_view _ _ _ _ _ _ ‹_›
    | simp [apply_ite State.view]
    | split

@[simp] theorem execStagingHankTimeout_view (e : EngRef) (s : State) : outView (execStagingHankTimeout e s) = some s.view := by
  unfold execStagingHankTimeout
  repeat' first
    | with_reducible rfl
    | refine Eq.trans (foldl_view _ _ _ (fun t a => ?_)) ?_
    | refine Eq.trans (foldRange_view _ _ _ (fun t a => ?_)) ?_
    | simp
    | intro _
    | exact State.reserveEntry_view _ _ _ _ _ ‹_›
    | exact State.deliverPacket_view _ _ _ _ _ _ ‹_›
    | simp [apply_ite State.view]
    | split

@[simp] theorem execReceivePlaceCheck_view (e : EngRef) (hank : Bool) (s : State) : outView (execReceivePlaceCheck e hank s) = some s.view := by
  unfold execReceivePlaceCheck
  repeat' first
    | with_reducible rfl
    | refine Eq.trans (foldl_view _ _ _ (fun t a => ?_)) ?_
    | refine Eq.trans (foldRange_view _ _ _ (fun t a => ?_)) ?_
    | simp
    | intro _
    | exact State.reserveEntry_view _ _ _ _ _ ‹_›
    | exact State.deliverPacket_view _ _ _ _ _ _ ‹_›
    | simp [apply_ite State.view]
    | split

@[simp] theorem execStagingPlaceFree_view (e : EngRef) (hank : Bool) (s : State) : outView (execStagingPlaceFree e hank s) = some s.view := by
  unfold execStagingPlaceFree
  repeat' first
    | with_reducible rfl
    | refine Eq.trans (foldl_view _ _ _ (fun t a => ?_)) ?_
    | refine Eq.trans (foldRange_view _ _ _ (fun t a => ?_)) ?_
    | simp
    | intro _
    | exact State.reserveEntry_view _ _ _ _ _ ‹_›
    | exact State.deliverPacket_view _ _ _ _ _ _ ‹_›
    | simp [apply_ite State.view]
    | split

@[simp] theorem execRimEdgePull_view (rim : RimId) (port : Fin 16) (s : State) : outView (execRimEdgePull rim port s) = some s.view := by
  unfold execRimEdgePull; repeat' split
  all_goals first | rfl | simp

@[simp] theorem execRimEdgeReceive_view (rim : RimId) (port : Fin 16) (s : State) : outView (execRimEdgeReceive rim port s) = some s.view := by
  unfold execRimEdgeReceive
  repeat' first
    | with_reducible rfl
    | refine Eq.trans (foldl_view _ _ _ (fun t a => ?_)) ?_
    | refine Eq.trans (foldRange_view _ _ _ (fun t a => ?_)) ?_
    | simp
    | intro _
    | exact State.reserveEntry_view _ _ _ _ _ ‹_›
    | exact State.deliverPacket_view _ _ _ _ _ _ ‹_›
    | simp [apply_ite State.view]
    | split

@[simp] theorem execBindOffCheck_view (rim : RimId) (s : State) : outView (execBindOffCheck rim s) = some s.view := by
  unfold execBindOffCheck
  repeat' first
    | with_reducible rfl
    | refine Eq.trans (foldl_view _ _ _ (fun t a => ?_)) ?_
    | refine Eq.trans (foldRange_view _ _ _ (fun t a => ?_)) ?_
    | simp
    | intro _
    | exact State.reserveEntry_view _ _ _ _ _ ‹_›
    | exact State.deliverPacket_view _ _ _ _ _ _ ‹_›
    | simp [apply_ite State.view]
    | split

@[simp] theorem execBindOffRelease_view (rim : RimId) (s : State) : outView (execBindOffRelease rim s) = some s.view := by
  unfold execBindOffRelease; repeat' split
  all_goals first | rfl | simp

@[simp] theorem execRestoreHoldRelease_view (p : PartId) (s : State) : outView (execRestoreHoldRelease p s) = some s.view := by
  unfold execRestoreHoldRelease
  repeat' first
    | with_reducible rfl
    | refine Eq.trans (foldl_view _ _ _ (fun t a => ?_)) ?_
    | refine Eq.trans (foldRange_view _ _ _ (fun t a => ?_)) ?_
    | simp
    | intro _
    | exact State.reserveEntry_view _ _ _ _ _ ‹_›
    | exact State.deliverPacket_view _ _ _ _ _ _ ‹_›
    | simp [apply_ite State.view]
    | split

@[simp] theorem execHeartbeat_view (silent : List Node) (s : State) : outView (execHeartbeat silent s) = some s.view := by
  unfold execHeartbeat; split <;> simp

@[simp] theorem execDieLoss_view (n : Node) (cause : LossCause) (s : State) : outView (execDieLoss n cause s) = some s.view := by
  unfold execDieLoss
  repeat' first
    | with_reducible rfl
    | refine Eq.trans (foldl_view _ _ _ (fun t a => ?_)) ?_
    | refine Eq.trans (foldRange_view _ _ _ (fun t a => ?_)) ?_
    | simp
    | intro _
    | exact State.reserveEntry_view _ _ _ _ _ ‹_›
    | exact State.deliverPacket_view _ _ _ _ _ _ ‹_›
    | simp [apply_ite State.view]
    | split

@[simp] theorem execDiagnosis_view (failed : List Node) (s : State) : outView (execDiagnosis failed s) = some s.view := by
  unfold execDiagnosis
  repeat' first
    | with_reducible rfl
    | refine Eq.trans (foldl_view _ _ _ (fun t a => ?_)) ?_
    | refine Eq.trans (foldRange_view _ _ _ (fun t a => ?_)) ?_
    | simp
    | intro _
    | exact State.reserveEntry_view _ _ _ _ _ ‹_›
    | exact State.deliverPacket_view _ _ _ _ _ _ ‹_›
    | simp [apply_ite State.view]
    | split

@[simp] theorem execClockPointDecision_view (s : State) : outView (execClockPointDecision s) = some s.view := by
  unfold execClockPointDecision
  repeat' first
    | with_reducible rfl
    | refine Eq.trans (foldl_view _ _ _ (fun t a => ?_)) ?_
    | refine Eq.trans (foldRange_view _ _ _ (fun t a => ?_)) ?_
    | simp
    | intro _
    | exact State.reserveEntry_view _ _ _ _ _ ‹_›
    | exact State.deliverPacket_view _ _ _ _ _ _ ‹_›
    | simp [apply_ite State.view]
    | split

@[simp] theorem execWatchedLineInvalidate_view (ring : RingId) (writes : List HostWrite) (s : State) : outView (execWatchedLineInvalidate ring writes s) = some s.view := by
  unfold execWatchedLineInvalidate
  repeat' first
    | with_reducible rfl
    | refine Eq.trans (foldl_view _ _ _ (fun t a => ?_)) ?_
    | refine Eq.trans (foldRange_view _ _ _ (fun t a => ?_)) ?_
    | simp

@[simp] theorem execRingEnable_view (s : State) : outView (execRingEnable s) = some s.view := by simp [execRingEnable]

@[simp] theorem execBar0Write_view (offset : BitVec 16) (wide : Bool) (value : W64) (s : State) : outView (execBar0Write offset wide value s) = some s.view := by
  unfold execBar0Write
  repeat' first
    | with_reducible rfl
    | refine Eq.trans (foldl_view _ _ _ (fun t a => ?_)) ?_
    | refine Eq.trans (foldRange_view _ _ _ (fun t a => ?_)) ?_
    | simp
    | intro _
    | exact State.reserveEntry_view _ _ _ _ _ ‹_›
    | exact State.deliverPacket_view _ _ _ _ _ _ ‹_›
    | simp [apply_ite State.view]
    | split

@[simp] theorem execMsiXCoalesceExpiry_view (vector : Fin 17) (s : State) : outView (execMsiXCoalesceExpiry vector s) = some s.view := by
  unfold execMsiXCoalesceExpiry
  repeat' first
    | with_reducible rfl
    | refine Eq.trans (foldl_view _ _ _ (fun t a => ?_)) ?_
    | refine Eq.trans (foldRange_view _ _ _ (fun t a => ?_)) ?_
    | simp
    | intro _
    | exact State.reserveEntry_view _ _ _ _ _ ‹_›
    | exact State.deliverPacket_view _ _ _ _ _ _ ‹_›
    | simp [apply_ite State.view]
    | split

@[simp] theorem execLinkRetrain_view (s : State) : outView (execLinkRetrain s) = some s.view := by
  unfold execLinkRetrain
  repeat' first
    | with_reducible rfl
    | refine Eq.trans (foldl_view _ _ _ (fun t a => ?_)) ?_
    | refine Eq.trans (foldRange_view _ _ _ (fun t a => ?_)) ?_
    | simp
    | intro _
    | exact State.reserveEntry_view _ _ _ _ _ ‹_›
    | exact State.deliverPacket_view _ _ _ _ _ _ ‹_›
    | simp [apply_ite State.view]
    | split

@[simp] theorem execIdeIntegrityFailure_view (s : State) : outView (execIdeIntegrityFailure s) = some s.view := by
  unfold execIdeIntegrityFailure; split <;> simp

@[simp] theorem execIdeTxKeySwitch_view (s : State) : outView (execIdeTxKeySwitch s) = some s.view := by
  unfold execIdeTxKeySwitch; repeat' split
  all_goals first | rfl | simp

@[simp] theorem execIdeOldKeyExpiry_view (s : State) : outView (execIdeOldKeyExpiry s) = some s.view := by
  unfold execIdeOldKeyExpiry; repeat' split
  all_goals first | rfl | simp

@[simp] theorem execSnapRefresh_view (s : State) : outView (execSnapRefresh s) = some s.view := by
  unfold execSnapRefresh; split <;> simp

@[simp] theorem State.i3cGet_view (s : State) (bs : List Byte) : outView (State.i3cGet s bs) = some s.view := by
  unfold State.i3cGet; split <;> simp

@[simp] theorem execGetpid_view (s : State) : outView (execGetpid s) = some s.view := by simp [execGetpid]

@[simp] theorem execGetbcr_view (s : State) : outView (execGetbcr s) = some s.view := by simp [execGetbcr]

@[simp] theorem execGetdcr_view (s : State) : outView (execGetdcr s) = some s.view := by simp [execGetdcr]

@[simp] theorem execGetstatus_view (s : State) : outView (execGetstatus s) = some s.view := by simp [execGetstatus]

@[simp] theorem execGetmrl_view (s : State) : outView (execGetmrl s) = some s.view := by simp [execGetmrl]

@[simp] theorem execGetmwl_view (s : State) : outView (execGetmwl s) = some s.view := by simp [execGetmwl]

@[simp] theorem execRstact_view (action : Byte) (s : State) : outView (execRstact action s) = some s.view := by
  unfold execRstact; split <;> simp

@[simp] theorem execTablePhase_view (p : PartId) (s : State) : outView (execTablePhase p s) = some s.view := by
  unfold execTablePhase; repeat' split
  all_goals first | rfl | simp

@[simp] theorem execTablePhaseComplete_view (p : PartId) (s : State) : outView (execTablePhaseComplete p s) = some s.view := by
  unfold execTablePhaseComplete
  repeat' first
    | with_reducible rfl
    | refine Eq.trans (foldl_view _ _ _ (fun t a => ?_)) ?_
    | refine Eq.trans (foldRange_view _ _ _ (fun t a => ?_)) ?_
    | simp
    | intro _
    | exact State.reserveEntry_view _ _ _ _ _ ‹_›
    | exact State.deliverPacket_view _ _ _ _ _ _ ‹_›
    | simp [apply_ite State.view]
    | split

@[simp] theorem execSwapCopyComplete_view (p : PartId) (hostOk : Bool) (s : State) : outView (execSwapCopyComplete p hostOk s) = some s.view := by
  unfold execSwapCopyComplete; dsimp only
  repeat' split
  all_goals first
    | rfl
    | (have := State.hubServe_view _ _ _ _ _ ‹_›; simp [this])

@[simp] theorem execSwapTimeout_view (p : PartId) (s : State) : outView (execSwapTimeout p s) = some s.view := by
  unfold execSwapTimeout; repeat' split
  all_goals first | rfl | simp

@[simp] theorem execContextSwitch_view (p : PartId) (s : State) : outView (execContextSwitch p s) = some s.view := by
  unfold execContextSwitch
  repeat' first
    | with_reducible rfl
    | refine Eq.trans (foldl_view _ _ _ (fun t a => ?_)) ?_
    | refine Eq.trans (foldRange_view _ _ _ (fun t a => ?_)) ?_
    | simp
    | intro _
    | exact State.reserveEntry_view _ _ _ _ _ ‹_›
    | exact State.deliverPacket_view _ _ _ _ _ _ ‹_›
    | simp [apply_ite State.view]
    | split

@[simp] theorem execEviction_view (p : PartId) (s : State) : outView (execEviction p s) = some s.view := by
  unfold execEviction
  repeat' first
    | with_reducible rfl
    | refine Eq.trans (foldl_view _ _ _ (fun t a => ?_)) ?_
    | refine Eq.trans (foldRange_view _ _ _ (fun t a => ?_)) ?_
    | simp
    | intro _
    | exact State.reserveEntry_view _ _ _ _ _ ‹_›
    | exact State.deliverPacket_view _ _ _ _ _ _ ‹_›
    | simp [apply_ite State.view]
    | split

@[simp] theorem execBringIn_view (p : PartId) (hostOk : Bool) (s : State) : outView (execBringIn p hostOk s) = some s.view := by
  unfold execBringIn
  split
  · rfl
  · rename_i x _
    split
    · rfl
    · split
      · rfl
      · rename_i j c v _
        split
        · exact congrArg some (State.bringIn_view ..)
        · split
          · rfl
          · split
            · rfl
            · rename_i u hu
              have hv := State.hubServe_view s _ _ _ u hu
              repeat' split
              · exact congrArg some hv
              · exact congrArg some ((State.bringIn_view ..).trans hv)
              · exact congrArg some ((State.bringNothing_view ..).trans hv)

@[simp] theorem execTeardownComplete_view (p : PartId) (s : State) : outView (execTeardownComplete p s) = some s.view := by
  unfold execTeardownComplete
  split
  · rfl
  · split
    · rfl
    · rename_i x _ _
      have h : ∀ (u : State) (a b : SMap _), ({ x.stackRims.foldl (fun s k => s.setRim k (s.rim k).released) u with
          partitions := a, wires := b } : State).view = u.view :=
        fun u a b => (view_partitions_wires _ _ _).trans (foldl_view _ _ _ (fun t k => rfl))
      dsimp only
      rw [outView_next, State.relimit_view, State.openDebug_view]
      repeat' split
      all_goals simp only [State.finish_view, State.hostWrite_view, State.setRing_view, h]

@[simp] theorem execCheckpointMirrorComplete_view (p : PartId) (hostOk : Bool) (s : State) : outView (execCheckpointMirrorComplete p hostOk s) = some s.view := by
  unfold execCheckpointMirrorComplete; dsimp only
  repeat' split
  all_goals first
    | rfl
    | (simp; done)
    | (have := State.hubServe_view _ _ _ _ _ ‹_›; simp [this])

@[simp] theorem execCheckpointDrainTimeout_view (p : PartId) (s : State) : outView (execCheckpointDrainTimeout p s) = some s.view := by
  unfold execCheckpointDrainTimeout; repeat' split
  all_goals first | rfl | simp

theorem State.serve_view (s : State) (q : Request) (opcode : Nat) (check : Option Status) (run : Picked → State → State) (h : ∀ c t, (run c t).view = t.view) : outView (State.serve s q opcode check run) = some s.view := by
  unfold State.serve
  cases s.gate q opcode check with
  | waits => rfl
  | refused c st => simp
  | runs c => simp [h]

theorem State.serveWhen_view (s : State) (q : Request) (opcode : Nat) (check : Option Status) (ready : Bool) (run : Picked → State → State) (h : ∀ c t, (run c t).view = t.view) : outView (State.serveWhen s q opcode check ready run) = some s.view := by
  unfold State.serveWhen
  repeat' split
  all_goals simp [h]

@[simp] theorem execNop_view (q : Request) (s : State) : outView (execNop q s) = some s.view := by
  unfold execNop
  refine State.serve_view _ _ _ _ _ (fun c t => ?_)
  repeat' first
    | with_reducible rfl
    | refine Eq.trans (foldl_view _ _ _ (fun t a => ?_)) ?_
    | refine Eq.trans (foldRange_view _ _ _ (fun t a => ?_)) ?_
    | simp

@[simp] theorem execBadOpcodeCommand_view (q : Request) (opcode : BitVec 16) (s : State) : outView (execBadOpcodeCommand q opcode s) = some s.view := by
  unfold execBadOpcodeCommand; repeat' split
  all_goals first | rfl | simp

@[simp] theorem execRingCreate_view (q : Request) (s : State) : outView (execRingCreate q s) = some s.view := by
  unfold execRingCreate
  refine State.serve_view _ _ _ _ _ (fun c t => ?_)
  repeat' first
    | with_reducible rfl
    | refine Eq.trans (foldl_view _ _ _ (fun t a => ?_)) ?_
    | refine Eq.trans (foldRange_view _ _ _ (fun t a => ?_)) ?_
    | simp

@[simp] theorem execReadStatus_view (q : Request) (s : State) : outView (execReadStatus q s) = some s.view := by
  unfold execReadStatus
  refine State.serve_view _ _ _ _ _ (fun c t => ?_)
  repeat' first
    | with_reducible rfl
    | refine Eq.trans (foldl_view _ _ _ (fun t a => ?_)) ?_
    | refine Eq.trans (foldRange_view _ _ _ (fun t a => ?_)) ?_
    | simp

@[simp] theorem execReadCounters_view (q : Request) (s : State) : outView (execReadCounters q s) = some s.view := by
  unfold execReadCounters
  refine State.serve_view _ _ _ _ _ (fun c t => ?_)
  repeat' first
    | with_reducible rfl
    | refine Eq.trans (foldl_view _ _ _ (fun t a => ?_)) ?_
    | refine Eq.trans (foldRange_view _ _ _ (fun t a => ?_)) ?_
    | simp

@[simp] theorem execReadPerf_view (q : Request) (s : State) : outView (execReadPerf q s) = some s.view := by
  unfold execReadPerf
  refine State.serve_view _ _ _ _ _ (fun c t => ?_)
  repeat' first
    | with_reducible rfl
    | refine Eq.trans (foldl_view _ _ _ (fun t a => ?_)) ?_
    | refine Eq.trans (foldRange_view _ _ _ (fun t a => ?_)) ?_
    | simp

@[simp] theorem execHostTransferComplete_view (ring : RingId) (tag : BitVec 16) (s : State) : outView (execHostTransferComplete ring tag s) = some s.view := by
  unfold execHostTransferComplete; dsimp only
  repeat' split
  all_goals first
    | rfl
    | (have := State.hubServe_view _ _ _ _ _ ‹_›; simp [this])

@[simp] theorem execPartitionCreate_view (q : Request) (s : State) : outView (execPartitionCreate q s) = some s.view := by
  unfold execPartitionCreate
  refine State.serve_view _ _ _ _ _ (fun c t => ?_)
  repeat' first
    | with_reducible rfl
    | refine Eq.trans (foldl_view _ _ _ (fun t a => ?_)) ?_
    | refine Eq.trans (foldRange_view _ _ _ (fun t a => ?_)) ?_
    | simp

@[simp] theorem execPartitionDestroy_view (q : Request) (s : State) : outView (execPartitionDestroy q s) = some s.view := by
  unfold execPartitionDestroy
  refine State.serve_view _ _ _ _ _ (fun c t => ?_)
  repeat' first
    | with_reducible rfl
    | refine Eq.trans (foldl_view _ _ _ (fun t a => ?_)) ?_
    | refine Eq.trans (foldRange_view _ _ _ (fun t a => ?_)) ?_
    | simp
    | intro _
    | exact State.reserveEntry_view _ _ _ _ _ ‹_›
    | exact State.deliverPacket_view _ _ _ _ _ _ ‹_›
    | simp [apply_ite State.view]
    | split

@[simp] theorem execContextCreate_view (q : Request) (s : State) : outView (execContextCreate q s) = some s.view := by
  unfold execContextCreate
  refine State.serve_view _ _ _ _ _ (fun c t => ?_)
  repeat' first
    | with_reducible rfl
    | refine Eq.trans (foldl_view _ _ _ (fun t a => ?_)) ?_
    | refine Eq.trans (foldRange_view _ _ _ (fun t a => ?_)) ?_
    | simp
    | intro _
    | exact State.reserveEntry_view _ _ _ _ _ ‹_›
    | exact State.deliverPacket_view _ _ _ _ _ _ ‹_›
    | simp [apply_ite State.view]
    | split

@[simp] theorem execContextDestroy_view (q : Request) (s : State) : outView (execContextDestroy q s) = some s.view := by
  unfold execContextDestroy
  refine State.serve_view _ _ _ _ _ (fun c t => ?_)
  repeat' first
    | with_reducible rfl
    | refine Eq.trans (foldl_view _ _ _ (fun t a => ?_)) ?_
    | refine Eq.trans (foldRange_view _ _ _ (fun t a => ?_)) ?_
    | simp

@[simp] theorem execContextWindow_view (q : Request) (s : State) : outView (execContextWindow q s) = some s.view := by
  unfold execContextWindow
  refine State.serve_view _ _ _ _ _ (fun c t => ?_)
  repeat' first
    | with_reducible rfl
    | refine Eq.trans (foldl_view _ _ _ (fun t a => ?_)) ?_
    | refine Eq.trans (foldRange_view _ _ _ (fun t a => ?_)) ?_
    | simp
    | intro _
    | exact State.reserveEntry_view _ _ _ _ _ ‹_›
    | exact State.deliverPacket_view _ _ _ _ _ _ ‹_›
    | simp [apply_ite State.view]
    | split

@[simp] theorem execLoadPattern_view (q : Request) (s : State) : outView (execLoadPattern q s) = some s.view := by
  unfold execLoadPattern
  refine State.serve_view _ _ _ _ _ (fun c t => ?_)
  repeat' first
    | with_reducible rfl
    | refine Eq.trans (foldl_view _ _ _ (fun t a => ?_)) ?_
    | refine Eq.trans (foldRange_view _ _ _ (fun t a => ?_)) ?_
    | simp
    | intro _
    | exact State.reserveEntry_view _ _ _ _ _ ‹_›
    | exact State.deliverPacket_view _ _ _ _ _ _ ‹_›
    | simp [apply_ite State.view]
    | split

@[simp] theorem execUnloadPattern_view (q : Request) (s : State) : outView (execUnloadPattern q s) = some s.view := by
  unfold execUnloadPattern
  refine State.serve_view _ _ _ _ _ (fun c t => ?_)
  repeat' first
    | with_reducible rfl
    | refine Eq.trans (foldl_view _ _ _ (fun t a => ?_)) ?_
    | refine Eq.trans (foldRange_view _ _ _ (fun t a => ?_)) ?_
    | simp
    | intro _
    | exact State.reserveEntry_view _ _ _ _ _ ‹_›
    | exact State.deliverPacket_view _ _ _ _ _ _ ‹_›
    | simp [apply_ite State.view]
    | split

@[simp] theorem execRunSteps_view (q : Request) (s : State) : outView (execRunSteps q s) = some s.view := by
  unfold execRunSteps
  refine State.serve_view _ _ _ _ _ (fun c t => ?_)
  repeat' first
    | with_reducible rfl
    | refine Eq.trans (foldl_view _ _ _ (fun t a => ?_)) ?_
    | refine Eq.trans (foldRange_view _ _ _ (fun t a => ?_)) ?_
    | simp
    | intro _
    | exact State.reserveEntry_view _ _ _ _ _ ‹_›
    | exact State.deliverPacket_view _ _ _ _ _ _ ‹_›
    | simp [apply_ite State.view]
    | split

@[simp] theorem execStackWrite_view (q : Request) (s : State) : outView (execStackWrite q s) = some s.view := by
  unfold execStackWrite
  refine State.serveWhen_view _ _ _ _ _ _ (fun c t => ?_)
  simp

@[simp] theorem execStackRead_view (q : Request) (s : State) : outView (execStackRead q s) = some s.view := by
  unfold execStackRead
  refine State.serveWhen_view _ _ _ _ _ _ (fun c t => ?_)
  simp

@[simp] theorem execCheckpoint_view (q : Request) (s : State) : outView (execCheckpoint q s) = some s.view := by
  unfold execCheckpoint
  refine State.serve_view _ _ _ _ _ (fun c t => ?_)
  repeat' first
    | with_reducible rfl
    | refine Eq.trans (foldl_view _ _ _ (fun t a => ?_)) ?_
    | refine Eq.trans (foldRange_view _ _ _ (fun t a => ?_)) ?_
    | simp
    | intro _
    | exact State.reserveEntry_view _ _ _ _ _ ‹_›
    | exact State.deliverPacket_view _ _ _ _ _ _ ‹_›
    | simp [apply_ite State.view]
    | split

@[simp] theorem execRestore_view (q : Request) (s : State) : outView (execRestore q s) = some s.view := by
  unfold execRestore
  refine State.serveWhen_view _ _ _ _ _ _ (fun c t => ?_)
  split <;> simp

@[simp] theorem execSeqAdmit_view (q : Request) (s : State) : outView (execSeqAdmit q s) = some s.view := by
  unfold execSeqAdmit
  refine State.serve_view _ _ _ _ _ (fun c t => ?_)
  repeat' first
    | with_reducible rfl
    | refine Eq.trans (foldl_view _ _ _ (fun t a => ?_)) ?_
    | refine Eq.trans (foldRange_view _ _ _ (fun t a => ?_)) ?_
    | simp

@[simp] theorem execSeqSwapWindow_view (q : Request) (s : State) : outView (execSeqSwapWindow q s) = some s.view := by
  unfold execSeqSwapWindow
  refine State.serve_view _ _ _ _ _ (fun c t => ?_)
  repeat' first
    | with_reducible rfl
    | refine Eq.trans (foldl_view _ _ _ (fun t a => ?_)) ?_
    | refine Eq.trans (foldRange_view _ _ _ (fun t a => ?_)) ?_
    | simp

@[simp] theorem execSeqRead_view (q : Request) (s : State) : outView (execSeqRead q s) = some s.view := by
  unfold execSeqRead
  refine State.serve_view _ _ _ _ _ (fun c t => ?_)
  repeat' first
    | with_reducible rfl
    | refine Eq.trans (foldl_view _ _ _ (fun t a => ?_)) ?_
    | refine Eq.trans (foldRange_view _ _ _ (fun t a => ?_)) ?_
    | simp
    | intro _
    | exact State.reserveEntry_view _ _ _ _ _ ‹_›
    | exact State.deliverPacket_view _ _ _ _ _ _ ‹_›
    | simp [apply_ite State.view]
    | split

@[simp] theorem execTransactionComplete_view (rim : RimId) (unit : BitVec 31) (symbols : Fin 73) (s : State) : outView (execTransactionComplete rim unit symbols s) = some s.view := by
  unfold execTransactionComplete
  repeat' first
    | with_reducible rfl
    | refine Eq.trans (foldl_view _ _ _ (fun t a => ?_)) ?_
    | refine Eq.trans (foldRange_view _ _ _ (fun t a => ?_)) ?_
    | simp
    | intro _
    | exact State.reserveEntry_view _ _ _ _ _ ‹_›
    | exact State.deliverPacket_view _ _ _ _ _ _ ‹_›
    | simp [apply_ite State.view]
    | split

@[simp] theorem execSessionOpen_view (q : Request) (s : State) : outView (execSessionOpen q s) = some s.view := by
  unfold execSessionOpen
  refine State.serve_view _ _ _ _ _ (fun c t => ?_)
  repeat' first
    | with_reducible rfl
    | refine Eq.trans (foldl_view _ _ _ (fun t a => ?_)) ?_
    | refine Eq.trans (foldRange_view _ _ _ (fun t a => ?_)) ?_
    | simp

@[simp] theorem execAttest_view (q : Request) (s : State) : outView (execAttest q s) = some s.view := by
  unfold execAttest
  refine State.serve_view _ _ _ _ _ (fun c t => ?_)
  repeat' first
    | with_reducible rfl
    | refine Eq.trans (foldl_view _ _ _ (fun t a => ?_)) ?_
    | refine Eq.trans (foldRange_view _ _ _ (fun t a => ?_)) ?_
    | simp

@[simp] theorem execIdeKey_view (q : Request) (s : State) : outView (execIdeKey q s) = some s.view := by
  unfold execIdeKey
  refine State.serve_view _ _ _ _ _ (fun c t => ?_)
  repeat' first
    | with_reducible rfl
    | refine Eq.trans (foldl_view _ _ _ (fun t a => ?_)) ?_
    | refine Eq.trans (foldRange_view _ _ _ (fun t a => ?_)) ?_
    | simp
    | intro _
    | exact State.reserveEntry_view _ _ _ _ _ ‹_›
    | exact State.deliverPacket_view _ _ _ _ _ _ ‹_›
    | simp [apply_ite State.view]
    | split

@[simp] theorem execDebugUnlock_view (q : Request) (s : State) : outView (execDebugUnlock q s) = some s.view := by
  unfold execDebugUnlock
  refine State.serve_view _ _ _ _ _ (fun c t => ?_)
  split
  · exact State.unlockDebug_view t q c
  · exact State.done_view t q _ _ _

end Sys2Proof.Machine
end

