-- ==== Sys2Proof/Tests/Slice0.lean ====
section
/-! SUPPORT. Tests: ill-formed commands, worked examples of the spec, and states that meet the hypotheses of the statements. -/

open Sys2Proof Sys2Proof.Machine

namespace Sys2Proof.Tests

/-! ### A small module: ready, with one partition of one die whose one context runs a pattern of one round -/

def tPattern : Pattern :=
  { hash := 0, width := 1, height := 1, strands := 1, errModes := 3, transitReserve := 0, seed := 7, syncTimeout := 100,
    rounds := [(0, 1)], layers := [⟨0, 0, 0⟩], lengths := [64], dies := [.empty], rims := [⟨[], []⟩], leases := [],
    estimates := [(100, 40, 20)] }

def tContextOf (q : Pattern) : Context := { Context.created (.resident 0) 0 with pattern := some q }

def tPartition (v : Context) (d : Die) : Partition :=
  { col0 := 0, row0 := 0, width := 1, height := 1, stackMask := 1, reserve := 0, split := (0, 0, 0), reductionWays := 4,
    sitOutMode := false, slots := 1, hostShare := 1, quantum := 0, share := 100, running := some 0, switchedIn := 0, lastIn := some 0,
    run := { Run.reset with phase := .round, beat := 5 }, response := .none, dies := [(0, d)], edge := [], crossing := [], tether := [],
    contexts := [(0, v)], credit := 0, hot := false, estSum := 0, measSum := 0, swapNumber := 0, swapped := [],
    hostServed := (0, 0), switchCost := [], heldLeases := [], evictionNumber := 0, swapKey := some 0, windowKey := some 1, window := none, windowFullPosted := false,
    evicting := none, counters := [], clamps := 0, unresolved := 0, teardown := false, destroyer := none }

def tReady : State :=
  { State.reset with
    power := .good, perst := false, pwrgd := .high, stage := .ready, linkUp := true, meshW := 16, meshH := 16,
    meshValid := true, features := supported }

def tWith (now : Nat) (x : Partition) : State := { tReady with time := now, partitions := [(0, x)] }

def tAt (now : Nat) (q : Pattern) (d : Die) : State := tWith now (tPartition (tContextOf q) d)

def tState (d : Die) : State := tAt 0 tPattern d

def tSiteOf (q : Pattern) (d : Die) : Site := ⟨0, tPartition (tContextOf q) d, 0, tContextOf q, q, 0, d⟩

def tSite (d : Die) : Site := tSiteOf tPattern d

theorem tFrozen_eq (now : Nat) (x : Partition) : (tWith now x).frozen 0 = false := by
  simp [State.frozen, State.wire, tWith, tReady, State.reset, Sparse.getD, Sparse.get?, Wires.freezes, Wires.dropped]

theorem tSite_at (now : Nat) (q : Pattern) (d : Die) : (tAt now q d).site 0 0 = some (tSiteOf q d) := by
  have h : (tAt now q d).frozen 0 = false := tFrozen_eq _ _
  simp only [State.site, h, Bool.false_eq_true, if_false]
  rfl

theorem tSite_eq (d : Die) : (tState d).site 0 0 = some (tSite d) := tSite_at 0 tPattern d

/-! ### M-tiles -/

def mDie (w : BitVec 128) : Die :=
  { Die.zeroed with m := [(0, { MTile.zeroed with sram := Mem.writeBytes [] 0 (leBytes 16 w.toNat), prog := .start 0 })] }

/-- The word stands in the tile's SRAM and decodes to a legal operation. -/
def mOk (w : BitVec 128) (op : MOp) : Bool :=
  wordAt ((mDie w).mtile 0).sram 0 16 == w.toNat && op.legal && !misplacedM ((mDie w).mtile 0) op

theorem mIssues_of (w : BitVec 128) (op : MOp) (hd : decodeM w = .ok op) (hk : mOk w op = true) :
    MIssues (tState (mDie w)) ⟨0, 0, 0⟩ w (tSite (mDie w)) op := by
  simp only [mOk, Bool.and_eq_true, beq_iff_eq, Bool.not_eq_true'] at hk
  exact ⟨tSite_eq _, rfl, rfl, rfl, rfl, rfl,
    by simp [mDie, tSite, tSiteOf, Die.mtile, Sparse.getD, Sparse.get?, Prog.start, tileUnits], rfl, hk.1.1, ⟨op, hd, rfl⟩, hk.1.2, hk.2⟩

/-- `MMA`, shape 0, `STAT` 0, the format codes 5, `ACC` 3, `A_ADDR` 64, `B_ADDR` 1,024. -/
def mmaWord : BitVec 128 := BitVec.ofNat 128 (0x01 + 5 * 2 ^ 16 + 5 * 2 ^ 20 + 3 * 2 ^ 24 + 64 * 2 ^ 32 + 1024 * 2 ^ 64)

def mmaFields : MmaFields :=
  { vector := false, shape := 0, stat := 0, reuse := false, ta := false, tb := false, fmtA := 5, fmtB := 5, acc := 3,
    zero := false, half := 0, pair := false, aAddr := 64, nm1 := 0, bAddr := 1024, subStep := 0, sAddr := 0 }

theorem test_mma_word : decodeM mmaWord = .ok (.mma mmaFields) := by rfl

theorem test_m_illegal_opcode : decodeM 0x7F = .error .illegal := by rfl

theorem test_m_reserved_bit : decodeM (mmaWord ||| (1 <<< 31)) = .error .reserved := by rfl

theorem witness_mma : MIssues (tState (mDie mmaWord)) ⟨0, 0, 0⟩ mmaWord (tSite (mDie mmaWord)) (.mma mmaFields) :=
  mIssues_of _ _ test_mma_word (by rfl)

/-- The same word as `MMV` with `STAT` 2 and 128 vectors. -/
theorem witness_mmv : let w := mmaWord + 1 + BitVec.ofNat 128 (2 * 2 ^ 11 + 127 * 2 ^ 49)
    MIssues (tState (mDie w)) ⟨0, 0, 0⟩ w (tSite (mDie w)) (.mma { mmaFields with vector := true, stat := 2, nm1 := 127 }) :=
  mIssues_of _ _ (by rfl) (by rfl)

/-- The first of a half-width pair. -/
theorem witness_mma_pair : let w := mmaWord + BitVec.ofNat 128 (3 * 2 ^ 8 + 2 ^ 30)
    MIssues (tState (mDie w)) ⟨0, 0, 0⟩ w (tSite (mDie w)) (.mma { mmaFields with shape := 3, pair := true }) :=
  mIssues_of _ _ (by rfl) (by rfl)

/-- `STAT` 1 with an empty array. -/
theorem witness_mma_output_stationary : let w := mmaWord + BitVec.ofNat 128 (1 * 2 ^ 11)
    MIssues (tState (mDie w)) ⟨0, 0, 0⟩ w (tSite (mDie w)) (.mma { mmaFields with stat := 1 }) ∧
      ((tSite (mDie w)).die.mtile 0).holds [{ mmaFields with stat := 1 }] = false :=
  ⟨mIssues_of _ _ (by rfl) (by rfl), rfl⟩

/-- Clean operands, no queue entry and no spill that an array instruction would wait for, alone, in a pair and in the cells. -/
theorem witness_array_begins :
    let d := mDie mmaWord
    let y := d.mtile 0
    d.arrayBad 0 mmaFields = none ∧ y.reuseOk mmaFields = true ∧ d.entries 0 = [] ∧ y.first = none ∧
      y.displace.spillOwed 3 = false ∧ y.inFlight 3 = false ∧
      ({ y with hold := some ⟨3, 3, []⟩ } : MTile).holds [{ mmaFields with stat := 1 }] = true ∧
      ({ y with chain := some ({ mmaFields with shape := 3, pair := true } : MmaFields).heldKey } : MTile).reuseOk
        { mmaFields with shape := 3, half := 1 } = true ∧
      mmaFields.formats.isSome = true ∧ mmaFields.stat ≠ 1 ∧ y.flights = [] := by
  refine ⟨?_, ?_, ?_, ?_, ?_, ?_, ?_, ?_, ?_, by decide, ?_⟩ <;> rfl

/-- The four states of a full and of an open accumulator queue, a hold to be spilled, and an instruction that is ready. -/
theorem witness_accumulator_work : ∀ op ∈ [MOp.acz 15, .acl 1 false 96256, .drn 2 true true 0 2048 0, .drn 8 false false 2 0 0],
    let e : AccEntry := ⟨op, false⟩
    let d := { Die.zeroed with m := [(0, { MTile.zeroed with work := [.entry e] })] }
    (tState d).site 0 0 = some (tSite d) ∧ d.stopped = false ∧ d.nextEntry 0 (e.tile / 8) = some e ∧
      (d.mtile 0).inFlight e.tile = false ∧ d.parityAt 0 (64 * 96256) (64 * drainUnits false) = none ∧
      d.accBad 0 (inTile e.tile) = none := by
  intro op h
  refine ⟨tSite_eq _, ?_⟩
  fin_cases h <;> exact ⟨rfl, rfl, rfl, rfl, rfl⟩

theorem witness_spill :
    let h : Hold := ⟨3, 4, [(0, 1)]⟩
    let d := { Die.zeroed with m := [(0, { MTile.zeroed with work := [.spill h], flights := [] })] }
    (tState d).site 0 0 = some (tSite d) ∧ nextSpill [] (d.liveWork 0) = some h ∧ (d.mtile 0).filling h = false :=
  ⟨tSite_eq _, rfl, rfl⟩

/-- A loop at its last word, with an iteration left and without, and at another word. -/
theorem witness_loop_end : ∀ count ∈ [1, 2], ∀ pc ∈ [16, 32],
    let l : LoopState := ⟨16, 48, count, 0, 0, 0, 0⟩
    let p : Prog := { Prog.start 0 with pc, loop := some l }
    p.loop = some l ∧ (p.pc + 16 = l.stop ↔ pc = 32) ∧ (l.iter + 1 < l.count ↔ count = 2) := by
  intro count h pc hp
  fin_cases h <;> fin_cases hp <;> decide

def drnWord : BitVec 128 := BitVec.ofNat 128 (0x08 + 2 * 2 ^ 24 + 2 ^ 28 + 2 ^ 29 + 2048 * 2 ^ 32)

theorem witness_drn :
    MIssues (tState (mDie drnWord)) ⟨0, 0, 0⟩ drnWord (tSite (mDie drnWord)) (.drn 2 true true 0 2048 0) :=
  mIssues_of _ _ (by rfl) (by rfl)

theorem witness_acz : MIssues (tState (mDie 0x0F000009)) ⟨0, 0, 0⟩ 0x0F000009 (tSite (mDie 0x0F000009)) (.acz 15) :=
  mIssues_of _ _ (by rfl) (by rfl)

theorem witness_acl : let w := BitVec.ofNat 128 (0x0A + 2 ^ 24 + 96256 * 2 ^ 32)
    MIssues (tState (mDie w)) ⟨0, 0, 0⟩ w (tSite (mDie w)) (.acl 1 false 96256) :=
  mIssues_of _ _ (by rfl) (by rfl)

theorem witness_gap : let w := BitVec.ofNat 128 (0x10 + 63 * 2 ^ 9 + 1 * 2 ^ 32)
    MIssues (tState (mDie w)) ⟨0, 0, 0⟩ w (tSite (mDie w)) (.gap false 63 1) :=
  mIssues_of _ _ (by rfl) (by rfl)

theorem witness_gap_ramp : let w := BitVec.ofNat 128 (0x10 + 2 ^ 8 + 32 * 2 ^ 9 + 64 * 2 ^ 32)
    MIssues (tState (mDie w)) ⟨0, 0, 0⟩ w (tSite (mDie w)) (.gap true 32 64) :=
  mIssues_of _ _ (by rfl) (by rfl)

theorem witness_m_wait : MIssues (tState (mDie 0xFF00000018)) ⟨0, 0, 0⟩ 0xFF00000018 (tSite (mDie 0xFF00000018)) (.wait 255) :=
  mIssues_of _ _ (by rfl) (by rfl)

theorem witness_m_sig : MIssues (tState (mDie 0x19)) ⟨0, 0, 0⟩ 0x19 (tSite (mDie 0x19)) (.sig 0) :=
  mIssues_of _ _ (by rfl) (by rfl)

theorem witness_m_loop : let w := BitVec.ofNat 128 (0x20 + 3 * 2 ^ 32 + 1 * 2 ^ 48 + 0x1FFFF * 2 ^ 64 + 5 * 2 ^ 96 + 2 ^ 120)
    MIssues (tState (mDie w)) ⟨0, 0, 0⟩ w (tSite (mDie w)) (.loop 3 1 (-1) 5 1) :=
  mIssues_of _ _ (by rfl) (by rfl)

theorem witness_m_end : MIssues (tState (mDie 0x3F)) ⟨0, 0, 0⟩ 0x3F (tSite (mDie 0x3F)) .finish :=
  mIssues_of _ _ (by rfl) (by rfl)

/-! ### V-tiles -/

def vDie (w : W64) : Die :=
  { Die.zeroed with v := [(0, { VTile.zeroed with sram := Mem.writeBytes [] 0 (leBytes 8 w.toNat), prog := .start 0 })] }

def vOk (w : W64) (op : VOp) : Bool := wordAt ((vDie w).vtile 0).sram 0 8 == w.toNat && op.legal

theorem vIssues_of (w : W64) (op : VOp) (hd : decodeV w = .ok op) (hk : vOk w op = true) :
    VIssues (tState (vDie w)) ⟨0, 0, 0⟩ w (tSite (vDie w)) op := by
  simp only [vOk, Bool.and_eq_true, beq_iff_eq] at hk
  exact ⟨tSite_eq _, rfl, rfl, rfl, rfl, rfl, Nat.zero_le 8,
    by simp [vDie, tSite, tSiteOf, Die.vtile, Sparse.getD, Sparse.get?, Prog.start, tileUnits], rfl, hk.1, ⟨op, hd, by cases op <;> rfl⟩, hk.2, fun _ _ _ _ _ => rfl⟩

/-- The V-tile opcodes other than `LOOP`, each with `VD` 1, `VA` 2, `VB` 3 and `VC` 4 where it assigns them and the `TYPE` and
`FN` that it takes; the stores and remote writes name tile 0. -/
def vWords : List W64 :=
  let vd := 2 ^ 8
  let va := 2 * 2 ^ 14
  let vb := 3 * 2 ^ 20
  let vc := 4 * 2 ^ 26
  let words (ops : List Nat) (fields : Nat) : List W64 := ops.map (fun op => BitVec.ofNat 64 (op + fields))
  words [0x01, 0x02, 0x03, 0x06, 0x07, 0x09, 0x23] (vd + va + vb) ++ words [0x04, 0x05, 0x0A, 0x1B] (vd + va + vb + vc) ++
  words [0x08, 0x10, 0x18, 0x20, 0x21, 0x22] (vd + va) ++ words [0x30, 0x32] vd ++ words [0x31, 0x33] va ++
  words [0x38, 0x39, 0x3F] 0 ++ words [0x0B] (vd + va + vb + 2 * 2 ^ 32) ++ words [0x19] (vd + va + vc + 3 * 2 ^ 36) ++
  words [0x1A] (vd + va + vb + 3 * 2 ^ 36)

theorem witness_v_words : ∀ w ∈ vWords, ∃ f, VIssues (tState (vDie w)) ⟨0, 0, 0⟩ w (tSite (vDie w)) (.word f) := by
  have h : ∀ w ∈ vWords, ∃ f, decodeV w = .ok (.word f) ∧ vOk w (.word f) = true := by
    intro w hw
    simp only [vWords, List.map_cons, List.map_nil, List.cons_append, List.nil_append, List.mem_cons, List.not_mem_nil,
      or_false] at hw
    rcases hw with h | h | h | h | h | h | h | h | h | h | h | h | h | h | h | h | h | h | h | h | h | h | h | h | h | h | h <;>
      (subst h; exact ⟨_, by rfl, by rfl⟩)
  intro w hw
  obtain ⟨f, hd, hk⟩ := h w hw
  exact ⟨f, vIssues_of w _ hd hk⟩

/-- `FADD` with `VD` 63, `VA` 1, `VB` 2, bit by bit. -/
theorem test_v_word : decodeV (BitVec.ofNat 64 (0x01 + 63 * 2 ^ 8 + 1 * 2 ^ 14 + 2 * 2 ^ 20)) =
    .ok (.word ⟨0x01, 63, 1, 2, 0, 0, 0, 0, 0, 0⟩) := by rfl

theorem test_v_illegal_opcode : decodeV 0x3D = .error .illegal := by rfl

theorem test_v_reserved_bit : decodeV (0x01 ||| (1 <<< 63)) = .error .reserved := by rfl

theorem witness_v_loop : let w := BitVec.ofNat 64 (0x3A + 1 * 2 ^ 8 + 65535 * 2 ^ 16 + 2 * 2 ^ 32 + 0x1FFFF * 2 ^ 40)
    VIssues (tState (vDie w)) ⟨0, 0, 0⟩ w (tSite (vDie w)) (.loop 1 65535 2 (-1)) :=
  vIssues_of _ _ (by rfl) (by rfl)

/-- Access-mode entries that move units, turn a block, lie out of range, and are reserved. -/
theorem witness_access_modes :
    let m : AccessMode := ⟨0, 0, 16, 8, 1, 32, 1, 0, 0⟩
    (DiePattern.empty.accessMode 0 1).kind = 0 ∧ (DiePattern.empty.accessMode 0 1).inRange 0 1 = true ∧
      m.inRange 0 8 = true ∧ m.inRange (-1) 8 = false ∧ inMemory 0 512 tileUnits = true ∧
      inMemory 98303 512 tileUnits = false ∧ (AccessMode.ofNat 1).kind = 1 ∧ (AccessMode.ofNat 3).kind = 3 ∧
      (vDie 0).parityAt 8 0 65536 = none := by
  refine ⟨?_, ?_, ?_, ?_, ?_, ?_, ?_, ?_, ?_⟩ <;> decide +kernel

/-! ### C-tile cores -/

def cDie (w : W32) : Die :=
  { Die.zeroed with
    c := [(0, { Core.zeroed with running := true })]
    csram := [(0, Mem.writeBytes [] 0 (leBytes 4 w.toNat))] }

theorem cIssues_of (w : W32) (f : CFields) (hd : decodeC w = .ok f)
    (hk : wordAt ((cDie w).memory (coreMem 0)) 0 4 = w.toNat) :
    CIssues (tState (cDie w)) ⟨0, 0, 0⟩ w (tSite (cDie w)) f :=
  ⟨rfl, rfl, rfl, rfl, rfl, by simp [cDie, tSite, tSiteOf, Die.core, Sparse.getD, Sparse.get?, Core.zeroed, ctileUnits], rfl, hk, hd⟩

/-- Every opcode of the C-tile table, with registers 1, 2 and 3 and sub-function 0 where it has one. -/
def cWords : List W32 :=
  ([0x00, 0x01, 0x02, 0x03, 0x04, 0x05, 0x06, 0x07, 0x08, 0x0C, 0x0D, 0x10, 0x11, 0x12, 0x13, 0x14, 0x15, 0x16, 0x18, 0x19,
    0x1A, 0x1B, 0x1C, 0x1D, 0x1E] ++ [0x20, 0x21, 0x22, 0x23, 0x24, 0x25, 0x26, 0x27, 0x28, 0x29, 0x2A, 0x30, 0x38,
    0x3F]).map (fun op : Nat => BitVec.ofNat 32 (op + 2 ^ 6 + 2 * 2 ^ 11 + 3 * 2 ^ 16))

theorem witness_c_words : ∀ w ∈ cWords, ∃ f, CIssues (tState (cDie w)) ⟨0, 0, 0⟩ w (tSite (cDie w)) f := by
  have h : cWords.all (fun w => (decodeC w).toBool && wordAt ((cDie w).memory (coreMem 0)) 0 4 == w.toNat) = true := by rfl
  intro w hw
  have hw := List.all_eq_true.1 h w hw
  cases hd : decodeC w with
  | error e => simp [hd, Except.toBool] at hw
  | ok f => exact ⟨f, cIssues_of w f hd (by simpa [hd, Except.toBool] using hw)⟩

/-- `JAL` to 4 words back, bit by bit: opcode 0x26, `RD` 1, `IMM` −4. -/
theorem test_c_word : decodeC 0xFFFC0066 = .ok ⟨0x26, 1, 0, 28, 2047, -4, 65532⟩ := by rfl

theorem test_c_illegal_opcode : decodeC 0x09 = .error .illegal := by rfl

theorem test_c_illegal_function : decodeC (0x0D ||| (4 <<< 21)) = .error .illegal := by rfl

/-- The ends of a core's SRAM, of the die buffer and of the other scratchpads, and the endpoints that a packet may name. -/
theorem witness_core_addresses :
    64 * ctileUnits = 2 ^ 22 ∧ (cDie 0).parityAt (coreMem 0) 0 8 = none ∧ (cDie 0).parityAt 20 0 8 = none ∧
      bufferBase + 0x00800000 < bufferBase + 0x007FFFF9 + 8 ∧ dieWriteTarget 0 = some (0, 0) ∧ dieWriteTarget 0x005FFFF9 = none ∧
      dieWriteTarget 0x04000000 = some (8, 0) ∧ (tPartition (tContextOf tPattern) Die.zeroed).reaches 15 = true ∧
      (tPartition (tContextOf tPattern) Die.zeroed).reaches 0xC002 = false := by
  refine ⟨?_, ?_, ?_, ?_, ?_, ?_, ?_, ?_, ?_⟩ <;> decide +kernel

/-- A signal of event 5 with an M-tile, a V-tile and a core that wait for it, and none. -/
theorem witness_event_wait : ∀ units ∈ [[0, 1, 2], [1, 2], [2], []],
    let d := { Die.zeroed with
      events := [(5, 1)]
      m := if units.contains 0 then [(7, { MTile.zeroed with prog := { Prog.start 0 with waiting := some 5 } })] else []
      v := if units.contains 1 then [(11, { VTile.zeroed with prog := { Prog.start 0 with waiting := some 5 } })] else []
      c := if units.contains 2 then [(15, { Core.zeroed with waiting := some (.event 5) })] else [] }
    (tState d).siteAny 0 0 = some (tSite d) ∧ (tState d).frozen 0 = false ∧ d.stopped = false ∧ 0 < d.eventCount 5 ∧
      ((d.mtile 7).prog.waiting = some 5 ↔ units.length = 3) ∧ ((d.vtile 11).prog.waiting = some 5 ↔ 2 ≤ units.length) ∧
      ((d.core 15).waiting = some (.event 5) ↔ 1 ≤ units.length) := by
  intro units h d
  refine ⟨rfl, tFrozen_eq _ _, rfl, ?_⟩
  fin_cases h <;> decide +kernel

/-! ### Sequencers, rounds and steps -/

/-- The pattern with one sequencer entry, due at beat 5. -/
def seqPattern (act unit arg : Nat) : Pattern :=
  { tPattern with dies := [{ DiePattern.empty with seqs := [[⟨5, act, unit, arg⟩]] }] }

theorem witness_sequencer_due : ∀ act ∈ [0, 1, 2, 3, 4],
    (tAt 0 (seqPattern act 0 2) Die.zeroed).site 0 0 = some (tSiteOf (seqPattern act 0 2) Die.zeroed) ∧
      (tSiteOf (seqPattern act 0 2) Die.zeroed).due = some ⟨5, act, 0, 2⟩ := by
  intro act h
  refine ⟨tSite_at _ _ _, ?_⟩
  fin_cases h <;> rfl

theorem witness_units_done : Die.zeroed.mDone 7 = true ∧ Die.zeroed.vDone 11 = true ∧ Die.zeroed.cDone 15 = true ∧
    (mDie 0x3F).mDone 0 = false ∧ (vDie 0x3F).vDone 0 = false ∧ (cDie 0x3F).cDone 0 = false := by decide

/-- A sync belay just beyond the sync timeout of 100 µs. -/
theorem witness_sync_timeout :
    let d := { Die.zeroed with syncs := [(15, 0)] }
    (tAt (100 * usec + 1) tPattern d).site 0 0 = some (tSiteOf tPattern d) ∧
      ∃ since, (15, since) ∈ d.syncs ∧ tPattern.syncTimeout * usec < 100 * usec + 1 - since :=
  ⟨tSite_at _ _ _, 0, List.mem_cons_self, by decide⟩

/-- A write held one unit of time beyond the sync timeout, and one held just as long. -/
theorem witness_credit_hold : ∀ n ∈ [0, 1],
    let d := { Die.zeroed with held := [⟨1, 0, 0, 8, 0, [1], 0⟩] }
    let x := tPartition (tContextOf tPattern) d
    let y : Partition := { x with run := { x.run with elapsed := 100 * usec + n } }
    (tWith 0 y).site 0 0 = some ⟨0, y, 0, tContextOf tPattern, tPattern, 0, d⟩ ∧
      ∃ h ∈ d.held, (tPattern.syncTimeout * usec < y.run.elapsed - h.since ↔ n = 1) := by
  intro n hn d x y
  refine ⟨?_, _, List.mem_cons_self, ?_⟩
  · have h : (tWith 0 y).frozen 0 = false := tFrozen_eq _ _
    simp only [State.site, h, Bool.false_eq_true, if_false]
    rfl
  · fin_cases hn <;> decide

/-- A context with a `RUN_STEPS` of two steps, none done. -/
def tCommanded : Context := { tContextOf tPattern with steps := some ⟨1, ⟨1, 0, 0, false, false, 0, 0, [], false⟩, 2, 0, 0, 0, 0⟩ }

/-- The partition between steps, its next round admitted, with enough credit. -/
def tBoundary : Partition :=
  { tPartition tCommanded Die.zeroed with run := { Run.reset with phase := .boundary, admitted := true }, credit := 100 * creditUnit }

theorem witness_round_start : (tWith 0 tBoundary).partition? 0 = some tBoundary ∧
    tBoundary.running? = some (0, tCommanded) ∧ tBoundary.nextRound tCommanded tPattern = some (0, 0, true) ∧
    tBoundary.run.admitted = true ∧ tBoundary.run.holds = [] ∧ (tWith 0 tBoundary).inTransitGroup 0 = false ∧
    (tWith 0 tBoundary).frozen 0 = false :=
  ⟨rfl, rfl, rfl, rfl, rfl, rfl, tFrozen_eq _ _⟩

/-- A round after a first one, in another phase. -/
theorem witness_phase_boundary :
    let q := { tPattern with rounds := [(0, 1), (0, 1)], layers := [⟨0, 0, 0⟩, ⟨1, 1, 0⟩] }
    let r := { Run.reset with phase := .round, beat := 64, rounds := 1 }
    let x : Partition := { tPartition (tContextOf q) (mDie 0x3F) with run := r }
    x.nextRound (tContextOf q) q = some (1, 0, false) ∧ q.length r.entry ≤ r.beat ∧
      (q.layerOf 0).phase ≠ (q.layerOf 1).phase ∧ Die.zeroed.phaseClear = true ∧
      (Die.zeroed.setMtile 0 { MTile.zeroed with prog := .start 0 }).phaseClear = false := by
  refine ⟨rfl, by decide, by decide, by rfl, by rfl⟩

theorem witness_admission :
    let x : Partition := { tBoundary with run := { tBoundary.run with admitted := false } }
    let s := tWith 0 x
    s.need tPattern (tPattern.table 0) = 100 ∧ s.otherHolds 0 x tCommanded tPattern true = [] ∧
      ((100 * creditUnit : Nat) : Int) ≤ x.credit ∧ x.hot = false ∧ s.inputGuard = false ∧
      x.wantsEntry { tCommanded with steps := tCommanded.steps.map (fun q => { q with entries := 1 }) } true = false ∧
      x.wantsEntry tCommanded true = true ∧ (s.reserveEntry 0 0 true).isSome = true ∧ x.run.holds.contains .credit = false :=
  ⟨rfl, rfl, by decide, rfl, rfl, rfl, rfl, rfl, rfl⟩

theorem witness_step_end :
    let x : Partition := { tPartition tCommanded Die.zeroed with run := { Run.reset with phase := .round, beat := 64 } }
    (tWith 0 x).partition? 0 = some x ∧ x.running? = some (0, tCommanded) ∧ x.lastRound tPattern = true ∧
      tPattern.length x.run.entry ≤ x.run.beat ∧ x.response.due = false ∧ x.sitsOut = false := by
  refine ⟨rfl, rfl, rfl, by decide, rfl, rfl⟩

/-- A wire raised for 24 beats freezes its partition's domain. -/
theorem witness_frozen :
    let s := { tWith 0 (tPartition (tContextOf tPattern) Die.zeroed) with wires := [(0, { Wires.dropped with hist := 0xFFFFFF })] }
    s.frozen 0 = true ∧ (tPartition (tContextOf tPattern) Die.zeroed).run.frozen = false := by
  constructor
  · simp [State.frozen, State.wire, Sparse.getD, Sparse.get?, Wires.freezes]
  · rfl

theorem witness_response_due :
    let x : Partition := { tPartition (tContextOf tPattern) Die.zeroed with
      response := { Response.none with due := true, detections := 1, restoring := true, resync := [0] } }
    (tWith 0 x).partition? 0 = some x ∧ x.response.due = true ∧ x.response.restoring = true ∧
      (∀ g, g < tPattern.strands → x.response.resync.contains g = true) := by
  refine ⟨rfl, rfl, rfl, ?_⟩
  intro g h
  have : g = 0 := by simp only [tPattern] at h; omega
  subst this; rfl

/-- A restore hold with nothing to commit and one with a calibrating rim that has received a flit, and a set of one strand of two. -/
theorem witness_restore_hold :
    let x := tPartition (tContextOf tPattern) Die.zeroed
    let g := { Engine.idle with received := [.zero] }
    let r := { Rim.reset with halted := true, ctx := { RimContext.idle with engines := [(0, g)] } }
    (tWith 0 x).commitWaits x = false ∧ ({ tWith 0 x with rims := [(0, r)] } : State).commitWaits x = true ∧
      (∃ g, g < ({ tPattern with strands := 2 } : Pattern).strands ∧ [0].contains g = false) ∧ x.sitsOut = false := by
  refine ⟨?_, ?_, ⟨1, by decide, rfl⟩, ?_⟩ <;> decide +kernel

/-- A held round whose other reasons have ended, after a wire raised for 63 beats and for 64. -/
theorem witness_held_round :
    let x : Partition := { tBoundary with run := { tBoundary.run with admitted := false, holds := [.credit, .ringFull] } }
    x.run.holds.contains .credit = true ∧ (∀ h ∈ x.run.holds, h = .credit ∨ h = .ringFull) ∧
      (tWith 0 x).inTransitGroup 0 = false ∧ x.nextRound tCommanded tPattern = some (0, 0, true) ∧
      ({ tWith 0 x with wires := [(0, { Wires.dropped with sources := [.roundStart 0], beats := 64 })] } : State).reEntryBeats 0 = 32 ∧
      ({ tWith 0 x with wires := [(0, { Wires.dropped with sources := [.roundStart 0], beats := 63 })] } : State).reEntryBeats 0 = 0 := by
  refine ⟨rfl, by decide, rfl, rfl, ?_, ?_⟩ <;> decide +kernel

/-- An ended round and one still open. -/
theorem witness_reconciliation :
    let r := { Run.reset with phase := .round, beat := 64, unreconciled := [100] }
    let x : Partition := { tPartition (tContextOf tPattern) Die.zeroed with run := r }
    x.run.unreconciled = 100 :: [] ∧ x.endedRounds = 1 ∧
      ({ x with run := { r with beat := 63 } } : Partition).endedRounds = 0 := ⟨rfl, by rfl, by rfl⟩

theorem witness_re_entry : (({ tReady with wires := [(16, { Wires.dropped with sources := [.reEntry] })] } : State).wire 16).sources
    = [.reEntry] := by rfl

theorem witness_belay_timeout :
    let s := { tReady with time := 50 * msec + 1, wires := [(0, { Wires.dropped with sources := [.roundStart 0], since := some 0 })] }
    (s.wire 0).since = some 0 ∧ 50 * msec < s.time - 0 := ⟨by rfl, by decide⟩

/-! ### Fabric, splice reduction and tether -/

/-- A slot entry that injects from push queue 3 and delivers the splice sum through landing pointer 2. -/
def slotPattern : Pattern :=
  { tPattern with dies := [{ DiePattern.empty with
      slots := [[⟨4 * 2 ^ 12 + 2 ^ 19 + 3 * 2 ^ 20 + 2 * 2 ^ 25, 5, 0, 0⟩]], landings := List.replicate 32 ⟨true, 8, 64, 79⟩ }] }

theorem witness_slot_entry :
    let x := tSiteOf slotPattern Die.zeroed
    (tAt 0 slotPattern Die.zeroed).site 0 0 = some x ∧ x.part.run.beat < slotPattern.length x.part.run.entry ∧
      x.die.slotDone = none ∧ slotInjects (slotPattern.slot 0 (slotPattern.table 0) 5) = true ∧
      slotInjection (slotPattern.slot 0 (slotPattern.table 0) 5) = 3 ∧
      slotLanding (slotPattern.slot 0 (slotPattern.table 0) 5) = 2 :=
  ⟨tSite_at _ _ _, by decide, rfl, by rfl, by rfl, by rfl⟩

/-- A splice entry with a flit of plain data in its queue is a splice fault; a BSI flit is delivered. -/
theorem witness_slot_output :
    let word := 4 * 2 ^ 12 + 2 ^ 19 + 3 * 2 ^ 20 + 2 * 2 ^ 25
    (slotOutput word 4 (fun _ => .zero) (.plain [])).map (·.2) = some true ∧
      (slotOutput word 4 (fun _ => .zero) { Flit.plain [] with bsi := true }).map (·.2) = some false := by
  constructor <;> decide +kernel

theorem witness_splice_operands : ∀ f ∈ [Flit.zero, { Flit.plain zeroLanes with bsi := true }], f.valid = true → f.bsi = true := by
  intro f h; fin_cases h <;> intro _ <;> first | rfl | contradiction

theorem witness_fabric_delivery : ∀ f ∈ [Flit.zero, .plain zeroLanes],
    let d := { Die.zeroed with deliveries := [⟨0, 2, f⟩] }
    (tAt 0 slotPattern d).site 0 0 = some (tSiteOf slotPattern d) ∧ 0 ≤ (tSiteOf slotPattern d).part.run.clock ∧
      slotPattern.terminusOf 0 2 = none := by
  intro f _
  exact ⟨tSite_at _ _ _, Nat.zero_le _, by rfl⟩

/-- A register pushed to a plain queue, and to a splice queue that starts a slice within its step's scales and beyond them. -/
theorem witness_push_arrival : ∀ kind ∈ [PushKind.axRow, .reg 0],
    let d := { Die.zeroed with pushes := [⟨19, 0, kind, zeroLanes, 0⟩] }
    (tAt 0 tPattern d).site 0 0 = some (tSiteOf tPattern d) ∧ d.pushes.find? (fun e => e.queue == 19) = some ⟨19, 0, kind, zeroLanes, 0⟩ ∧
      (tPattern.spliceQueue 0 19).splice = false ∧ Push.spliceKind ⟨19, 0, kind, zeroLanes, 0⟩ = (kind == .reg 0) ∧
      SpliceState.idle.inHalf ⟨true, 0, 0, 0, 4, 0, 1⟩ 0 = true ∧ SpliceState.idle.inHalf ⟨true, 0, 0, 0, 3, 0, 1⟩ 0 = false := by
  intro kind h
  refine ⟨tSite_at _ _ _, by rfl, by rfl, ?_, by decide, by decide⟩
  fin_cases h <;> rfl

/-- A slice of a terminus without and with a second pass that landed whole in beat 0. -/
theorem witness_terminus : ∀ second ∈ [false, true], ∀ p2 ∈ [0, 1],
    let t : Terminus := ⟨true, 1, p2, 0, 4, 5, 0, 1, 0, 4⟩
    let q := { tPattern with dies := [{ DiePattern.empty with termini := [t], landings := List.replicate 32 ⟨true, 8, 64, 79⟩ }] }
    let z : TermSlice := ⟨second, 0, 64, [], [], 0, 0⟩
    let y := { TermState.idle with whole := [z] }
    let d := { Die.zeroed with term := [(0, y)] }
    let r := { Run.reset with phase := .round, beat := 5, clock := 4 }
    let x : Partition := { tPartition (tContextOf q) d with run := r }
    Site.wholePass ⟨0, x, 0, tContextOf q, q, 0, d⟩ 0 second = some (t, y, z) := by
  intro second h p2 h2
  fin_cases h <;> fin_cases h2 <;> rfl

theorem witness_tether : ∀ dest ∈ [15, 2 ^ 14 + 7],
    let x : Partition := { tPartition (tContextOf tPattern) Die.zeroed with tether := [(dest, 0, ⟨3, 9⟩)] }
    (tWith 0 x).partition? 0 = some x ∧ x.tether[0]? = some (dest, 0, ⟨3, 9⟩) ∧
      (x.tether.take 0).any (fun e => e.1 == dest && e.2.2.src == 3) = false ∧ x.stackRims[dest / 32 % 512]? = some 0 ∧
      0 + (tWith 0 x).tetherBeats x 3 dest ≤ ({ tWith 0 x with beat := 2 ^ 20 } : State).beat := by
  intro dest h
  refine ⟨rfl, rfl, rfl, ?_⟩
  fin_cases h <;> exact ⟨rfl, by decide +kernel⟩

theorem witness_flit_check :
    let d := { Die.zeroed with inputs := [⟨3, 0, .plain zeroLanes⟩] }
    ((tState d).checkedFlit (tPartition (tContextOf tPattern) d) tPattern (.die 0 .W)).isSome = true ∧
      (tState d).frozen 0 = false ∧ (tPartition (tContextOf tPattern) d).size = 1 ∧ d.slotDone = none :=
  ⟨by decide +kernel, tFrozen_eq _ _, rfl, rfl⟩

/-- Skeins at the ends of the reach of a row, of a column and beyond it, a rim and its skein, and the hub's chain. -/
theorem witness_links :
    Part.linked .gq4_256 32 35 = true ∧ Part.linked .gq4_256 32 36 = false ∧ Part.linked .gq4_256 32 (32 + 18 + 2) = true ∧
      Part.linked .gq4_256 32 (32 + 18 + 3) = false ∧ Part.linked .gq4_256 32 (32 + 36) = false ∧ Part.linked .gq4_256 0 2 = true ∧
      Part.linked .gq4_256 0 32 = false := by
  refine ⟨?_, ?_, ?_, ?_, ?_, ?_, ?_⟩ <;> decide +kernel

/-! ### Rims -/

theorem witness_coherent : Rim.reset.Coherent ∧
    ({ Rim.reset with cache := [⟨5, true, List.replicate 64 1⟩] } : Rim).Coherent := by
  constructor
  · exact ⟨List.nodup_nil, (fun w h => by simp [Rim.reset] at h), (fun l h => by simp [Rim.reset] at h)⟩
  · exact ⟨by decide, (fun w h => by simp [Rim.reset] at h), by decide⟩

/-- The partition of the module owns rim 0, whose stack answers; no partition owns rim 15. -/
theorem witness_rim_owner : let s := tState Die.zeroed
    s.rimOwner 0 = some (0, tPartition (tContextOf tPattern) Die.zeroed) ∧ (s.rim 0).paused = false ∧ s.rimOwner 15 = none ∧
      0 < (tPartition (tContextOf tPattern) Die.zeroed).reductionWays :=
  ⟨by rfl, by rfl, by rfl, by decide⟩

/-- A stack with an outstanding read, a scrub that is behind and a calibration that has run 1.5 µs. -/
theorem witness_stack :
    let r := { Rim.reset with outstanding := [⟨7, 0, true⟩] }
    r.outstanding.find? (fun t => t.unit == 7) = some ⟨7, 0, true⟩ ∧ r.thermal ≠ .stopped ∧ r.scrubbed.length * (600 * second) < (second - r.passStart) * stackUnits ∧
      r.lastScrub + second ≤ second ∧ 0 + 10500 ≤ 10500 ∧
      Rim.reset.busy 0 = false ∧ r.busy (channelOf 7) = true ∧ Sparse.get? r.scrubSlots (channelOf 7) = none ∧
      Rim.reset.accepts 8 5 = true := by
  refine ⟨rfl, by decide, by decide, by decide, by decide, rfl, by decide, rfl, by decide⟩

/-- A reduction line that is open for its target with the least window, and the frames of two targets that meet in one. -/
theorem witness_reduction_line :
    let f := Frame.opened 5 (-192)
    let r := { Rim.reset with ctx := { RimContext.idle with frames := [(frameOf 4 5, f)] } }
    Sparse.get? r.ctx.frames (frameOf 4 5) = some f ∧ f.tag = 5 ∧ f.w = -192 ∧ frameOf 4 (5 + 4 * 65536) = frameOf 4 5 ∧
      Sparse.get? Rim.reset.ctx.frames (frameOf 4 5) = none := by
  refine ⟨?_, ?_, ?_, ?_, ?_⟩ <;> decide +kernel

/-- A descriptor of a kind with one flit of whole pieces inside its fence, and one whose pieces leave the fence. -/
def tDescriptor (kind fenceHi : Nat) : Descriptor :=
  { Descriptor.null with kind, op := if kind = 3 ∨ kind = 6 then 1 else 0, piece := 4, count := 1, n0 := 1, n1 := 1, base := 16, fenceHi }

def tEngine (d : Descriptor) : Engine := { Engine.idle with list := [d], read := 16 }

/-- The module with one engine of rim 0 at work, and rim edge entries now and 24 beats on. -/
def tRimState (n : Nat) (g : Engine) : State :=
  let edges := (List.range 64).map (fun b => EdgeEntry.mk b (b % 16) (decide (32 ≤ b)) n (decide (48 ≤ b)))
  { tAt 0 { tPattern with rims := [⟨[edges], []⟩] } Die.zeroed with rims := [(0, { Rim.reset with ctx := { RimContext.idle with engines := [(n, g)] } })] }

/-- What every statement about an engine asks of the state. -/
def engineReady (n : Nat) (g : Engine) (check : EngSite → Bool) : Bool :=
  match (tRimState n g).engSite 0 n with
  | some y => y.e == g && !y.r.paused && check y
  | none => false

theorem witness_engines :
    engineReady 0 (tEngine (tDescriptor 1 31)) (fun y => y.e.at? y.e.fetchPlace == some (tDescriptor 1 31)
      && (tDescriptor 1 31).allowed 0 && !(y.pieces (tDescriptor 1 31) 0 []).contains none && y.room 0) = true ∧
    engineReady 0 (tEngine (tDescriptor 1 30)) (fun y => (y.pieces (tDescriptor 1 30) 0 []).contains none) = true ∧
    (tDescriptor 1 31).allowed 4 = false ∧
    engineReady 3 { tEngine (tDescriptor 2 31) with received := [.zero] } (fun y => y.e.at? y.e.usePlace == some (tDescriptor 2 31)
      && (tDescriptor 2 31).allowed 3 && !(y.pieces (tDescriptor 2 31) 0 []).contains none) = true ∧
    engineReady 0 { tEngine (tDescriptor 3 31) with received := [.zero] } (fun y => y.e.at? y.e.usePlace == some (tDescriptor 3 31)
      && (tDescriptor 3 31).allowed 0 && (y.take 0 (tDescriptor 3 31) (pieceList (tDescriptor 3 31) (y.pieces (tDescriptor 3 31) 0 [])) .zero).isSome) = true := by
  refine ⟨?_, ?_, ?_, ?_, ?_⟩ <;> decide +kernel

/-- The indexed kinds, with their index at hand. -/
theorem witness_indexed_engines : ∀ kind ∈ [4, 5, 6],
    let d := { tDescriptor kind (2 ^ 30) with idxTether := true }
    engineReady 7 { tEngine d with indices := [⟨0, 3⟩], received := [.zero] } (fun y => d.allowed 7 &&
      (match y.indicesFor 0 d [] (d.rowsNeeded 0) with
       | .ready xs z _ => !(z.pieces d 0 xs).contains none
       | _ => false)) = true := by
  intro kind h; fin_cases h <;> decide +kernel

/-- List operations, staging places and edges. -/
theorem witness_lists :
    engineReady 0 { Engine.idle with list := [Descriptor.null] } (fun y => decide (y.e.read < y.e.list.length)) = true ∧
    engineReady 0 { tEngine Descriptor.null with list := [tDescriptor 1 31, Descriptor.null], fetchAt := 1, useAt := 2 } (fun y =>
      y.e.at? y.e.fetchPlace == some Descriptor.null && y.e.usePlace != y.e.fetchPlace) = true ∧
    engineReady 0 { tEngine { Descriptor.null with kind := 7 } with hanks := [[tDescriptor 1 31]] } (fun y =>
      y.e.at? y.e.fetchPlace == some { Descriptor.null with kind := 7 } && y.e.runAhead == 0) = true := by
  refine ⟨?_, ?_, ?_⟩ <;> decide +kernel

/-- The module with the rim's entries for beats 0 to 63, at the beat named. -/
def atBeat (n b : Nat) (g : Engine) (check : State → EngSite → Bool) : Bool :=
  let s := tRimState n g
  let s := { s with partitions := s.partitions.map (fun e => (e.1, { e.2 with run := { e.2.run with beat := b } })) }
  match s.engSite 0 n with
  | some y => check s y
  | none => false

def tStaged : Staged := ⟨List.replicate 1024 0, [16], false, [], some 0⟩

theorem witness_staging :
    atBeat 0 7 { Engine.idle with staging := [tStaged] } (fun _ y => y.named false false && decide (y.e.pulls < y.coming false false)) = true ∧
    atBeat 0 8 Engine.idle (fun _ y => y.named true false && decide (y.e.reserved + y.e.placeWait < y.coming true false)
      && decide (y.placesTaken < 4096)) = true ∧
    atBeat 0 24 Engine.idle (fun _ y => y.named true true && decide (y.e.hankReserved + y.e.hankWait < y.coming true true)
      && decide (y.e.hankPlaces < 4)) = true ∧
    atBeat 0 24 { Engine.idle with hankReserved := 4, reserved := 4096 } (fun _ y => decide (4 ≤ y.e.hankPlaces)
      && decide (4096 ≤ y.placesTaken)) = true := by
  refine ⟨?_, ?_, ?_, ?_⟩ <;> decide +kernel

theorem witness_live : let s := tRimState 0 { Engine.idle with staging := [tStaged] }
    ∃ y, s.engSite 0 0 = some y ∧ s.live y = true := by
  refine ⟨_, rfl, ?_⟩
  have h : (tRimState 0 { Engine.idle with staging := [tStaged] }).frozen 0 = false := by
    simp [State.frozen, State.wire, tRimState, tAt, tWith, tReady, State.reset, Sparse.getD, Sparse.get?, Wires.freezes,
      Wires.dropped]
  simp only [State.live]
  exact Bool.and_eq_true_iff.2 ⟨Bool.and_eq_true_iff.2 ⟨congrArg Bool.not h, rfl⟩, rfl⟩

theorem witness_bind_off :
    atBeat 0 40 { tEngine (tDescriptor 2 31) with received := [] } (fun s y => y.x.lastOfLayer y.q &&
      decide (y.q.length y.x.run.entry ≤ y.x.run.beat + 24) && decide (y.e.received.length < y.e.owed) && !s.boundOff 0) = true ∧
    atBeat 0 40 Engine.idle (fun s y => decide (y.e.owed ≤ y.e.received.length) && s.boundOff 0) = true := by
  constructor <;> decide +kernel

/-! ### Dies, supply and protection -/

/-- The rim dies 1 and 16, a skein that serves a logical position and a spare. -/
theorem witness_die_loss : Machine.Part.fitsRim .gq4_256 1 = true ∧ Machine.Part.fitsRim .gq4_256 16 = true ∧ Machine.Part.fitsRim .gq4_256 17 = false ∧
    Machine.Part.fitsSkein .gq4_256 32 = true ∧ tReady.serves 32 = true ∧ tReady.serves (32 + 17) = false ∧
    Machine.Part.fitsSkein .gq4_256 (32 + 17) = true ∧ tReady.stage = .ready := by
  refine ⟨?_, ?_, ?_, ?_, ?_, ?_, ?_, rfl⟩ <;> decide +kernel

theorem witness_limit_terms : tReady.power = .good ∧ Part.gq4_256.converters = 16 ∧ tReady.throt = false ∧
    ({ tReady with throt := true, time := msec } : State).throtAt + msec ≤ msec := by
  refine ⟨rfl, rfl, rfl, by decide⟩

/-- Low clock decided after exactly 10 ms below half of the maximum, and made with no partition. -/
theorem witness_clock : tReady.features.getLsbD 11 = true ∧
    ({ tReady with time := 10 * msec, belowSince := some 0 } : State).time = 0 + 10 * msec ∧
    (∀ e ∈ ({ tReady with clockPending := true } : State).partitions, tReady.clockReady e.1 e.2 = true) ∧
    ({ tReady with clockFrom := some 0, time := 20 * usec } : State).clockFrom = some 0 := by
  refine ⟨by decide +kernel, by decide, ?_, rfl⟩
  intro e h; cases h

/-! ### Rings and their commands -/

theorem witness_ring_room : Ring.idle.hasRoom = true ∧ ({ Ring.idle with cplProd := 1 } : Ring).hasRoom = false ∧
    ringLegal 128 4096 0 6 = true ∧ ringLegal 128 4096 0 5 = false ∧ ringLegal 128 4096 0 16 = true ∧ ringLegal 128 4096 0 17 = false ∧
    tReady.answers = true := by
  refine ⟨?_, ?_, ?_, ?_, ?_, ?_, ?_⟩ <;> decide +kernel

theorem witness_i3c : ({ tReady with i3cReady := true, i3cAddress := some 0x10 } : State).i3cAddress ≠ none := by
  intro h; cases h

/-- An entry of partition 0 and context 0. -/
def tEntry (param : List W32) (len : W32) : CmdEntry := ⟨1, 0, 0, false, false, len, 0, param, false⟩

/-- The module with the command picked up on the admin ring, and a partition with one context without a pattern. -/
def tPicked (v : Context) (op : Nat) (e : CmdEntry) : State :=
  { tWith 0 (tPartition v Die.zeroed) with
    ide := { Ide.unused with secure := true }, rings := [(0, { Ring.idle with state := .running, sizeLog2 := 6, picked := [⟨op, e, 0, false⟩] })] }

/-- Every command is accepted from the admin ring of that module, with its parameters 0. -/
theorem witness_accepts : ∀ op ∈ knownOpcodes,
    Accepts (tPicked (.created (.resident 0) 0) op (tEntry [0, 0, 0, 0, 0, 0, 0, 0, 0, 0] 16384))
      ⟨.admin, tEntry [0, 0, 0, 0, 0, 0, 0, 0, 0, 0] 16384, true⟩ op ⟨op, tEntry [0, 0, 0, 0, 0, 0, 0, 0, 0, 0] 16384, 0, false⟩ := by
  have h : knownOpcodes.all (fun op =>
      let e := tEntry [0, 0, 0, 0, 0, 0, 0, 0, 0, 0] 16384
      let s := tPicked (.created (.resident 0) 0) op e
      let q : Request := ⟨.admin, e, true⟩
      s.picked? q op == some ⟨op, e, 0, false⟩ && (s.ring (ringNumber q.ring)).mayStart s.holdsBack ⟨op, e, 0, false⟩ && s.refusal q op == none
        && !s.holdsBack op && s.lacking q op == none && !s.awaitsSpan q op) = true := by decide +kernel
  intro op hop
  have h := List.all_eq_true.1 h op hop
  simp only [Bool.and_eq_true, beq_iff_eq, Bool.not_eq_true'] at h
  obtain ⟨⟨⟨⟨⟨a, b⟩, c⟩, d⟩, f⟩, g⟩ := h
  exact ⟨a, b, c, d, f, g, rfl⟩

/-- Parameters at the ends of their ranges, and the states that the commands' clauses ask for. -/
theorem witness_command_clauses :
    let e (param : List W32) := tEntry (param ++ List.replicate (10 - param.length) 0) 16384
    let x := tPartition (tContextOf tPattern) Die.zeroed
    let s := tWith 0 x
    strayParam 0x0013 (e [8000]) = false ∧ strayParam 0x0013 (e [32000]) = false ∧ Part.gq4_256.floorW = 8000 ∧
    Part.gq4_256.maxW = 32000 ∧ strayParam 0x0112 (e [65535]) = false ∧ strayParam 0x0018 (e [3]) = false ∧
    (s.statusRecord .admin 3).length ≤ 16384 ∧ x.rangeOk 0 64 = true ∧ x.rangeOk (64 * x.spanUnits) 64 = false ∧
    tReady.createCheck (e [4 * 2 ^ 8 + 4 * 2 ^ 16, 1, 50 + 30 * 2 ^ 8 + 20 * 2 ^ 16, 1 * 2 ^ 8 + 2 ^ 16]) = none ∧
    tReady.createCheck (e [3 * 2 ^ 8 + 4 * 2 ^ 16, 1, 50 + 30 * 2 ^ 8 + 20 * 2 ^ 16, 1 * 2 ^ 8 + 2 ^ 16]) = some .partitionShape ∧
    (tWith 0 (tPartition (.created (.resident 0) 0) Die.zeroed)).checkpointCheck (e [0, 0, 64, 0, 128, 0]) = none := by
  refine ⟨?_, ?_, ?_, ?_, ?_, ?_, ?_, ?_, ?_, ?_, ?_, ?_⟩ <;> decide +kernel

/-- The state with a secure stream. -/
def tSecure (s : State) : State := { s with ide := { Ide.unused with secure := true } }

/-- The rims and the hub serve the small module's transfers; a pattern with a sequence table; a command in progress. -/
theorem witness_transfers :
    let v := tContextOf tPattern
    let x := tPartition v Die.zeroed
    let s := tSecure (tWith 0 x)
    let a : Active := ⟨0x0114, tEntry [] 4096, 0, .transfer .ok 0 []⟩
    let u := { tSecure (tWith 0 x) with rings := [(0, { Ring.idle with state := .running, active := [a] })] }
    s.remoteReady 0 0 64 = true ∧ s.rimsReady x = true ∧ (s.hostWrite 0 (List.replicate 4096 0)).restoreReady (tEntry [0, 0] 4096) = true ∧ s.insecure = false ∧
      a ∈ (u.ring 0).active ∧ (u.hubServe 0 true 1).isSome = true ∧ (s.live? 0).isSome = true ∧ v.seqCfg = none ∧
      v.tooLate 0 = false ∧ ({ v with step := 1 } : Context).tooLate 0 = true := by
  refine ⟨?_, ?_, ?_, ?_, List.mem_cons_self, ?_, ?_, ?_, ?_, ?_⟩ <;> decide +kernel

/-- A new command on the watched line of a running ring, and a producer index that runs past the ring. -/
theorem witness_watched_line : ∀ prod ∈ [1, 65],
    let r := { Ring.idle with state := .running, ctrl := 128, cmd := 4096, cpl := 8192, sizeLog2 := 6 }
    let s := { tReady with rings := [(0, r)] }
    let t := s.hostWrite 128 [BitVec.ofNat 8 prod, 0, 0, 0]
    (t.ring 0).state = .running ∧ t.answers = true ∧ (t.ring 0).unposted = [] ∧ (t.ring 0).events = [] ∧ (t.ring 0).lost = 0 ∧
      (BitVec.ofNat 32 (leNat (t.hostBytes 128 4)) - (t.ring 0).cmdCons).toNat = prod ∧ (t.ring 0).size = 64 ∧
      (t.ring 1).state ≠ .running ∧ r.ctrl + 68 ≤ r.cmd := by
  intro prod h
  fin_cases h <;> (refine ⟨?_, ?_, ?_, ?_, ?_, ?_, ?_, ?_, ?_⟩ <;> decide +kernel)

/-! ### Table phases, contexts and checkpoints -/

def tSeqPattern : Pattern :=
  { tPattern with dies := [{ DiePattern.empty with
      seqCfg := some ⟨4, false, 16, 1, 1, 4, 0, 8, 0, 2, [4], 0, 64⟩ }] }

def tSwap : SwapCopy := ⟨true, 0, 0, 0, 1, true, 0⟩

theorem witness_table_phase :
    let v := { tContextOf tSeqPattern with steps := tCommanded.steps }
    let x : Partition := { tPartition v Die.zeroed with run := { Run.reset with phase := .boundary, holds := [.tablePhase] } }
    v.seq.phaseStep = none ∧ v.seq.waiting = false ∧ v.seqCfg.isSome = true ∧ x.run.holds.contains .tablePhase = true ∧
      (x.phaseWork v ⟨4, false, 16, 1, 1, 4, 0, 8, 0, 2, [4], 0, 64⟩ v.step).isSome = true ∧
      ({ SeqState.empty with copies := [tSwap] } : SeqState).nextCopy = some tSwap ∧ x.swapKey = some 0 ∧
      (tWith 0 x).remoteReady 0 0 4096 = true ∧
      ((tSecure (tWith 0 x)).hubServe 0 true 2).isSome = true := by
  refine ⟨rfl, rfl, rfl, rfl, ?_, rfl, rfl, ?_, ?_⟩ <;> decide +kernel

/-- Two resident contexts, of which the one not running has a commanded step. -/
def tSwitch : Partition :=
  { tPartition (tContextOf tPattern) Die.zeroed with
    slots := 2, contexts := [(0, tContextOf tPattern), (1, { tCommanded with place := .resident 1 })]
    run := { Run.reset with phase := .boundary, holds := [.switch] } }

theorem witness_switch : (tWith 0 tSwitch).switchDue tSwitch = true ∧ (tWith 0 tSwitch).switchBarred 0 tSwitch = false ∧
    tSwitch.atBoundary = true ∧ (tWith 0 tSwitch).maySave 0 tSwitch = true ∧
    (match ((tWith 0 tSwitch).settle 0 tSwitch).partition? 0 with
     | some z => !tSwitch.upset z && (z.incoming.map (·.1) == some 1)
     | none => false) = true := by
  refine ⟨?_, ?_, ?_, ?_, ?_⟩ <;> decide +kernel

/-- A context out of the stacks whose wanted step finds every slot taken, first with no window and then with room in one. -/
def tEvict : Partition :=
  { tSwitch with
    slots := 1, contexts := [(0, tContextOf tPattern), (1, { tCommanded with place := .out none })], window := some (0, 2 ^ 40) }

/-- A `RUN_STEPS` for context 1 waits on the partition's ring. -/
def tWanting (x : Partition) : State :=
  { tWith 0 x with rings := [(1, { Ring.idle with picked := [⟨0x0112, { tEntry [] 0 with ctx := 1 }, 0, false⟩] })] }

theorem witness_eviction : tEvict.freeSlots = [] ∧ ((tWanting tEvict).wantedOut 0 tEvict).map (·.1) = some 1 ∧
    tEvict.evictable.map (·.1) = some 0 ∧ (tEvict.findExtent (tEvict.extentBytes 0)).isSome = true ∧
    ({ tEvict with window := none } : Partition).findExtent (tEvict.extentBytes 0) = none ∧
    (tWanting tEvict).mayLeave 0 tEvict 0 (tContextOf tPattern) = true ∧ (tWanting tEvict).rimsReady tEvict = true ∧
    ((tWanting { tEvict with slots := 2 }).bringing 0 { tEvict with slots := 2 }).map (·.1) = some 1 := by
  refine ⟨?_, ?_, ?_, ?_, ?_, ?_, ?_, ?_⟩ <;> decide +kernel

/-- What the running context had issued completes without an error, and the hub serves the copies. -/
theorem witness_eviction_served :
    let m := (tSecure (tWanting tEvict)).settle 0 tEvict
    (match m.partition? 0 with | some z => tEvict.upset z | none => true) = false ∧
      ∀ out units, m.hubServe 0 out units ≠ none := by
  refine ⟨by decide +kernel, ?_⟩
  intro out units
  refine State.hubServe_alone _ 0 out units (by decide +kernel) ?_
  cases out <;> decide +kernel

theorem witness_checkpoint :
    let k : CheckpointState := ⟨0, tEntry [0, 0, 64, 0, 128, 0] 16384, 0⟩
    (tPartition { tContextOf tPattern with checkpoint := some k } Die.zeroed).checkpointing =
      some (0, { tContextOf tPattern with checkpoint := some k }, k) := rfl

/-- A partition in teardown, with the command that destroys it. -/
theorem witness_teardown :
    let e := tEntry [] 16384
    let x : Partition := { tPartition (tContextOf tPattern) Die.zeroed with teardown := true, destroyer := some (0, e) }
    let s := { tWith 0 x with rings := [(0, { Ring.idle with active := [⟨0x0011, e, 0, .destroy⟩] })] }
    s.partition? 0 = some x ∧ (s.ring 0).active.find? (fun (a : Active) => a.entry == e && a.progress == Progress.destroy) =
      some ⟨0x0011, e, 0, .destroy⟩ := ⟨rfl, by decide +kernel⟩

/-- The standing conditions hold of the small module. -/
theorem witness_inv : tReady.Inv := by
  refine ⟨by decide, fun _ => by decide, fun _ => by decide, by decide, ?_, by decide +kernel, by decide⟩
  intro w h; cases h

/-! ### Ill-formed commands -/

theorem test_ill_formed : (Instr.nop ⟨.admin, tEntry [0] 0, true⟩).wf = false ∧
    (Instr.nop ⟨.admin, tEntry (List.replicate 10 0) 0, true⟩).wf = true ∧
    (Instr.watchedLineInvalidate .admin [⟨2 ^ 64, [0]⟩]).wf = false ∧ (Instr.linkLoss 32 32).wf = false ∧
    (Instr.linkLoss 32 17).wf = false ∧ (Instr.tetherWordCheckFailure 320 32).wf = false ∧ (Instr.heartbeat [17]).wf = false ∧
    (Instr.diagnosis [320]).wf = false ∧ (Instr.castOnReady [31]).wf = false ∧ (Instr.dieLoss 17 .sensor).wf = false ∧
    (Instr.dieTemperatureSample 320 0).wf = false := by decide

/-! ### Worked examples of the spec -/

/-- spec/02: 13.0, 0.3, 2.6 and −5.0 as MXFP4: scale byte 0x80, codes 0x7, 0x0, 0x3 and 0xC. -/
theorem test_mxfp4 : ((operandFmt 7).map (fun f => mxBlock f (fun _ => .nearestEven)
    ([0x41500000#32, 0x3E99999A#32, 0x40266666#32, 0xC0A00000#32].map Num.ofFp32))) = some (0x80, [0x7, 0x0, 0x3, 0xC]) := by
  decide +kernel

/-- spec/02: 1.0 and −1.0 as AX64 words. -/
theorem test_ax64 : fp32ToAx64 0x3F800000 = 0x007F400000000000 ∧ fp32ToAx64 0xBF800000 = 0x007FC00000000000 := by decide +kernel

/-- spec/02: 1.5 and 5.0 at block scale 133 with 16 strands. -/
theorem test_bsi : toBsi 133 4 (Num.ofFp32 0x3FC00000) = ⟨50331648, false, 0⟩ ∧
    toBsi 133 4 (Num.ofFp32 0x40A00000) = ⟨134217727, true, 1⟩ := by decide +kernel

/-- spec/08: 7.25 at scale 133 divided by 15 is 29/60, rounded to FP32. -/
theorem test_cvb : bsiToFp32 243269632 133 15 = 0x3EF77777 := by decide +kernel

/-- spec/05: rows 2,048 B apart put 16 pieces in one bank, rows 2,112 B apart in 16; the counters rise by 120 a register. -/
theorem test_bank_conflicts :
    let m : AccessMode := ⟨0, 0, 16, 8, 1, 32, 1, 0, 0⟩
    m.registerCycles 0 0 = 16 ∧ ({ m with s0 := 33 } : AccessMode).registerCycles 0 0 = 1 ∧
      ((stridedConflicts m 0 8 0 Die.zeroed).conflicts.map (·.2)).sum = 960 := by decide +kernel

/-- spec/03: a mat-vec of 24 vectors has level 6. -/
theorem test_mmv_level : ({ mmaFields with vector := true, stat := 2, nm1 := 23 } : MmaFields).level false = 6 := by decide

/-- spec/17: a module with 56 V removed has its supply contact open and its link contacts high-impedance. -/
theorem test_contacts_removed : ({ State.reset with power := .removed } : State).contact .supply = .open_ ∧
    ({ State.reset with power := .removed } : State).contact .tx = .highZ ∧
    ({ State.reset with power := .good, perst := true } : State).contact .supply = .load 900 := ⟨rfl, rfl, rfl⟩

end Sys2Proof.Tests
end

section
/-! PROOFS. Row reductions (spec/04_vector_and_control_tiles.md R98–R100): the stages of the tree lane by lane, the run of
registers, and the commands that issue one. -/

namespace Sys2Proof.Machine

/-! ### The tree over the lanes of a register -/

theorem foldRange_succ {α : Type} (n : Nat) (a : α) (f : α → Nat → α) :
    foldRange (n + 1) a f = f (foldRange n a f) n := by
  simp [foldRange, List.range_succ]

@[simp] theorem length_mkLanes (f : Nat → W32) : (mkLanes f).length = 256 := by
  simp [mkLanes, lanes]

theorem lane_mkLanes (f : Nat → W32) {i : Nat} (hi : i < 256) : lane (mkLanes f) i = f i := by
  simp [lane, mkLanes, lanes, List.getElem?_range hi]

theorem mkLanes_const (a : W32) : mkLanes (fun _ => a) = List.replicate 256 a := by
  simp [mkLanes, lanes, List.map_const']

/-- A stage halves the lanes; the last of an odd number is kept. -/
theorem length_treeStage (op : W32 → W32 → W32) : ∀ l, (treeStage op l).length = (l.length + 1) / 2
  | [] => rfl
  | [_] => by simp [treeStage]
  | _ :: _ :: r => by
    simp only [treeStage, List.length_cons, length_treeStage op r]
    omega

/-- A stage combines neighbours: lane i comes from lanes 2i and 2i + 1. -/
theorem lane_treeStage (op : W32 → W32 → W32) : ∀ (l : List W32) (i : Nat), 2 * i + 1 < l.length →
    lane (treeStage op l) i = op (lane l (2 * i)) (lane l (2 * i + 1))
  | [], _, hi => by simp at hi
  | [_], _, hi => by simp at hi
  | _ :: _ :: _, 0, _ => rfl
  | _ :: _ :: r, i + 1, hi => lane_treeStage op r i (by simp only [List.length_cons] at hi; omega)

/-- The lanes that stand after `j` stages of the tree of register `k` of the run. -/
def registerStage (f : VFields) (x : VTile) (k j : Nat) : List W32 :=
  foldRange j (mkLanes (fun i => reduceLane f (lane (x.reg (f.va + k)) i) (lane (x.reg (f.vb + k)) i)))
    (fun l _ => treeStage (reduceOp f) l)

theorem registerStage_succ (f : VFields) (x : VTile) (k j : Nat) :
    registerStage f x k (j + 1) = treeStage (reduceOp f) (registerStage f x k j) := foldRange_succ ..

theorem length_registerStage (f : VFields) (x : VTile) (k : Nat) {j : Nat} (hj : j ≤ 8) :
    (registerStage f x k j).length = 2 ^ (8 - j) := by
  induction j with
  | zero => exact length_mkLanes _
  | succ j ih =>
    rw [registerStage_succ, length_treeStage, ih (by omega), show 8 - j = 8 - (j + 1) + 1 by omega, pow_succ]
    omega

theorem lane_registerStage_zero (f : VFields) (x : VTile) (k : Nat) {i : Nat} (hi : i < 256) :
    lane (registerStage f x k 0) i = reduceLane f (lane (x.reg (f.va + k)) i) (lane (x.reg (f.vb + k)) i) :=
  lane_mkLanes (fun i => reduceLane f (lane (x.reg (f.va + k)) i) (lane (x.reg (f.vb + k)) i)) hi

theorem lane_registerStage_succ (f : VFields) (x : VTile) (k : Nat) {j i : Nat} (hj : j < 8) (hi : i < 256 / 2 ^ (j + 1)) :
    lane (registerStage f x k (j + 1)) i =
      reduceOp f (lane (registerStage f x k j) (2 * i)) (lane (registerStage f x k j) (2 * i + 1)) := by
  have hlen : 256 / 2 ^ (j + 1) = 2 ^ (7 - j) := by
    rw [show 256 = 2 ^ 8 from rfl, Nat.pow_div (by omega) (by decide)]; congr 1; omega
  have hpow : 2 ^ (8 - j) = 2 ^ (7 - j) * 2 := by rw [← pow_succ]; congr 1; omega
  rw [registerStage_succ]
  refine lane_treeStage _ _ _ ?_
  rw [length_registerStage f x k hj.le]
  omega

theorem registerTree_eq_lane (f : VFields) (x : VTile) (k : Nat) : registerTree f x k = lane (registerStage f x k 8) 0 := by
  change (registerStage f x k 8).headD 0 = (registerStage f x k 8).getD 0 0
  cases registerStage f x k 8 <;> rfl

/-! ### The run of registers -/

/-- The reduction after the trees of registers 0 to `n` of the run. -/
def reduceUpTo (f : VFields) (x : VTile) (n : Nat) : W32 :=
  foldRange n (registerTree f x 0) (fun s k => reduceOp f s (registerTree f x (k + 1)))

theorem reduceUpTo_succ (f : VFields) (x : VTile) (n : Nat) :
    reduceUpTo f x (n + 1) = reduceOp f (reduceUpTo f x n) (registerTree f x (n + 1)) := foldRange_succ ..

/-- Every lane of `VD` receives the reduction of the whole run. -/
theorem reduceTile_eq_replicate (f : VFields) (x : VTile) :
    reduceTile f x = x.setReg f.vd (List.replicate 256 (reduceUpTo f x f.cnt)) :=
  congrArg (x.setReg f.vd) (mkLanes_const _)

/-! ### The operation and the lanes it starts from -/

/-- The operation of R98 by opcode and `TYPE`. -/
theorem reduceOp_eq (f : VFields) (a b : W32) : reduceOp f a b =
    if f.op = 0x21 then Num.toFp32 ((Num.ofFp32 a).maximum (Num.ofFp32 b))
    else if f.op = 0x22 then Num.toFp32 ((Num.ofFp32 a).minimum (Num.ofFp32 b))
    else if f.ty = 2 then a + b else Num.toFp32 ((Num.ofFp32 a).add (Num.ofFp32 b)) := by
  unfold reduceOp numLane
  split <;> simp_all

/-- The low bf16 element of a lane as FP32. -/
theorem loHalf_as_fp32 (a : W32) : BitVec.ofNat 32 (loHalf a * 65536) = a <<< 16 := by
  apply BitVec.eq_of_toNat_eq
  simp only [BitVec.toNat_ofNat, BitVec.toNat_shiftLeft, loHalf, Nat.shiftLeft_eq]
  omega

/-- The high bf16 element of a lane as FP32. -/
theorem hiHalf_as_fp32 (a : W32) : BitVec.ofNat 32 (hiHalf a * 65536) = a >>> 16 <<< 16 := by
  apply BitVec.eq_of_toNat_eq
  simp only [BitVec.toNat_ofNat, BitVec.toNat_shiftLeft, BitVec.toNat_ushiftRight, hiHalf, Nat.shiftLeft_eq,
    Nat.shiftRight_eq_div_pow]

/-- What a lane holds before the tree (R98, R100): its element, its two bf16 elements combined, or the product or products of
`RDOT`. -/
theorem reduceLane_eq (f : VFields) (a b : W32) : reduceLane f a b =
    if f.op = 0x23 then
      (if f.ty = 1 then
        reduceOp f (Num.toFp32 ((Num.ofFp32 (a <<< 16)).mul (Num.ofFp32 (b <<< 16))))
          (Num.toFp32 ((Num.ofFp32 (a >>> 16 <<< 16)).mul (Num.ofFp32 (b >>> 16 <<< 16))))
      else Num.toFp32 ((Num.ofFp32 a).mul (Num.ofFp32 b)))
    else if f.ty = 1 then reduceOp f (a <<< 16) (a >>> 16 <<< 16) else a := by
  simp only [reduceLane, loHalf_as_fp32, hiHalf_as_fp32, numLane, Nat.zero_ne_one, if_false]

/-! ### The commands -/

/-- A reduction command whose opcode is the word's gives the tile of its run. -/
theorem runV_reduceEffect {s : State} {t : VRef} {w : W64} {x : Site} {f : VFields} (h : VIssues s t w x (.word f))
    {n : Nat} (hn : f.op = n) :
    Host.Outcome.next (runV s t.part t.die t.tile w (isV n) (fun x tile op => reduceEffect x t.tile tile op)) =
      issuedV s t x (reduceTile f (x.die.vtile t.tile)) := by
  refine congrArg Host.Outcome.next (runV_issues h _ _ fun raw he => ?_)
  rw [← effectiveV_isV (x.die.vtile t.tile).prog, he]
  exact beq_iff_eq.2 hn

theorem exec_reduction {s : State} {t : VRef} {w : W64} {x : Site} {f : VFields} (h : VIssues s t w x (.word f))
    {e : Nat × (VRef → W64 → Instr)} (hop : f.op = e.1)
    (he : e ∈ [(0x20, Instr.rsum), (0x21, Instr.rmax), (0x22, Instr.rmin), (0x23, Instr.rdot)]) :
    exec (e.2 t w) s = issuedV s t x (reduceTile f (x.die.vtile t.tile)) := by
  simp only [List.mem_cons, List.not_mem_nil, or_false] at he
  obtain rfl | rfl | rfl | rfl := he
  · exact runV_reduceEffect h hop
  · exact runV_reduceEffect h hop
  · exact runV_reduceEffect h hop
  · exact runV_reduceEffect h hop

/-- Settles O8: the lanes after each stage of a register's tree, and the reduction up to each register, are the values it asks for. -/
theorem reductionsCombineInOrder : Obligations.ReductionsCombineInOrder := by
  unfold Obligations.ReductionsCombineInOrder
  intro s t w x f h y e he hop op times lo hi start
  have op_eq : op = reduceOp f := funext₂ fun a b => (reduceOp_eq f a b).symm
  have start_eq : start = reduceLane f := funext₂ fun a b => by rw [reduceLane_eq, ← op_eq]
  rw [op_eq, start_eq]
  refine ⟨fun k j => lane (registerStage f y k j), reduceUpTo f y, ?_, ?_, ?_, ?_, ?_⟩
  · intro k i hi
    exact lane_registerStage_zero f y k hi
  · intro k j i hj hi
    exact lane_registerStage_succ f y k hj hi
  · exact registerTree_eq_lane f y 0
  · intro k _
    rw [reduceUpTo_succ, registerTree_eq_lane]
  · rw [exec_reduction h hop he, reduceTile_eq_replicate]

end Sys2Proof.Machine
end

section
/-! PROOFS. Splice addition (spec/08_splice_reduction.md R228): the excess word nibble by nibble, the sum word by word, and the
flit that carries them. -/

namespace Sys2Proof.Machine

/-! ### The excess of each block -/

theorem excAt_eq (e : BitVec 16) (q : Nat) : excAt e q = e.toNat / 16 ^ q % 16 := by
  rw [excAt, bits, Nat.shiftRight_eq_div_pow, pow_mul, show 4 * q + 3 + 1 - 4 * q = 4 by omega]
  rfl

theorem excAt_lt (e : BitVec 16) (q : Nat) : excAt e q < 16 := by
  rw [excAt_eq]
  exact Nat.mod_lt _ (by decide)

/-- Four digits below 16 do not carry into one another. -/
theorem nibble_of_sum {m : Nat → Nat} (hm : ∀ q, m q < 16) {q : Nat} (hq : q < 4) :
    (m 0 + m 1 * 16 + m 2 * 256 + m 3 * 4096) % 2 ^ 16 / 16 ^ q % 16 = m q := by
  have h0 := hm 0
  have h1 := hm 1
  have h2 := hm 2
  have h3 := hm 3
  interval_cases q <;> omega

theorem toNat_excMax (a b : BitVec 16) :
    (excMax a b).toNat = (max (excAt a 0) (excAt b 0) + max (excAt a 1) (excAt b 1) * 16
      + max (excAt a 2) (excAt b 2) * 256 + max (excAt a 3) (excAt b 3) * 4096) % 2 ^ 16 := by
  simp [excMax, foldRange, List.range_succ]

theorem excAt_excMax (a b : BitVec 16) {q : Nat} (hq : q < 4) :
    excAt (excMax a b) q = max (excAt a q) (excAt b q) := by
  rw [excAt_eq, toNat_excMax]
  exact nibble_of_sum (m := fun q => max (excAt a q) (excAt b q)) (fun q => max_lt (excAt_lt a q) (excAt_lt b q)) hq

/-! ### The sum of two elements -/

theorem bsiAdd_marker {u v : W32} (h : u = bsiMarker ∨ v = bsiMarker) : bsiAdd u v = bsiMarker := if_pos h

theorem bsiAdd_exact {u v : W32} (hu : u ≠ bsiMarker) (hv : v ≠ bsiMarker) : bsiAdd u v = u + v :=
  if_neg (not_or.2 ⟨hu, hv⟩)

/-- Element `k` of a splice addition: the sum over the operands that are valid. -/
def spliceWord (a i : Flit) (k : Nat) : W32 :=
  if a.valid ∧ i.valid then bsiAdd (lane a.payload k) (lane i.payload k)
  else if a.valid then lane a.payload k
  else if i.valid then lane i.payload k
  else 0

section
variable {a i : Flit} {k : Nat}

theorem spliceWord_neither (ha : a.valid = false) (hi : i.valid = false) : spliceWord a i k = 0 := by
  simp [spliceWord, ha, hi]

theorem spliceWord_left (ha : a.valid = true) (hi : i.valid = false) : spliceWord a i k = lane a.payload k := by
  simp [spliceWord, ha, hi]

theorem spliceWord_right (ha : a.valid = false) (hi : i.valid = true) : spliceWord a i k = lane i.payload k := by
  simp [spliceWord, ha, hi]

theorem spliceWord_both (ha : a.valid = true) (hi : i.valid = true) :
    spliceWord a i k = bsiAdd (lane a.payload k) (lane i.payload k) := if_pos ⟨ha, hi⟩

end

/-! ### The flit -/

/-- The output of a splice addition whose valid operands are BSI flits. -/
def spliceSum (a i : Flit) : Flit where
  valid := a.valid || i.valid
  bsi := a.valid || i.valid
  count := (if a.valid then a.count else 0) + (if i.valid then i.count else 0)
  ovr := a.ovr ||| i.ovr
  exc := excMax a.exc i.exc
  payload := mkLanes (spliceWord a i)

theorem lane_spliceSum (a i : Flit) {k : Nat} (hk : k < 256) : lane (spliceSum a i).payload k = spliceWord a i k :=
  lane_mkLanes (spliceWord a i) hk

theorem spliceAdd_eq_spliceSum {a i : Flit} (ha : a.valid = true → a.bsi = true) (hi : i.valid = true → i.bsi = true) :
    spliceAdd a i = some (spliceSum a i) :=
  if_neg (not_or.2 ⟨fun h => h.2 (ha h.1), fun h => h.2 (hi h.1)⟩)

/-- Settles O23: a splice addition of BSI flits or zero flits is `spliceSum`, whose fields are those of the table. -/
theorem spliceAdditionTable : Obligations.SpliceAdditionTable := by
  unfold Obligations.SpliceAdditionTable
  intro a i ha hi
  refine ⟨spliceSum a i, spliceAdd_eq_spliceSum ha hi, rfl, rfl, rfl, rfl, fun q hq => excAt_excMax a.exc i.exc hq, rfl, ?_⟩
  intro k hk u v
  rw [lane_spliceSum a i hk]
  refine ⟨spliceWord_neither, spliceWord_left, spliceWord_right, ?_, ?_⟩
  · intro va vi marked
    rw [spliceWord_both va vi, bsiAdd_marker marked]
  · intro va vi hu hv
    rw [spliceWord_both va vi, bsiAdd_exact hu hv]

end Sys2Proof.Machine
end

section
/-! PROOFS. The power limit, the envelope and the clock points (spec/14_power_and_energy.md R421, R422, R433, R434): what relimiting
the module, serving an accepted command and changing the clock point do. -/

namespace Sys2Proof.Machine

/-! ### The power limit (R421, R433) -/

theorem State.relimit_plim_le_envelope (s : State) : s.relimit.plim ≤ s.envelope :=
  List.foldl_min.trans_le (min_le_left _ _)

@[simp] theorem State.relimit_envelope (s : State) : s.relimit.envelope = s.envelope := rfl

@[simp] theorem State.relimit_storedEnvelope (s : State) : s.relimit.storedEnvelope = s.storedEnvelope := rfl

theorem State.relimit_belowSince (s : State) :
    s.relimit.belowSince = if 2 * s.relimit.plim < s.part.maxW then some (s.belowSince.getD s.time) else none := rfl

theorem State.relimit_aboveSince (s : State) :
    s.relimit.aboveSince = if 6 * s.part.maxW ≤ 10 * s.relimit.plim then some (s.aboveSince.getD s.time) else none := rfl

/-! ### A command that its ring accepts -/

section
variable {s : State} {q : Request} {opcode : Nat} {c : Picked} (run : Picked → State → State)

/-- An accepted command runs unless its own check refuses it. -/
theorem Accepts.gate_eq (h : Accepts s q opcode c) (check : Option Status) :
    s.gate q opcode check = check.elim (.runs c) (.refused c) := by
  obtain ⟨picked, turn, formed, unheld, able, here, reached⟩ := h
  cases check <;> simp [State.gate, picked, turn, formed, unheld, able, here, reached]

theorem Accepts.serve_refused (h : Accepts s q opcode c) (st : Status) :
    s.serve q opcode (some st) run = .next (s.answer q opcode c st 0 []) := by
  simp only [State.serve, h.gate_eq, Option.elim]

theorem Accepts.serve_runs (h : Accepts s q opcode c) :
    s.serve q opcode none run = .next (run c (s.unpick (ringNumber q.ring) c)) := by
  simp only [State.serve, h.gate_eq, Option.elim]

end

/-! ### The envelope (R422) -/

theorem State.setEnvelope_unthrottled {s : State} (h : s.throt = false) (w : Nat) :
    (s.setEnvelope w).envelope = w ∧ (s.setEnvelope w).plim ≤ w := by
  have set_eq : s.setEnvelope w = ({ s with envelope := w } : State).relimit := if_neg (by simp [h])
  rw [set_eq]
  exact ⟨State.relimit_envelope _, State.relimit_plim_le_envelope _⟩

theorem State.setEnvelope_throttled {s : State} (h : s.throt = true) (w : Nat) :
    s.setEnvelope w = { s with storedEnvelope := some w } := if_pos h

theorem State.answer_envelope (s : State) (q : Request) (opcode : Nat) (c : Picked) (st : Status) (detail : Nat) (result : List W32) :
    (s.answer q opcode c st detail result).envelope = s.envelope :=
  congrArg ModuleView.envelope (State.answer_view s q opcode c st detail result)

section
variable {s : State} {q : Request} {c : Picked}

theorem exec_setEnvelope_refused (h : Accepts s q 0x0013 c)
    (hw : paramAt q.entry 0 < s.part.floorW ∨ s.part.maxW < paramAt q.entry 0) :
    exec (.setEnvelope q) s = .next (s.answer q 0x0013 c .envelope 0 []) := by
  have check : refuseIf (decide (paramAt q.entry 0 < s.part.floorW) || decide (s.part.maxW < paramAt q.entry 0)) .envelope =
      some .envelope := if_pos (by simpa using hw)
  change execSetEnvelope q s = _
  rw [execSetEnvelope, check, h.serve_refused]

theorem exec_setEnvelope_runs (h : Accepts s q 0x0013 c)
    (lo : s.part.floorW ≤ paramAt q.entry 0) (hi : paramAt q.entry 0 ≤ s.part.maxW) :
    exec (.setEnvelope q) s =
      let u := (s.unpick (ringNumber q.ring) c).setEnvelope (paramAt q.entry 0)
      .next (u.done q 0x0013 .ok [BitVec.ofNat 32 u.envelope]) := by
  have check : refuseIf (decide (paramAt q.entry 0 < s.part.floorW) || decide (s.part.maxW < paramAt q.entry 0)) .envelope =
      none := if_neg (by simp [lo, hi])
  change execSetEnvelope q s = _
  rw [execSetEnvelope, check, h.serve_runs]

end

/-- Past its 1 ms, the release of THROT_N puts a stored envelope in force. -/
theorem exec_throtNRelease {s : State} (asserted : s.throt = true) (due : s.throtAt + msec ≤ s.time) :
    exec .throtNRelease s =
      .next ({ s with throt := false, envelope := s.storedEnvelope.getD s.envelope, storedEnvelope := none } : State).relimit :=
  if_neg (by simp [asserted, due])

/-- Whichever firmware the boot ROM runs, cast-on leaves the floor as the envelope and none stored. -/
theorem exec_castOn_envelope {s : State} (good : s.power = .good) (start : s.stage = .reset) :
    ∃ t, exec .castOn s = .next t ∧ t.envelope = s.part.floorW ∧ t.storedEnvelope = none := by
  change ∃ t, execCastOn s = .next t ∧ _
  rw [execCastOn, if_neg (by simp [good, start])]
  refine ⟨_, rfl, ?_⟩
  rw [State.relimit_envelope, State.relimit_storedEnvelope]
  split
  · exact ⟨rfl, rfl⟩
  · split <;> exact ⟨rfl, rfl⟩

/-- Settles O47: `SET_ENVELOPE` by its three branches, then cast-on and the release of THROT_N. -/
theorem envelopeIsSet : Obligations.EnvelopeIsSet := by
  unfold Obligations.EnvelopeIsSet
  refine ⟨⟨rfl, rfl, rfl⟩, fun s => ⟨?_, exec_castOn_envelope, ?_⟩⟩
  · intro q c h w
    refine ⟨fun hw => ⟨exec_setEnvelope_refused h hw, State.answer_envelope s q 0x0013 c .envelope 0 []⟩, fun lo hi => ?_⟩
    refine ⟨_, exec_setEnvelope_runs h lo hi, fun free => ?_, fun asserted => ?_⟩
    · exact State.setEnvelope_unthrottled (s := s.unpick (ringNumber q.ring) c) free w
    · rw [State.setEnvelope_throttled (s := s.unpick (ringNumber q.ring) c) asserted]
      exact ⟨rfl, rfl⟩
  · intro w asserted due stored
    refine ⟨_, exec_throtNRelease asserted due, ?_, rfl⟩
    rw [State.relimit_envelope, stored]
    rfl

/-! ### Deciding to move the clock point (R433) -/

section
variable {s : State}

theorem exec_clockPointDecision_down (good : s.power = .good) (low : s.features.getLsbD 11 = true) {since : Nat}
    (high : s.clockLow = false) (below : s.belowSince = some since) :
    exec .clockPointDecision s = .next (if since + 10 * msec ≤ s.time then { s with clockPending := true } else s) := by
  change execClockPointDecision s = _
  by_cases due : since + 10 * msec ≤ s.time <;>
    simp [execClockPointDecision, featLowClock, good, low, high, below, due]

theorem exec_clockPointDecision_up (good : s.power = .good) (low : s.features.getLsbD 11 = true) {since : Nat}
    (slow : s.clockLow = true) (above : s.aboveSince = some since) :
    exec .clockPointDecision s = .next (if since + 100 * msec ≤ s.time then { s with clockPending := true } else s) := by
  change execClockPointDecision s = _
  by_cases due : since + 100 * msec ≤ s.time <;>
    simp [execClockPointDecision, featLowClock, good, low, slow, above, due]

theorem exec_clockPointDecision_without_lowClock (no : s.features.getLsbD 11 = false) (high : s.clockLow = false) :
    exec .clockPointDecision s = .next s :=
  if_neg (by simp [show s.features.getLsbD featLowClock = false from no, high])

end

/-! ### The clock point across a beat and the release of a hold -/

/-- The clock point, the decided move, and since when every partition lets it. -/
def State.clockView (s : State) : Bool × Bool × Option Nat := (s.clockLow, s.clockPending, s.clockFrom)

theorem foldl_clockView {α : Type} (f : State → α → State) (h : ∀ t a, (f t a).clockView = t.clockView) (l : List α)
    (s : State) : (l.foldl f s).clockView = s.clockView := by
  induction l generalizing s with
  | nil => rfl
  | cons a l ih => rw [List.foldl_cons, ih, h]

@[simp] theorem State.setPartition_clockView (s : State) (p : Nat) (x : Partition) : (s.setPartition p x).clockView = s.clockView := rfl

@[simp] theorem State.setRim_clockView (s : State) (k : Nat) (r : Rim) : (s.setRim k r).clockView = s.clockView := rfl

@[simp] theorem State.drop_clockView (s : State) (w : Nat) (src : Source) : (s.drop w src).clockView = s.clockView := by
  unfold State.drop; split <;> rfl

@[simp] theorem State.releaseRound_clockView (s : State) (p : Nat) (r : HoldReason) : (s.releaseRound p r).clockView = s.clockView := by
  unfold State.releaseRound
  split
  · rfl
  · dsimp only
    split <;> simp

@[simp] theorem State.endCalibration_clockView (s : State) (k : Nat) : (s.endCalibration k).clockView = s.clockView := by
  unfold State.endCalibration
  dsimp only
  split
  · rfl
  · simp [State.dropBoth]

@[simp] theorem State.endForced_clockView (s : State) : s.endForced.clockView = s.clockView :=
  foldl_clockView (fun t (e : Nat × Rim) => t.endCalibration e.1) (fun t e => State.endCalibration_clockView t e.1) _ s

theorem State.tick_clockFrom {s : State} (good : s.power = .good) : s.tick.clockFrom = s.clockUnderWay := by
  rw [State.tick, if_neg (not_not.2 good)]
  exact congrArg (·.2.2) (State.endForced_clockView _)

/-! ### Releasing the holds of a clock change (R200, R434) -/

/-- Partition `p`, if there is one, is not held for the reason. -/
def State.Released (s : State) (r : HoldReason) (p : Nat) : Prop := ∀ y, s.partition? p = some y → r ∉ y.run.holds

@[simp] theorem State.drop_partition? (s : State) (w : Nat) (src : Source) (p : Nat) : (s.drop w src).partition? p = s.partition? p := by
  unfold State.drop; split <;> rfl

theorem State.releaseRound_partition? (s : State) (p j : Nat) (r : HoldReason) :
    (s.releaseRound p r).partition? j =
      if j = p then (s.partition? p).map (fun x => { x with run := { x.run with holds := x.run.holds.filter (· != r) } })
      else s.partition? j := by
  unfold State.releaseRound
  split
  next absent =>
    split
    next same => rw [same, absent]; rfl
    next => rfl
  next x found =>
    dsimp only
    rw [apply_ite (State.partition? · j), State.drop_partition?, ite_self, State.partition?_setPartition, found]
    rfl

theorem released_releaseRound_self (s : State) (r : HoldReason) (p : Nat) : (s.releaseRound p r).Released r p := by
  intro y found
  rw [State.releaseRound_partition?, if_pos rfl] at found
  obtain ⟨x, -, rfl⟩ := Option.map_eq_some_iff.1 found
  simp

theorem State.Released.releaseRound {s : State} {r : HoldReason} {j : Nat} (h : s.Released r j) (p : Nat) :
    (s.releaseRound p r).Released r j := by
  by_cases same : j = p
  · exact same ▸ released_releaseRound_self s r j
  · intro y found
    rw [State.releaseRound_partition?, if_neg same] at found
    exact h y found

theorem State.Released.releaseRounds {r : HoldReason} {j : Nat} (l : SMap Partition) : ∀ {s : State}, s.Released r j →
    (l.foldl (fun t e => t.releaseRound e.1 r) s).Released r j := by
  induction l with
  | nil => exact id
  | cons e l ih => exact fun h => ih (h.releaseRound e.1)

/-- Releasing a list of partitions releases each partition in it. -/
theorem released_releaseRounds {r : HoldReason} {e : Nat × Partition} {l : SMap Partition} (he : e ∈ l) (s : State) :
    (l.foldl (fun t e => t.releaseRound e.1 r) s).Released r e.1 := by
  induction l generalizing s with
  | nil => cases he
  | cons a l ih =>
    rw [List.foldl_cons]
    obtain rfl | later := List.mem_cons.1 he
    · exact (released_releaseRound_self s r e.1).releaseRounds l
    · exact ih later _

/-- A number that names a partition is listed with it. -/
theorem mem_of_partition? {s : State} {p : Nat} {x : Partition} (h : s.partition? p = some x) : (p, x) ∈ s.partitions := by
  obtain ⟨e, found, rfl⟩ := Option.map_eq_some_iff.1 h
  have key : e.1 = p := by simpa using List.find?_some found
  exact key ▸ List.mem_of_find?_eq_some found

theorem released_all (s : State) (r : HoldReason) (p : Nat) :
    (s.partitions.foldl (fun t e => t.releaseRound e.1 r) s).Released r p := by
  cases found : s.partition? p with
  | some x => exact released_releaseRounds (mem_of_partition? found) s
  | none => exact State.Released.releaseRounds s.partitions (fun y h => by simp [found] at h)

/-! ### Moving the clock point (R434) -/

/-- The module after the decided move. -/
def State.clockChanged (s : State) : State :=
  s.partitions.foldl (fun t e => t.releaseRound e.1 .clock)
    { s with clockLow := !s.clockLow, clockPending := false, clockFrom := none }

theorem State.clockChanged_clockView (s : State) : s.clockChanged.clockView = (!s.clockLow, false, none) :=
  foldl_clockView (fun t (e : Nat × Partition) => t.releaseRound e.1 .clock) (fun t e => State.releaseRound_clockView t e.1 .clock) _ _

theorem State.clockChanged_released (s : State) (p : Nat) : s.clockChanged.Released .clock p :=
  released_all { s with clockLow := !s.clockLow, clockPending := false, clockFrom := none } .clock p

section
variable {s : State}

theorem exec_clockChange_moves (pending : s.clockPending = true) (ready : ∀ e ∈ s.partitions, s.clockReady e.1 e.2 = true)
    {since : Nat} (since_eq : s.clockFrom = some since) (due : since + 20 * usec ≤ s.time) :
    exec .clockChange s = .next s.clockChanged :=
  if_neg (by simpa [pending, since_eq, clockTime, due] using ready)

theorem exec_clockChange_waits (h : (∃ e ∈ s.partitions, s.clockReady e.1 e.2 = false) ∨
      (∀ since, s.clockFrom = some since → s.time < since + 20 * usec)) :
    exec .clockChange s = .next s := by
  refine if_pos (.inr ?_)
  obtain ⟨e, he, busy⟩ | early := h
  · refine .inl fun all => ?_
    simpa [busy] using List.all_eq_true.1 all e he
  · refine .inr fun passed => ?_
    cases begun : s.clockFrom with
    | none => simp [begun] at passed
    | some since =>
      rw [begun] at passed
      exact absurd (early since begun) (not_lt.2 (of_decide_eq_true passed))

theorem State.clockUnderWay_eq (s : State) : s.clockUnderWay =
    if s.clockPending = true ∧ ∀ e ∈ s.partitions, s.clockReady e.1 e.2 = true then some (s.clockFrom.getD s.time) else none := by
  simp only [State.clockUnderWay, Bool.and_eq_true, List.all_eq_true]

theorem step_idle (idle : s.pending = []) : step s = .next s.tick := by
  rw [step, idle]

end

/-- Settles O40: the times that relimiting keeps, the decision at either point, and the move as `clockChanged`. -/
theorem clockFollowsTheLimit : Obligations.ClockFollowsTheLimit := by
  unfold Obligations.ClockFollowsTheLimit
  intro s t
  refine ⟨?_, ?_, ?_, ?_, ?_, exec_clockPointDecision_without_lowClock, ?_, exec_clockChange_waits, ?_⟩
  · intro below
    rw [State.relimit_belowSince, if_pos below]
    cases s.belowSince <;> rfl
  · intro notBelow
    rw [State.relimit_belowSince, if_neg (not_lt.2 notBelow)]
  · intro above
    rw [State.relimit_aboveSince, if_pos above]
    cases s.aboveSince <;> rfl
  · intro notAbove
    rw [State.relimit_aboveSince, if_neg (not_le.2 notAbove)]
  · intro good low since
    exact ⟨exec_clockPointDecision_down good low, exec_clockPointDecision_up good low⟩
  · intro since pending ready since_eq due
    have clock := State.clockChanged_clockView s
    simp only [State.clockView, Prod.mk.injEq] at clock
    obtain ⟨point, decided, under⟩ := clock
    exact ⟨_, exec_clockChange_moves pending ready since_eq due, point, decided, under, State.clockChanged_released s⟩
  · intro good idle
    exact ⟨_, step_idle idle, (State.tick_clockFrom good).trans (State.clockUnderWay_eq s)⟩

end Sys2Proof.Machine
end

section
/-! PROOFS. What a step does to the module's own part of the state (log entry 2, R398, R418, R422, R477, R479, R485, R500): its
standing conditions hold after reset, every step keeps them, and only the module's own events change that part. -/

namespace Sys2Proof.Machine

theorem step_command {s : State} {c : Instr} {rest : List Instr} (front : s.pending = c :: rest) :
    step s = exec c { s with pending := rest } := by
  rw [step, front]

/-- Settles O57: `step` by its two branches. -/
theorem stepRunsTheFrontCommand : Obligations.StepRunsTheFrontCommand := by
  unfold Obligations.StepRunsTheFrontCommand
  exact fun s => ⟨fun c rest front => step_command front, step_idle⟩

/-- Settles O58: at reset there is no power-good, no link and no stored envelope. -/
theorem resetSatisfiesInv : Obligations.ResetSatisfiesInv := by
  unfold Obligations.ResetSatisfiesInv
  exact {
    powerGood := by decide
    running := by decide
    linked := by decide
    envelope := by decide
    stored := fun _ h => nomatch h
    features := by decide
    slot := by decide }

/-! ### Commands that leave the module alone -/

/-- A command of a partition, its dies, its rims and its rings, and every other that is no event of the module itself. -/
def Instr.quiet (c : Instr) : Prop :=
  match c with
  | .negotiate _ | .setEnvelope _ | .fwUpdate _ | .coolantSample _ _ | .converterFault _ | .throtNAssert | .throtNRelease
  | .emergOffN | .emergOffRelease | .powerGood | .inputOutOfRange | .powerLoss | .stackTemperatureSample _ _
  | .dieTemperatureSample _ _ | .converterTemperatureSample _ _ | .castOn | .linkTrained _ _ | .castOnReady _ | .perstNAssert
  | .hotReset | .clockChange | .i3cTargetReady | .entdaa _ | .setdasa _ | .rstdaa | .setnewda _ | .i3cPrivateWrite _
  | .i3cPrivateRead _ => False
  | _ => True

/-- Command by command, its frame lemma; the excluded ones are no cases. -/
theorem outView_exec_of_quiet (s : State) {c : Instr} (quiet : Instr.quiet c) : outView (exec c s) = some s.view := by
  cases c
  all_goals simp [exec, Instr.quiet] at quiet ⊢

theorem exists_next_of_outView {o : Out} {v : ModuleView} (h : outView o = some v) : ∃ t, o = .next t ∧ t.view = v := by
  cases o with
  | next t => exact ⟨t, rfl, Option.some.inj h⟩
  | fault r => cases h
  | refused r => cases h

/-- Settles O60, by the frame lemma of each command. -/
theorem commandsLeaveTheModuleAlone : Obligations.CommandsLeaveTheModuleAlone := by
  unfold Obligations.CommandsLeaveTheModuleAlone
  exact fun s c quiet => exists_next_of_outView (outView_exec_of_quiet s quiet)

/-! ### The standing conditions under the module's own operations -/

theorem Part.floorW_le_maxW (p : Part) : p.floorW ≤ p.maxW := by cases p <;> decide

theorem supported_mask (a : BitVec 256) : a &&& supported &&& supported = a &&& supported := by
  rw [BitVec.and_assoc, BitVec.and_self]

section
variable {s t : State}

theorem State.Inv.of_view (h : s.Inv) (same : t.view = s.view) : t.Inv := by
  unfold State.Inv
  rw [same]
  exact h

theorem State.Inv.runs (h : s.Inv) (stage : s.stage ≠ .reset) : s.power = .good ∧ s.perst = false := ModuleView.Sound.running h stage

theorem State.Inv.stage_eq (h : s.Inv) (down : s.power ≠ .good) : s.stage = .reset :=
  not_not.1 fun stage => down (h.runs stage).1

theorem State.Inv.withPending (h : s.Inv) (l : List Instr) : State.Inv { s with pending := l } :=
  { h with }

theorem State.Inv.relimit (h : s.Inv) : s.relimit.Inv := h.of_view (State.relimit_view s)

/-- Without die power the module is as after reset, but for the parts that no condition speaks of and the firmware slot. -/
theorem State.Inv.unpowered (h : s.Inv) {how : Power} (down : how ≠ .good) (e : Bool) :
    State.Inv { s.unpowered how with emerg := e } where
  powerGood := by
    change (if how = .removed then Drive.highZ else .low) = .high ↔ how = .good
    split <;> simp [down]
  running := fun stage => absurd rfl stage
  linked := fun up => Bool.noConfusion up
  envelope := ⟨le_refl _, Part.floorW_le_maxW _⟩
  stored := fun _ stored => nomatch stored
  features := BitVec.zero_and
  slot := h.slot

theorem State.Inv.trip (h : s.Inv) : s.trip.Inv := h.unpowered (how := .tripped) (by decide) s.emerg

/-- Powered again, it has PWRGD high and has not begun cast-on. -/
theorem State.Inv.powered (h : s.Inv) (e : Bool) (k : BitVec 16) :
    State.Inv { s.unpowered .good with emerg := e, pwrgd := .high, converters := k } where
  powerGood := by simp [State.unpowered, State.view]
  running := fun stage => absurd rfl stage
  linked := fun up => Bool.noConfusion up
  envelope := ⟨le_refl _, Part.floorW_le_maxW _⟩
  stored := fun _ stored => nomatch stored
  features := BitVec.zero_and
  slot := h.slot

/-- A cleared module is before cast-on, with the floor as its envelope. -/
theorem State.Inv.cleared (h : s.Inv) (perst : Bool) : State.Inv { s.cleared with perst := perst } where
  powerGood := h.powerGood
  running := fun stage => absurd rfl stage
  linked := fun up => Bool.noConfusion up
  envelope := ⟨le_refl _, Part.floorW_le_maxW _⟩
  stored := fun _ stored => nomatch stored
  features := BitVec.zero_and
  slot := h.slot

theorem State.Inv.tick (h : s.Inv) : s.tick.Inv := by
  unfold State.tick
  split
  · exact h
  · refine State.Inv.of_view ?_ (State.endForced_view _)
    refine { h with running := fun _ => h.runs fun reset => ?_ }
    simp_all [State.view]

theorem State.Inv.setEnvelope (h : s.Inv) {w : Nat} (lo : s.part.floorW ≤ w) (hi : w ≤ s.part.maxW) :
    (s.setEnvelope w).Inv := by
  unfold State.setEnvelope
  split
  next throt =>
    refine { h with stored := fun v stored => ?_ }
    obtain rfl := Option.some.inj stored
    exact ⟨throt, lo, hi⟩
  next => exact State.Inv.relimit { h with envelope := ⟨lo, hi⟩ }

theorem State.Inv.withFeatures (h : s.Inv) {f : BitVec 256} (known : f &&& supported = f) :
    State.Inv { s with features := f } :=
  { h with features := known }

theorem State.Inv.installFirmware (h : s.Inv) (bs : List Byte) : (s.installFirmware bs).Inv :=
  { h with slot := Nat.sub_le 1 s.activeSlot }

end

/-! ### The standing conditions under every command -/

/-- A next state, where there is one, satisfies the standing conditions. -/
def soundOut (o : Out) : Prop := ∀ t, o = .next t → t.Inv

@[simp] theorem soundOut_next {t : State} : soundOut (.next t) ↔ t.Inv :=
  ⟨fun h => h t rfl, fun h _ same => Host.Outcome.next.inj same ▸ h⟩

section
variable {s : State}

theorem check_none_of_gate {q : Request} {opcode : Nat} {check : Option Status} {c : Picked}
    (h : s.gate q opcode check = .runs c) : check = none := by
  unfold State.gate at h
  cases check with
  | none => rfl
  | some st => cases lacks : s.lacking q opcode <;> simp [lacks] at h <;> split at h <;> grind

theorem State.Inv.serve (h : s.Inv) {q : Request} {opcode : Nat} {check : Option Status} {run : Picked → State → State}
    (runs : ∀ c t, t.view = s.view → check = none → (run c t).Inv) : soundOut (s.serve q opcode check run) := by
  unfold State.serve
  split
  next => exact soundOut_next.2 h
  next c st _ => exact soundOut_next.2 (h.of_view (State.answer_view ..))
  next c gate => exact soundOut_next.2 (runs c _ (State.unpick_view ..) (check_none_of_gate gate))

theorem soundOut_negotiate (h : s.Inv) (q : Request) : soundOut (execNegotiate q s) := by
  unfold execNegotiate
  refine h.serve fun c t same _ => ?_
  exact ((h.of_view same).withFeatures (supported_mask _)).of_view (State.done_view ..)

theorem soundOut_setEnvelope (h : s.Inv) (q : Request) : soundOut (execSetEnvelope q s) := by
  unfold execSetEnvelope
  refine h.serve fun c t same inside => ?_
  have part : t.part = s.part := congrArg ModuleView.part same
  have limits : s.part.floorW ≤ paramAt q.entry 0 ∧ paramAt q.entry 0 ≤ s.part.maxW := by
    simpa [refuseIf] using inside
  rw [← part] at limits
  exact ((h.of_view same).setEnvelope limits.1 limits.2).of_view (State.done_view ..)

theorem soundOut_fwUpdate (h : s.Inv) (q : Request) : soundOut (execFwUpdate q s) := by
  unfold execFwUpdate
  refine h.serve fun c t same _ => ?_
  have ht := h.of_view same
  split
  · exact ht.of_view (State.complete_view ..)
  · exact (ht.installFirmware _).of_view (State.done_view ..)

theorem soundOut_powerGood (h : s.Inv) : soundOut (execPowerGood s) := by
  unfold execPowerGood
  split
  · exact soundOut_next.2 h
  · exact soundOut_next.2 (h.powered s.emerg 0xFFFF).relimit

theorem soundOut_inputOutOfRange (h : s.Inv) : soundOut (execInputOutOfRange s) := by
  unfold execInputOutOfRange
  split
  · exact soundOut_next.2 (h.unpowered (how := .inputOut) (by decide) s.emerg)
  · exact soundOut_next.2 h

theorem soundOut_powerLoss (h : s.Inv) : soundOut (execPowerLoss s) :=
  soundOut_next.2 (h.unpowered (how := .removed) (by decide) s.emerg)

theorem soundOut_emergOffN (h : s.Inv) : soundOut (execEmergOffN s) := by
  unfold execEmergOffN
  split
  · exact soundOut_next.2 (h.unpowered (how := .emergency) (by decide) true)
  · exact soundOut_next.2 { h with }

theorem soundOut_emergOffRelease (h : s.Inv) : soundOut (execEmergOffRelease s) := by
  unfold execEmergOffRelease
  split
  · exact soundOut_next.2 h
  · split
    · exact soundOut_next.2 (h.powered false s.converters).relimit
    · exact soundOut_next.2 { h with }

theorem soundOut_converterFault (h : s.Inv) (i : Fin 16) : soundOut (execConverterFault i s) := by
  unfold execConverterFault
  split
  · exact soundOut_next.2 h
  · exact soundOut_next.2 (State.Inv.relimit { h with })

theorem soundOut_throtNAssert (h : s.Inv) : soundOut (execThrotNAssert s) := by
  unfold execThrotNAssert
  split
  · exact soundOut_next.2 h
  · exact soundOut_next.2 (State.Inv.relimit { h with stored := fun w stored => ⟨rfl, (h.stored w stored).2⟩ })

/-- The envelope that the release of THROT_N puts in force is the stored one, or stays. -/
theorem State.Inv.releasedEnvelope (h : s.Inv) : s.part.floorW ≤ s.storedEnvelope.getD s.envelope ∧
    s.storedEnvelope.getD s.envelope ≤ s.part.maxW := by
  cases stored : s.storedEnvelope with
  | none => exact h.envelope
  | some w => exact (h.stored w stored).2

theorem soundOut_throtNRelease (h : s.Inv) : soundOut (execThrotNRelease s) := by
  unfold execThrotNRelease
  split
  · exact soundOut_next.2 h
  · exact soundOut_next.2 (State.Inv.relimit { h with envelope := h.releasedEnvelope, stored := fun _ stored => nomatch stored })

theorem soundOut_stackTemperatureSample (h : s.Inv) (rim : RimId) (sensor : Int) :
    soundOut (execStackTemperatureSample rim sensor s) := by
  unfold execStackTemperatureSample
  split
  · exact soundOut_next.2 h
  · dsimp only
    split
    · exact soundOut_next.2 h.trip
    · refine soundOut_next.2 (h.of_view ?_)
      split <;> split <;> simp

theorem soundOut_dieTemperatureSample (h : s.Inv) (n : Node) (junction : Int) :
    soundOut (execDieTemperatureSample n junction s) := by
  unfold execDieTemperatureSample
  split
  · exact soundOut_next.2 h
  · split
    · exact soundOut_next.2 h.trip
    · dsimp only
      split
      · exact soundOut_next.2 { h with }
      · exact soundOut_next.2 (h.of_view (by simp))

theorem soundOut_coolantSample (h : s.Inv) (inlet outlet : Int) : soundOut (execCoolantSample inlet outlet s) := by
  unfold execCoolantSample
  split
  · exact soundOut_next.2 h
  · split
    · exact soundOut_next.2 h.trip
    · exact soundOut_next.2 (State.Inv.relimit { h with })

theorem soundOut_converterTemperatureSample (h : s.Inv) (i : Fin 16) (degrees : Int) :
    soundOut (execConverterTemperatureSample i degrees s) := by
  unfold execConverterTemperatureSample
  split
  · exact soundOut_next.2 h.trip
  · exact soundOut_next.2 h

theorem soundOut_clockChange (h : s.Inv) : soundOut (execClockChange s) := by
  unfold execClockChange
  split
  · exact soundOut_next.2 h
  · have moved : State.Inv { s with clockLow := !s.clockLow, clockPending := false, clockFrom := none } := { h with }
    exact soundOut_next.2 (moved.of_view (foldl_view _ _ _ fun t e => State.releaseRound_view t e.1 .clock))

/-- Cast-on under power-good passes to a stage that runs, whichever firmware it finds. -/
theorem State.Inv.castOn (h : s.Inv) (good : s.power = .good) (b : Nat) (st : Stage) (image : List Byte) (fallback : Bool) :
    State.Inv { s.cleared with perst := false, bootCount := b, stage := st, runningImage := image, fallback := fallback } :=
  { h.cleared false with running := fun _ => ⟨good, rfl⟩ }

theorem soundOut_castOn (h : s.Inv) : soundOut (execCastOn s) := by
  unfold execCastOn
  split
  · exact soundOut_next.2 h
  next start =>
    have good : s.power = .good := not_not.1 (not_or.1 start).1
    refine soundOut_next.2 (State.Inv.relimit ?_)
    split
    · exact h.castOn good ..
    · split
      · exact h.castOn good ..
      · exact h.castOn good ..

theorem soundOut_linkTrained (h : s.Inv) (rate : Fin 3) (narrow : Bool) : soundOut (execLinkTrained rate narrow s) := by
  unfold execLinkTrained
  split
  next stage =>
    have runs := h.runs (by simp [stage])
    exact soundOut_next.2 { h with running := fun _ => runs, linked := fun _ => runs.1 }
  next =>
    split
    next stage => exact soundOut_next.2 { h with linked := fun _ => (h.runs (by simp [stage])).1 }
    next => exact soundOut_next.2 h

theorem soundOut_castOnReady (h : s.Inv) (failed : List Node) : soundOut (execCastOnReady failed s) := by
  unfold execCastOnReady
  split
  · exact soundOut_next.2 h
  next stage =>
    have runs := h.runs fun reset => stage (by simp [reset])
    have same : (failed.foldl (fun t n => t.failDie n) s).remesh.view = s.view :=
      (State.remesh_view _).trans (foldl_view _ _ _ fun t n => State.failDie_view t n)
    have tested := h.of_view same
    exact soundOut_next.2 { tested with
      running := fun _ => ⟨(congrArg ModuleView.power same).trans runs.1, (congrArg ModuleView.perst same).trans runs.2⟩ }

theorem soundOut_perstNAssert (h : s.Inv) : soundOut (execPerstNAssert s) := by
  unfold execPerstNAssert
  split
  · exact soundOut_next.2 h
  · split
    next down => exact soundOut_next.2 { h with running := fun stage => absurd (h.stage_eq down) stage }
    next => exact soundOut_next.2 (h.cleared true).relimit

theorem soundOut_hotReset (h : s.Inv) : soundOut (execHotReset s) := by
  unfold execHotReset
  split
  · exact soundOut_next.2 h
  · exact soundOut_next.2 (h.cleared s.perst).relimit

/-- No condition speaks of the I3C target. -/
theorem State.Inv.i3c (h : s.Inv) (ready : Bool) (address : Option (BitVec 7)) (offset : BitVec 7) (ack : Bool) (answer : List Byte) :
    State.Inv { s with i3cReady := ready, i3cAddress := address, i3cOffset := offset, i3cAck := ack, i3cAnswer := answer } :=
  { h with }

theorem State.Inv.i3cNack (h : s.Inv) : s.i3cNack.Inv := h.of_view (State.i3cNack_view s)

theorem soundOut_i3cAddressed (h : s.Inv) (able : Prop) [Decidable able] (address : Option (BitVec 7)) :
    soundOut (if able then .next { s.i3cReturn [] with i3cAddress := address } else .next s.i3cNack) := by
  split
  · exact soundOut_next.2 (h.i3c s.i3cReady address s.i3cOffset true [])
  · exact soundOut_next.2 h.i3cNack

theorem soundOut_i3cTargetReady (h : s.Inv) : soundOut (execI3cTargetReady s) := by
  unfold execI3cTargetReady
  split
  · exact soundOut_next.2 (h.i3c true s.i3cAddress s.i3cOffset s.i3cAck s.i3cAnswer)
  · exact soundOut_next.2 h

theorem soundOut_i3cPrivateWrite (h : s.Inv) (bytes : List Byte) : soundOut (execI3cPrivateWrite bytes s) := by
  cases bytes with
  | nil => exact soundOut_next.2 h
  | cons b rest =>
    unfold execI3cPrivateWrite
    dsimp only
    split
    · exact soundOut_next.2 (h.i3c s.i3cReady s.i3cAddress (b.setWidth 7) rest.isEmpty [])
    · exact soundOut_next.2 h.i3cNack

theorem soundOut_i3cPrivateRead (h : s.Inv) (count : Fin 129) : soundOut (execI3cPrivateRead count s) := by
  obtain ⟨t, next, same⟩ := exists_next_of_outView (State.i3cGet_view s
    ((List.range count).map fun i => s.management.getD ((s.i3cOffset.toNat + i) % 128) 0))
  exact fun u run => h.of_view (Host.Outcome.next.inj (run.symm.trans next) ▸ same)

/-- A command is quiet, or one of the module's own events, each with its lemma above. -/
theorem soundOut_exec (h : s.Inv) (c : Instr) : soundOut (exec c s) := by
  by_cases quiet : Instr.quiet c
  · obtain ⟨t, next, same⟩ := exists_next_of_outView (outView_exec_of_quiet s quiet)
    exact next ▸ soundOut_next.2 (h.of_view same)
  cases c
  case negotiate q => exact soundOut_negotiate h q
  case setEnvelope q => exact soundOut_setEnvelope h q
  case fwUpdate q => exact soundOut_fwUpdate h q
  case coolantSample a b => exact soundOut_coolantSample h a b
  case converterFault i => exact soundOut_converterFault h i
  case throtNAssert => exact soundOut_throtNAssert h
  case throtNRelease => exact soundOut_throtNRelease h
  case emergOffN => exact soundOut_emergOffN h
  case emergOffRelease => exact soundOut_emergOffRelease h
  case powerGood => exact soundOut_powerGood h
  case inputOutOfRange => exact soundOut_inputOutOfRange h
  case powerLoss => exact soundOut_powerLoss h
  case stackTemperatureSample a b => exact soundOut_stackTemperatureSample h a b
  case dieTemperatureSample a b => exact soundOut_dieTemperatureSample h a b
  case converterTemperatureSample a b => exact soundOut_converterTemperatureSample h a b
  case castOn => exact soundOut_castOn h
  case linkTrained a b => exact soundOut_linkTrained h a b
  case castOnReady l => exact soundOut_castOnReady h l
  case perstNAssert => exact soundOut_perstNAssert h
  case hotReset => exact soundOut_hotReset h
  case clockChange => exact soundOut_clockChange h
  case i3cTargetReady => exact soundOut_i3cTargetReady h
  case entdaa a => exact soundOut_i3cAddressed h _ (some a)
  case setdasa a => exact soundOut_i3cAddressed h _ (some a)
  case rstdaa => exact soundOut_i3cAddressed h _ none
  case setnewda a => exact soundOut_i3cAddressed h _ (some a)
  case i3cPrivateWrite bs => exact soundOut_i3cPrivateWrite h bs
  case i3cPrivateRead n => exact soundOut_i3cPrivateRead h n
  all_goals exact absurd trivial quiet

end

/-- Settles O59: an idle step is a beat, and every command keeps the conditions. -/
theorem everyStepKeepsInv : Obligations.EveryStepKeepsInv := by
  unfold Obligations.EveryStepKeepsInv
  intro s t h stepped
  cases front : s.pending with
  | nil =>
    rw [step_idle front] at stepped
    exact Host.Outcome.next.inj stepped ▸ h.tick
  | cons c rest =>
    rw [step_command front] at stepped
    exact soundOut_exec (h.withPending rest) c t stepped

end Sys2Proof.Machine
end

section
/-! PROOFS. The rim cache and the write queue beneath it (spec/09_stack_memory.md R256, R274–R278): what the stack, the queue and
the cache return after each operation on a unit. -/

namespace Sys2Proof.Machine

/-! ### The stack and the write queue -/

section
variable (r : Rim) (u v c : Nat) (bs : List Byte)

@[simp] theorem Rim.length_stackBytes : (r.stackBytes u).length = 64 := by simp [Rim.stackBytes]

@[simp] theorem Rim.store_cache : (r.store u bs).cache = r.cache := rfl

@[simp] theorem Rim.store_writes : (r.store u bs).writes = r.writes := rfl

/-- The stack holds what is stored in a unit, and every other unit as before. -/
theorem Rim.stackBytes_store {bs : List Byte} (whole : bs.length = 64) :
    (r.store u bs).stackBytes v = if v = u then bs else r.stackBytes v := by
  refine List.ext_getElem (by split <;> simp [whole]) fun i hi _ => ?_
  have inside : i < 64 := (r.store u bs).length_stackBytes v ▸ hi
  simp only [Rim.stackBytes, Rim.store, List.getElem_map, List.getElem_range, Mem.get?_record, whole]
  by_cases same : v = u
  · subst same
    simp [inside, whole]
  · rw [if_neg (by omega)]
    simp [same]

/-- The data of the last of some writes to a unit, and where there is none, `old`. -/
def lastData (ws : List QueuedWrite) (u : Nat) (old : List Byte) : List Byte :=
  ((ws.filter (fun w => w.unit == u)).getLast?.map (·.data)).getD old

theorem Rim.below_eq : r.below u = lastData r.writes u (r.stackBytes u) := by
  unfold Rim.below lastData
  split
  next w found => simp [found]
  next none => simp [none]

theorem lastData_append_one (ws : List QueuedWrite) (w : QueuedWrite) (old : List Byte) :
    lastData (ws ++ [w]) u old = if u = w.unit then w.data else lastData ws u old := by
  by_cases same : u = w.unit
  · simp [lastData, same]
  · simp [lastData, same, Ne.symm same]

theorem lastData_of_forall_ne {ws : List QueuedWrite} {u : Nat} (none : ∀ w ∈ ws, w.unit ≠ u) (old : List Byte) :
    lastData ws u old = old := by
  have empty : ws.filter (fun w => w.unit == u) = [] := by simpa using none
  simp [lastData, empty]

theorem Rim.foldl_store_frame (ws : List QueuedWrite) :
    (ws.foldl (fun r w => r.store w.unit w.data) r).cache = r.cache ∧
      (ws.foldl (fun r w => r.store w.unit w.data) r).writes = r.writes := by
  induction ws generalizing r with
  | nil => exact ⟨rfl, rfl⟩
  | cons w ws ih => exact ih (r.store w.unit w.data)

/-- Writes that are stored in order leave the last of each unit. -/
theorem Rim.stackBytes_foldl_store {ws : List QueuedWrite} (whole : ∀ w ∈ ws, w.data.length = 64) :
    (ws.foldl (fun r w => r.store w.unit w.data) r).stackBytes v = lastData ws v (r.stackBytes v) := by
  induction ws using List.reverseRecOn with
  | nil => rfl
  | append_singleton ws w ih =>
    rw [List.foldl_append, List.foldl_cons, List.foldl_nil, Rim.stackBytes_store _ _ _ (whole w (by simp)),
      lastData_append_one, ih fun w hw => whole w (by simp [hw])]

theorem Rim.drainChannel_writes : (r.drainChannel c).writes = r.writes.filter (fun w => channelOf w.unit != c) := by
  simp only [Rim.drainChannel, List.partition_eq_filter_filter]
  exact (Rim.foldl_store_frame _ _).2

theorem Rim.drainChannel_cache : (r.drainChannel c).cache = r.cache := by
  simp only [Rim.drainChannel, List.partition_eq_filter_filter]
  exact (Rim.foldl_store_frame _ _).1

theorem lastData_filter_channel (ws : List QueuedWrite) (keep : Nat → Bool) (kept : keep u = true) (old : List Byte) :
    lastData (ws.filter (fun w => keep w.unit)) u old = lastData ws u old := by
  unfold lastData
  rw [List.filter_filter]
  congr 3
  refine List.filter_congr fun w _ => ?_
  by_cases same : w.unit = u <;> simp [same, kept]

/-- Writing a channel's queue to the stack changes nothing that a read beneath the cache returns. -/
theorem Rim.drainChannel_below (whole : ∀ w ∈ r.writes, w.data.length = 64) : (r.drainChannel c).below v = r.below v := by
  have stored : (r.drainChannel c).stackBytes v =
      lastData (r.writes.filter (fun w => channelOf w.unit == c)) v (r.stackBytes v) := by
    simp only [Rim.drainChannel, List.partition_eq_filter_filter]
    exact Rim.stackBytes_foldl_store _ _ fun w hw => whole w (List.mem_of_mem_filter hw)
  rw [Rim.below_eq, Rim.below_eq, Rim.drainChannel_writes, stored]
  by_cases here : channelOf v = c
  · rw [lastData_filter_channel v r.writes (fun u => channelOf u == c) (by simpa using here)]
    refine lastData_of_forall_ne (fun w hw same => ?_) _
    simp [same, here] at hw
  · rw [lastData_filter_channel v r.writes (fun u => channelOf u != c) (by simpa using here)]
    refine congrArg _ (lastData_of_forall_ne (fun w hw same => ?_) _)
    simp [same, here] at hw

end

/-! ### Rims that read alike beneath the cache -/

/-- `t` has the cache of `r` and reads alike beneath it, and its queue holds nothing new. -/
structure Rim.Settled (r t : Rim) : Prop where
  cache : t.cache = r.cache
  below : ∀ v, t.below v = r.below v
  writes : ∀ w ∈ t.writes, w ∈ r.writes

section
variable {r s t : Rim}

theorem Rim.Settled.refl (r : Rim) : r.Settled r := ⟨rfl, fun _ => rfl, fun _ => id⟩

theorem Rim.Settled.trans (h : r.Settled s) (g : s.Settled t) : r.Settled t :=
  ⟨g.cache.trans h.cache, fun v => (g.below v).trans (h.below v), fun w hw => h.writes w (g.writes w hw)⟩

theorem Rim.Settled.line? (h : r.Settled t) (v : Nat) : t.line? v = r.line? v := by
  rw [Rim.line?, h.cache]
  rfl

theorem Rim.Settled.unitBytes (h : r.Settled t) (v : Nat) : t.unitBytes v = r.unitBytes v := by
  rw [Rim.unitBytes, h.line?, h.below]
  rfl

theorem Rim.Settled.coherent (h : r.Settled t) (c : r.Coherent) : t.Coherent := by
  obtain ⟨once, whole, lines⟩ := c
  refine ⟨h.cache ▸ once, fun w hw => whole w (h.writes w hw), fun l hl => ?_⟩
  rw [h.below]
  exact lines l (h.cache ▸ hl)

theorem Rim.settled_drainChannel (c : Nat) (whole : ∀ w ∈ r.writes, w.data.length = 64) : r.Settled (r.drainChannel c) where
  cache := r.drainChannel_cache c
  below v := r.drainChannel_below v c whole
  writes w hw := by
    rw [Rim.drainChannel_writes] at hw
    exact List.mem_of_mem_filter hw

theorem Rim.settled_foldl_drain (l : List Nat) (whole : ∀ w ∈ r.writes, w.data.length = 64) :
    r.Settled (l.foldl (fun t c =>
      if 64 ≤ (t.writes.filter (fun w => channelOf w.unit == c)).length ∨ ¬ t.readWaits c then t.drainChannel c else t) r) := by
  induction l generalizing r with
  | nil => exact .refl r
  | cons c l ih =>
    rw [List.foldl_cons]
    have first : r.Settled (if 64 ≤ (r.writes.filter (fun w => channelOf w.unit == c)).length ∨ ¬ r.readWaits c then
        r.drainChannel c else r) := by
      split
      · exact Rim.settled_drainChannel c whole
      · exact .refl r
    exact first.trans (ih fun w hw => whole w (first.writes w hw))

theorem Rim.settled_drain (whole : ∀ w ∈ r.writes, w.data.length = 64) : r.Settled r.drain := by
  unfold Rim.drain
  split
  · exact .refl r
  next =>
    generalize (r.writes.map (fun w => channelOf w.unit)).dedup = l
    exact Rim.settled_foldl_drain l whole

theorem Rim.settled_drainFor (u : Nat) (whole : ∀ w ∈ r.writes, w.data.length = 64) : r.Settled (r.drainFor u) := by
  unfold Rim.drainFor
  split
  · exact Rim.settled_drainChannel _ whole
  · exact .refl r

/-! ### A write that is sent -/

/-- Sending a write changes what a read beneath the cache returns of its unit, and nothing else. -/
theorem Rim.sendWrite_spec (r : Rim) (req u : Nat) {bs : List Byte} (whole : ∀ w ∈ r.writes, w.data.length = 64)
    (size : bs.length = 64) : (r.sendWrite req u bs).cache = r.cache ∧
      (∀ v, (r.sendWrite req u bs).below v = if v = u then bs else r.below v) ∧
      ∀ w ∈ (r.sendWrite req u bs).writes, w.data.length = 64 := by
  unfold Rim.sendWrite
  have room : r.Settled (if r.accepts 9 u then r else r.drainChannel (channelOf u)) := by
    split
    · exact .refl r
    · exact Rim.settled_drainChannel _ whole
  generalize (if r.accepts 9 u then r else r.drainChannel (channelOf u)) = m at room
  have whole' : ∀ w ∈ m.writes ++ [⟨u, req, bs⟩], w.data.length = 64 := by
    intro w hw
    obtain old | rfl := by simpa using hw
    · exact whole w (room.writes w old)
    · exact size
  have drained := Rim.settled_drain (r := { m with writes := m.writes ++ [⟨u, req, bs⟩] }) whole'
  refine ⟨drained.cache.trans room.cache, fun v => ?_, fun w hw => whole' w (drained.writes w hw)⟩
  rw [drained.below, ← room.below, Rim.below_eq, lastData_append_one, Rim.below_eq]
  rfl

theorem Rim.Coherent.below_length (h : r.Coherent) (u : Nat) : (r.below u).length = 64 := by
  unfold Rim.below
  split
  next w found => exact h.2.1 w (List.mem_of_mem_filter (List.mem_of_getLast? found))
  next => exact r.length_stackBytes u

theorem Rim.mem_cache_of_line? {u : Nat} {l : CacheLine} (h : r.line? u = some l) : l ∈ r.cache ∧ l.unit = u :=
  ⟨List.mem_of_find?_eq_some h, by simpa using List.find?_some h⟩

theorem Rim.unitBytes_eq (r : Rim) (u : Nat) : r.unitBytes u = ((r.line? u).map (·.data)).getD (r.below u) := by
  unfold Rim.unitBytes
  split
  next l found => simp [found]
  next none => simp [none]

theorem Rim.unitBytes_of_line? {u : Nat} {l : CacheLine} (h : r.line? u = some l) : r.unitBytes u = l.data := by
  rw [Rim.unitBytes, h]

theorem Rim.unitBytes_of_none {u : Nat} (h : r.line? u = none) : r.unitBytes u = r.below u := by
  rw [Rim.unitBytes, h]

/-- A write past the cache, of a unit that no line holds. -/
theorem Rim.Coherent.sendWrite (h : r.Coherent) (req u : Nat) {bs : List Byte} (size : bs.length = 64)
    (absent : r.line? u = none) : (r.sendWrite req u bs).Coherent ∧
      ∀ v, (r.sendWrite req u bs).unitBytes v = if v = u then bs else r.unitBytes v := by
  obtain ⟨once, whole, lines⟩ := h
  obtain ⟨cache, below, whole'⟩ := r.sendWrite_spec req u whole size
  have line (v : Nat) : (r.sendWrite req u bs).line? v = r.line? v := by rw [Rim.line?, cache]; rfl
  refine ⟨⟨cache ▸ once, whole', fun l hl => ?_⟩, fun v => ?_⟩
  · rw [cache] at hl
    have other : l.unit ≠ u := fun same => by
      simpa [same] using List.find?_eq_none.1 absent l hl
    rw [below, if_neg other]
    exact lines l hl
  · rw [Rim.unitBytes, line, below]
    by_cases same : v = u
    · simp [same, absent]
    · simp only [if_neg same]
      rfl

/-! ### Lines that come and go -/

/-- The rim with the line as its only one of the unit, and the newest. -/
def Rim.keepLine (r : Rim) (l : CacheLine) : Rim := { r with cache := l :: r.cache.filter (fun o => o.unit != l.unit) }

/-- The rim without a line of unit `u`. -/
def Rim.withoutLine (r : Rim) (u : Nat) : Rim := { r with cache := r.cache.filter (fun o => o.unit != u) }

theorem Rim.line?_withoutLine (r : Rim) (u v : Nat) : (r.withoutLine u).line? v = if v = u then none else r.line? v := by
  rw [Rim.line?, Rim.withoutLine, List.find?_filter]
  by_cases same : v = u
  · simp [same]
  · rw [if_neg same, Rim.line?]
    congr 1
    funext o
    by_cases at_ : o.unit = v <;> simp [at_, same]

theorem Rim.line?_keepLine (r : Rim) (l : CacheLine) (v : Nat) :
    (r.keepLine l).line? v = if v = l.unit then some l else r.line? v := by
  have rest : (r.cache.filter (fun o => o.unit != l.unit)).find? (fun o => o.unit == v) =
      if v = l.unit then none else r.line? v := r.line?_withoutLine l.unit v
  rw [Rim.line?, Rim.keepLine, List.find?_cons, rest]
  by_cases same : v = l.unit
  · simp [same]
  · simp [same, beq_false_of_ne (Ne.symm same)]

theorem Rim.Coherent.withoutLine (h : r.Coherent) (u : Nat) : (r.withoutLine u).Coherent := by
  obtain ⟨once, whole, lines⟩ := h
  exact ⟨once.sublist (List.filter_sublist.map _), whole, fun l hl => lines l (List.mem_of_mem_filter hl)⟩

theorem Rim.Coherent.keepLine (h : r.Coherent) {l : CacheLine} (size : l.data.length = 64)
    (clean : l.dirty = false → l.data = r.below l.unit) : (r.keepLine l).Coherent ∧
      ∀ v, (r.keepLine l).unitBytes v = if v = l.unit then l.data else r.unitBytes v := by
  obtain ⟨once, whole, lines⟩ := h.withoutLine l.unit
  refine ⟨⟨?_, whole, fun o ho => ?_⟩, fun v => ?_⟩
  · refine List.nodup_cons.2 ⟨?_, once⟩
    simp
  · obtain rfl | ho := List.mem_cons.1 ho
    · exact ⟨size, clean⟩
    · exact lines o ho
  · rw [Rim.unitBytes, Rim.line?_keepLine]
    by_cases same : v = l.unit
    · simp [same]
    · simp only [if_neg same]
      rfl

/-- The rim after the set's line `old` has left: a dirty one is written back. -/
def Rim.evictLine (r : Rim) (old : CacheLine) : Rim :=
  if old.dirty then (r.withoutLine old.unit).sendWrite 8 old.unit old.data else r.withoutLine old.unit

theorem Rim.Coherent.line?_of_mem (h : r.Coherent) {l : CacheLine} (hl : l ∈ r.cache) : r.line? l.unit = some l := by
  obtain ⟨o, found⟩ := Option.isSome_iff_exists.1 (List.find?_isSome (p := fun o => o.unit == l.unit).2 ⟨l, hl, beq_self_eq_true l.unit⟩)
  obtain ⟨ho, unit⟩ := Rim.mem_cache_of_line? found
  rw [Rim.line?, found, List.inj_on_of_nodup_map h.1 ho hl unit]

/-- A line that leaves takes nothing with it. -/
theorem Rim.Coherent.evictLine (h : r.Coherent) {old : CacheLine} (held : old ∈ r.cache) : (r.evictLine old).Coherent ∧
    ∀ v, (r.evictLine old).unitBytes v = r.unitBytes v := by
  have line := h.line?_of_mem held
  obtain ⟨size, clean⟩ := h.2.2 old held
  have absent : (r.withoutLine old.unit).line? old.unit = none := by simp [Rim.line?_withoutLine]
  have others (v : Nat) (other : v ≠ old.unit) : (r.withoutLine old.unit).unitBytes v = r.unitBytes v := by
    rw [Rim.unitBytes, Rim.line?_withoutLine, if_neg other]
    rfl
  unfold Rim.evictLine
  split
  next dirty =>
    obtain ⟨coherent, bytes⟩ := (h.withoutLine old.unit).sendWrite 8 old.unit size absent
    refine ⟨coherent, fun v => ?_⟩
    rw [bytes]
    split
    next same => rw [same, Rim.unitBytes_of_line? line]
    next other => exact others v other
  next kept =>
    refine ⟨h.withoutLine old.unit, fun v => ?_⟩
    by_cases same : v = old.unit
    · rw [same, Rim.unitBytes_of_none absent, Rim.unitBytes_of_line? line, clean (by simpa using kept)]
      rfl
    · exact others v same

/-- Putting a line in its set keeps it there and may have the set's oldest leave. -/
theorem Rim.insertLine_eq (r : Rim) (ways : Nat) (l : CacheLine) : r.insertLine ways l = r.keepLine l ∨
    ∃ old ∈ (r.keepLine l).cache, r.insertLine ways l = (r.keepLine l).evictLine old := by
  unfold Rim.insertLine
  dsimp only
  split
  · exact .inl rfl
  · split
    · exact .inl rfl
    next old found =>
      have mem : old ∈ r.cache ∧ old.unit ≠ l.unit := by
        simpa using List.mem_of_mem_filter (List.mem_of_getLast? found)
      refine .inr ⟨old, List.mem_cons_of_mem _ (List.mem_filter.2 ⟨mem.1, by simpa using mem.2⟩), ?_⟩
      simp [Rim.evictLine, Rim.withoutLine, Rim.keepLine, Ne.symm mem.2]

theorem Rim.Coherent.insertLine (h : r.Coherent) (ways : Nat) {l : CacheLine} (size : l.data.length = 64)
    (clean : l.dirty = false → l.data = r.below l.unit) : (r.insertLine ways l).Coherent ∧
      ∀ v, (r.insertLine ways l).unitBytes v = if v = l.unit then l.data else r.unitBytes v := by
  obtain ⟨kept, bytes⟩ := h.keepLine size clean
  obtain eq | ⟨old, held, eq⟩ := r.insertLine_eq ways l
  · rw [eq]
    exact ⟨kept, bytes⟩
  · rw [eq]
    obtain ⟨coherent, same⟩ := kept.evictLine held
    exact ⟨coherent, fun v => (same v).trans (bytes v)⟩

/-! ### Reading, writing and flushing a unit -/

theorem Rim.Coherent.writeUnit (h : r.Coherent) (ways req u : Nat) (cacheable : Bool) {bs : List Byte} (size : bs.length = 64) :
    (r.writeUnit ways req u cacheable bs).Coherent ∧
      ∀ v, (r.writeUnit ways req u cacheable bs).unitBytes v = if v = u then bs else r.unitBytes v := by
  have line := h.insertLine ways (l := ⟨u, true, bs⟩) size (fun clean => Bool.noConfusion clean)
  unfold Rim.writeUnit
  split
  · exact line
  next absent =>
    split
    · exact line
    · exact h.sendWrite req u size absent

theorem Rim.Coherent.readUnit (h : r.Coherent) (ways u : Nat) (cacheable : Bool) :
    (r.readUnit ways u cacheable).1 = r.unitBytes u ∧ (r.readUnit ways u cacheable).2.Coherent ∧
      ∀ v, (r.readUnit ways u cacheable).2.unitBytes v = r.unitBytes v := by
  unfold Rim.readUnit
  split
  next l hit =>
    obtain ⟨held, rfl⟩ := Rim.mem_cache_of_line? hit
    obtain ⟨size, clean⟩ := h.2.2 l held
    obtain ⟨coherent, bytes⟩ := h.insertLine ways size clean
    refine ⟨(Rim.unitBytes_of_line? hit).symm, coherent, fun v => ?_⟩
    rw [bytes]
    split
    next same => rw [same, Rim.unitBytes_of_line? hit]
    next => rfl
  next miss =>
    have drained := Rim.settled_drainFor u h.2.1
    have coherent := drained.coherent h
    have read : (r.drainFor u).below u = r.unitBytes u := by rw [drained.below, Rim.unitBytes_of_none miss]
    refine ⟨read, ?_⟩
    dsimp only
    split
    next =>
      obtain ⟨filled, bytes⟩ := coherent.insertLine ways (l := ⟨u, false, (r.drainFor u).below u⟩) (coherent.below_length u) fun _ => rfl
      refine ⟨filled, fun v => ?_⟩
      rw [bytes, read, drained.unitBytes]
      split
      next same => rw [same]
      next => rfl
    next => exact ⟨coherent, drained.unitBytes⟩

/-- The rim in which the lines of unit `u` are not dirty. -/
def Rim.cleaned (r : Rim) (u : Nat) : Rim :=
  { r with cache := r.cache.map (fun o => if o.unit == u then { o with dirty := false } else o) }

theorem Rim.mem_cleaned {u : Nat} {o : CacheLine} (h : o ∈ (r.cleaned u).cache) :
    ∃ l ∈ r.cache, o.unit = l.unit ∧ o.data = l.data ∧ (l.unit = u → o.dirty = false) ∧ (l.unit ≠ u → o.dirty = l.dirty) := by
  obtain ⟨l, hl, rfl⟩ := List.mem_map.1 h
  refine ⟨l, hl, ?_⟩
  by_cases same : l.unit = u <;> simp [same]

theorem Rim.map_unit_cleaned (r : Rim) (u : Nat) : (r.cleaned u).cache.map (·.unit) = r.cache.map (·.unit) := by
  rw [Rim.cleaned, List.map_map]
  refine List.map_congr_left fun o _ => ?_
  dsimp only [Function.comp]
  split <;> rfl

theorem Rim.data_line?_cleaned (r : Rim) (u v : Nat) :
    ((r.cleaned u).line? v).map (·.data) = (r.line? v).map (·.data) := by
  unfold Rim.line? Rim.cleaned
  rw [List.find?_map, Option.map_map]
  have unit (o : CacheLine) : (if o.unit == u then { o with dirty := false } else o).unit = o.unit := by split <;> rfl
  have data (o : CacheLine) : (if o.unit == u then { o with dirty := false } else o).data = o.data := by split <;> rfl
  simp only [Function.comp_def, unit, data]

theorem Rim.Coherent.flushUnit (h : r.Coherent) (u : Nat) : (r.flushUnit u).Coherent ∧
    (∀ v, (r.flushUnit u).unitBytes v = r.unitBytes v) ∧ ∀ l, (r.flushUnit u).line? u = some l → l.dirty = false := by
  unfold Rim.flushUnit
  split
  next l hit =>
    split
    next dirty =>
      obtain ⟨once, whole, lines⟩ := h
      obtain ⟨held, unit⟩ := Rim.mem_cache_of_line? hit
      obtain ⟨cache, below, whole'⟩ := (r.cleaned u).sendWrite_spec 8 u whole (lines l held).1
      have line (v : Nat) : ((r.cleaned u).sendWrite 8 u l.data).line? v = (r.cleaned u).line? v := by rw [Rim.line?, cache]; rfl
      change ((r.cleaned u).sendWrite 8 u l.data).Coherent ∧ (∀ v, ((r.cleaned u).sendWrite 8 u l.data).unitBytes v = r.unitBytes v) ∧
        ∀ o, ((r.cleaned u).sendWrite 8 u l.data).line? u = some o → o.dirty = false
      refine ⟨⟨?_, whole', fun o ho => ?_⟩, fun v => ?_, fun o found => ?_⟩
      · rw [cache, Rim.map_unit_cleaned]
        exact once
      · rw [cache] at ho
        obtain ⟨k, hk, ku, kd, -, others⟩ := Rim.mem_cleaned ho
        rw [kd, below, ku]
        refine ⟨(lines k hk).1, fun clean => ?_⟩
        split
        next same => rw [List.inj_on_of_nodup_map once hk held (same.trans unit.symm)]
        next other => exact (lines k hk).2 ((others other).symm.trans clean)
      · rw [Rim.unitBytes_eq, Rim.unitBytes_eq, line, Rim.data_line?_cleaned, below]
        split
        next same => rw [same, hit]; rfl
        next => rfl
      · rw [line] at found
        obtain ⟨ho, ou⟩ := Rim.mem_cache_of_line? found
        obtain ⟨k, hk, ku, -, marked, -⟩ := Rim.mem_cleaned ho
        exact marked (ku.symm.trans ou)
    next clean =>
      refine ⟨h, fun _ => rfl, fun o found => ?_⟩
      rw [hit] at found
      obtain rfl := Option.some.inj found
      simpa using clean
  next miss => exact ⟨h, fun _ => rfl, fun l found => by simp [miss] at found⟩

end

/-- Settles O28: the parts are the lemmas on each operation. -/
theorem cacheIsTransparent : Obligations.CacheIsTransparent := by
  unfold Obligations.CacheIsTransparent
  intro r ways req u channel cacheable bs h size
  have drained := Rim.settled_drain h.2.1
  have channelDrained := Rim.settled_drainChannel channel h.2.1
  exact ⟨h.writeUnit ways req u cacheable size, h.readUnit ways u cacheable, h.flushUnit u,
    drained.coherent h, drained.unitBytes, channelDrained.coherent h, channelDrained.unitBytes, r.drainChannel_writes channel⟩

end Sys2Proof.Machine
end

section
/-! PROOFS. M-tiles (spec/03_matrix_tiles.md R54–R84, R521–R524): array instructions that begin and land, the accumulator queue,
control words, the level budget of a beat, and the accumulator side's own commands. -/

namespace Sys2Proof.Machine

/-! ### A word that issues has its effect -/

section
variable {s : State} {t : MRef} {w : BitVec 128} {x : Site}

theorem exec_array_issues {f : MmaFields} (h : MIssues s t w x (.mma f)) (clean : x.die.arrayBad t.tile f = none) :
    exec (if f.vector then Instr.mmv t w else Instr.mma t w) s =
      .next (s.apply x (advanceM t.tile) (arrayEffect x t.tile (x.die.mtile t.tile) f)) := by
  have effect : arrayEffect x t.tile (x.die.mtile t.tile) f = mmaEffect x t.tile (x.die.mtile t.tile) (.mma f) := by
    simp only [mmaEffect, clean]
  rw [effect]
  cases kind : f.vector with
  | true =>
    refine congrArg Host.Outcome.next (runM_issues h _ _ fun raw he => ?_)
    obtain ⟨g, rfl, same⟩ := (effectiveM_kind _ raw).1 f he
    exact same.trans kind
  | false =>
    refine congrArg Host.Outcome.next (runM_issues h _ _ fun raw he => ?_)
    obtain ⟨g, rfl, same⟩ := (effectiveM_kind _ raw).1 f he
    simp [same, kind]

/-! ### Array instructions begin (R62, R67, R75, R83, R522) -/

/-- A group that begins issues once its level may be reached, and else asks for it. -/
theorem apply_beginArrays (s : State) (t : MRef) (x : Site) (u : MTile) (fs : List MmaFields) :
    Host.Outcome.next (s.apply x (advanceM t.tile) (beginArrays x t.tile u fs)) =
      if (x.die.setMtile t.tile u).levelReady t.tile (groupLevel fs) then issuedM s t x (u.arrays fs)
      else .next (s.putDie x (x.die.setMtile t.tile { u with want := some (groupLevel fs) })) := by
  unfold beginArrays
  split <;> rfl

/-- The word is the first of a half-width pair (R67). -/
def MmaFields.opensPair (f : MmaFields) : Bool := !f.vector && f.shape == 3 && f.pair

theorem arrayEffect_first {f : MmaFields} {y : MTile} (first : f.opensPair = true) (reuse : y.reuseOk f = true) (n : Nat) :
    arrayEffect x n y f = .done (x.die.setMtile n { y with first := some f }) := by
  simp only [MmaFields.opensPair, Bool.and_eq_true, beq_iff_eq] at first
  rw [arrayEffect, if_pos ⟨first.1.1, first.1.2, first.2⟩, if_pos reuse]

/-- The array instructions `fs` are the group that the word `f` completes on tile `y`, and each finds the operand that it reuses in
the cells. -/
def MTile.completesGroup (y : MTile) (f : MmaFields) (fs : List MmaFields) : Prop :=
  y.first = none ∧ fs = [f] ∧ y.reuseOk f = true ∨ ∃ a, y.first = some a ∧ fs = [a, f] ∧
    y.reuseOk a = true ∧ { y with chain := some a.heldKey }.reuseOk f = true

theorem arrayEffect_group {f : MmaFields} {y : MTile} {fs : List MmaFields} {n : Nat} (single : f.opensPair = false)
    (group : y.completesGroup f fs) (free : ∀ g ∈ fs, (x.die.entries n).all (fun e => e.tile != g.acc) = true) :
    arrayEffect x n y f =
      if f.stat = 1 then
        if y.holds fs then beginArrays x n { y with first := none } fs
        else if fs.any (fun g => y.displace.spillOwed g.acc || y.displace.inFlight g.acc) then
          .wait (x.die.setMtile n y.displace)
        else beginArrays x n { y.displace with hold := some (y.displace.filled fs), first := none } fs
      else if fs.any (fun g => y.displace.spillOwed g.acc) then .wait (x.die.setMtile n y.displace)
      else beginArrays x n { y.displace with first := none } fs := by
  have notFirst : ¬ (!f.vector ∧ f.shape = 3 ∧ f.pair) := by
    simpa [MmaFields.opensPair, and_assoc] using single
  have noEntry : ¬ fs.any (fun g => (x.die.entries n).any (fun e => e.tile == g.acc)) := by
    simpa using free
  rw [arrayEffect, if_neg notFirst]
  obtain ⟨none, rfl, reuse⟩ | ⟨a, some, rfl, reuseFirst, reuse⟩ := group
  · simp only [none]
    rw [if_neg (by simp [reuse]), if_neg noEntry]
  · simp only [some]
    rw [if_neg (by simp [reuseFirst, reuse]), if_neg noEntry]

/-- Settles O1, by the branches of `arrayEffect`. -/
theorem arrayInstructionsBegin : Obligations.ArrayInstructionsBegin := by
  unfold Obligations.ArrayInstructionsBegin
  intro s t w x f h clean y z command first begins
  have issues : exec command s = .next (s.apply x (advanceM t.tile) (arrayEffect x t.tile y f)) := exec_array_issues h clean
  refine ⟨fun opens reuse => ?_, fun single fs group free => ?_⟩
  · rw [issues, arrayEffect_first opens reuse]
    rfl
  have effect := arrayEffect_group single group free
  rw [issues, effect]
  refine ⟨fun stat settled => ?_, fun stat held => ?_, fun stat missing settled => ?_⟩
  · rw [if_neg stat, if_neg (by simpa using settled)]
    exact apply_beginArrays s t x { z with first := none } fs
  · rw [if_pos stat, if_pos held]
    exact apply_beginArrays s t x { y with first := none } fs
  · rw [if_pos stat, if_neg (by simp [missing]), if_neg (by simpa using settled)]
    exact apply_beginArrays s t x { z with hold := some (z.filled fs), first := none } fs

end

/-! ### Array results land (R61, R62, R70, R73) -/

/-- A map listed from a function of the keys below `n` reads as the function does. -/
theorem Sparse.get?_filterMap_range {α : Type} (g : Nat → Option α) (n e : Nat) :
    Sparse.get? ((List.range n).filterMap (fun i => (g i).map (fun v => (i, v)))) e = if e < n then g e else none := by
  induction n with
  | zero => rfl
  | succ n ih =>
    unfold Sparse.get? at ih ⊢
    have last : (([n].filterMap (fun i => (g i).map (fun v => (i, v)))).find? (fun p => p.1 == e)).map (·.2) =
        if e = n then g e else none := by
      by_cases same : e = n
      · subst same
        cases here : g e <;> simp [here]
      · cases here : g n <;> simp [here, same, Ne.symm same]
    rw [List.range_succ, List.filterMap_append, List.find?_append, Option.map_or, ih, last]
    obtain below | rfl | above := lt_trichotomy e n
    · rw [if_pos below, if_neg (Nat.ne_of_lt below), if_pos (by omega), Option.or_none]
    · rw [if_neg (lt_irrefl e), if_pos rfl, if_pos (Nat.lt_succ_self e), Option.none_or]
    · rw [if_neg (by omega), if_neg (by omega), if_neg (by omega), Option.or_none]

/-- With nothing in flight, the word that an instruction sees is the memory's. -/
theorem MTile.pendingAt_of_no_flights {y : MTile} (idle : y.flights = []) (t e : Nat) : y.pendingAt t e = accAt y.acc t e := by
  simp [MTile.pendingAt, idle]

theorem MmaFields.result_eq {f : MmaFields} {a b : OperandFmt} (formats : f.formats = some (a, b)) (y : MTile) (start : Nat → W64)
    (e : Nat) : f.result y start e = (f.subOf (e / 128) (e % 128)).map (fun p =>
      f.element a b (fun k => y.operandA f a b p.1 p.2.1 k) (fun k => y.operandB f a b p.1 k p.2.2) (start e)) := by
  unfold MmaFields.result
  rw [formats]
  cases f.subOf (e / 128) (e % 128) <;> rfl

/-- The words that an array instruction will have written to accumulator memory, by element. -/
def MTile.landing (y : MTile) (f : MmaFields) : SMap W64 :=
  (List.range tileElems).filterMap (fun e => (f.result y (y.pendingAt f.acc) e).map (fun v => (e, v)))

theorem MTile.array_into_memory {y : MTile} {f : MmaFields} (memory : f.stat ≠ 1) (paired second : Bool) :
    (y.array f paired second).flights = y.flights ++ [⟨[f.acc], false, y.landing f⟩] ∧ (y.array f paired second).acc = y.acc := by
  unfold MTile.array
  rw [if_neg memory]
  exact ⟨rfl, rfl⟩

theorem MTile.acc_landOne_one {y : MTile} {a : Nat} {values : SMap W64} (one : y.flights = [⟨[a], false, values⟩]) :
    y.landOne.acc = accUpdate y.acc a (fun e => Sparse.get? values e) := by
  simp [MTile.landOne, one]

/-- The accumulator memory after the result of the tile's only instruction in flight. -/
theorem MTile.acc_landOne_array {y : MTile} {f : MmaFields} (idle : y.flights = []) (memory : f.stat ≠ 1) :
    ((y.array f false false).landOne).acc = accUpdate y.acc f.acc (fun e => Sparse.get? (y.landing f) e) := by
  obtain ⟨flights, acc⟩ := MTile.array_into_memory (y := y) memory false false
  rw [idle] at flights
  rw [MTile.acc_landOne_one flights, acc]

/-- Settles O2, from the listed results of the one instruction. -/
theorem arrayResultsLand : Obligations.ArrayResultsLand := by
  unfold Obligations.ArrayResultsLand
  intro y f a b formats memory idle tile e inside
  rw [MTile.acc_landOne_array idle memory, accAt_accUpdate _ _ _ _ _ inside, MTile.landing, Sparse.get?_filterMap_range,
    if_pos inside, MmaFields.result_eq formats, MTile.pendingAt_of_no_flights idle]
  split
  next here =>
    rw [here]
    cases f.subOf (e / 128) (e % 128) <;> rfl
  next => rfl

/-! ### The accumulator queue (R72, R75) -/

/-- The tile with the entry queued, or held while the queue is full. -/
theorem apply_queueEffect (s : State) (t : MRef) (x : Site) (op : MOp) :
    Host.Outcome.next (s.apply x (advanceM t.tile) (queueEffect x t.tile (x.die.mtile t.tile) op)) =
      let y := x.die.mtile t.tile
      let z := if y.hold.any (fun h => h.names (AccEntry.tile ⟨op, false⟩)) then y.displace else y
      if (x.die.entries t.tile).length < 4 then
        issuedM s t x { z with work := (x.die.setMtile t.tile z).liveWork t.tile ++ [.entry ⟨op, false⟩] }
      else .next s := by
  unfold queueEffect
  dsimp only
  split
  next full => rw [if_neg (by omega)]; rfl
  next =>
    rw [if_pos (by omega)]
    cases held : (x.die.mtile t.tile).hold with
    | none => rfl
    | some h => rfl

/-- Settles O3: each of the three has the effect of `queueEffect`. -/
theorem queueInstructionsEnter : Obligations.QueueInstructionsEnter := by
  unfold Obligations.QueueInstructionsEnter
  intro s t w x op h y enters
  refine ⟨fun a fp32 clr dst addr id is => ?_, fun a is => ?_, fun a fp32 addr is => ?_⟩
  · subst is
    refine Eq.trans (congrArg Host.Outcome.next (runM_issues h _ _ fun raw he => ?_)) (apply_queueEffect s t x _)
    obtain ⟨-, drn, -⟩ := effectiveM_kind (x.die.mtile t.tile).prog raw
    obtain ⟨a', addr', rfl⟩ := drn _ _ _ _ _ _ he
    rfl
  · subst is
    refine Eq.trans (congrArg Host.Outcome.next (runM_issues h _ _ fun raw he => ?_)) (apply_queueEffect s t x _)
    obtain ⟨-, -, acz, -⟩ := effectiveM_kind (x.die.mtile t.tile).prog raw
    obtain ⟨a', rfl⟩ := acz _ he
    rfl
  · subst is
    refine Eq.trans (congrArg Host.Outcome.next (runM_issues h _ _ fun raw he => ?_)) (apply_queueEffect s t x _)
    obtain ⟨-, -, -, acl, -⟩ := effectiveM_kind (x.die.mtile t.tile).prog raw
    obtain ⟨a', addr', rfl⟩ := acl _ _ _ he
    rfl

/-! ### Control words of M-tiles and V-tiles (R54, R59, R75, R81–R83, R88, R91, R119, R524) -/

section
variable {s : State} {t : MRef} {w : BitVec 128} {x : Site} {op : MOp}

/-- A control word that its command accepts has its effect. -/
theorem exec_mtile_issues (h : MIssues s t w x op) {accept : MOp → Bool} {f : Site → MTile → MOp → Effect}
    (accepts : ∀ raw, effectiveM (x.die.mtile t.tile).prog raw = op → accept raw = true) :
    Host.Outcome.next (runM s t.part t.die t.tile w accept f) =
      (.next (s.apply x (advanceM t.tile) (f x (x.die.mtile t.tile) op)) : Out) :=
  congrArg Host.Outcome.next (runM_issues h accept f accepts)

theorem exec_gap_issues (h : MIssues s t w x op) {ramp : Bool} {level len : Nat} (is : op = .gap ramp level len) :
    exec (.gap t w) s = .next (s.apply x (advanceM t.tile) (gapEffect x t.tile (x.die.mtile t.tile) op)) := by
  refine exec_mtile_issues h fun raw he => ?_
  obtain ⟨-, -, -, -, gap, -⟩ := effectiveM_kind (x.die.mtile t.tile).prog raw
  rw [gap _ _ _ (he.trans is)]

theorem exec_mtSig_issues (h : MIssues s t w x op) {e : Nat} (is : op = .sig e) :
    exec (.mtSig t w) s = .next (s.apply x (advanceM t.tile) (sigEffect x t.tile op)) := by
  refine exec_mtile_issues h fun raw he => ?_
  obtain ⟨-, -, -, -, -, -, sig, -⟩ := effectiveM_kind (x.die.mtile t.tile).prog raw
  rw [sig _ (he.trans is)]

end

/-- What the control words of an M-tile do when they issue. -/
theorem mtile_controlled (s : State) (t : MRef) (w : BitVec 128) (x : Site) (op : MOp) (h : MIssues s t w x op) :
    let y := x.die.mtile t.tile
    let on (len : Nat) : MTile := { y with busy := y.busy + len, idle := 0, want := none }
    (∀ level len, op = .gap false level len → level ≠ 63 → exec (.gap t w) s =
      if x.die.levelReady t.tile level then issuedM s t x { on len with ramp := none, target := level }
      else .next (s.putDie x (x.die.setMtile t.tile { y with want := some level }))) ∧
    (∀ len, op = .gap false 63 len → exec (.gap t w) s = issuedM s t x { on len with ramp := none, target := y.level }) ∧
    (∀ level len, op = .gap true level len → exec (.gap t w) s = issuedM s t x
      { on len with ramp := some ⟨len, 0, y.level, y.nextLevel⟩ }) ∧
    (∀ e, op = .wait e → exec (.mtWait t w) s = issuedM s t x { y with prog := { y.prog with waiting := some e } }) ∧
    (∀ e, op = .sig e → exec (.mtSig t w) s =
      if (x.die.entries t.tile).any AccEntry.remote then .next s
      else .next (s.putDie x (advanceM t.tile (x.die.signal e)))) ∧
    (∀ count body a b r, op = .loop count body a b r → exec (.mtLoop t w) s = issuedM s t x
      { y with prog := { y.prog with loop := some ⟨y.prog.pc + 16, y.prog.pc + 16 + 16 * body, count, 0, a, b, r⟩ } }) ∧
    (op = .finish → exec (.mtEnd t w) s = issuedM s t x
      { y.displace with prog := { y.prog with ended := true, loop := none } }) := by
  refine ⟨fun level len is rises => ?_, fun len is => ?_, fun level len is => ?_, fun e is => ?_, fun e is => ?_,
    fun count body a b r is => ?_, fun is => ?_⟩
  · rw [exec_gap_issues h is, is]
    simp only [gapEffect, Bool.false_eq_true, if_false, if_neg rises]
    split <;> rfl
  · rw [exec_gap_issues h is, is]
    rfl
  · rw [exec_gap_issues h is, is]
    rfl
  · subst is
    refine exec_mtile_issues h fun raw he => ?_
    obtain ⟨-, -, -, -, -, wait, -⟩ := effectiveM_kind (x.die.mtile t.tile).prog raw
    rw [wait _ he]
  · rw [exec_mtSig_issues h is, is]
    simp only [sigEffect, h.unheld, not_true_eq_false, or_false]
    split <;> rfl
  · subst is
    refine exec_mtile_issues h fun raw he => ?_
    obtain ⟨-, -, -, -, -, -, -, loop, -⟩ := effectiveM_kind (x.die.mtile t.tile).prog raw
    rw [loop _ _ _ _ _ he]
  · subst is
    refine exec_mtile_issues h fun raw he => ?_
    obtain ⟨-, -, -, -, -, -, -, -, finish⟩ := effectiveM_kind (x.die.mtile t.tile).prog raw
    rw [finish he]

/-- A word of a V-tile that its command takes has its effect. -/
theorem exec_vword_issues {s : State} {t : VRef} {w : W64} {x : Site} {f : VFields} (h : VIssues s t w x (.word f)) {n : Nat}
    (is : f.op = n) (effect : Site → VTile → VOp → Effect) :
    Host.Outcome.next (runV s t.part t.die t.tile w (isV n) effect) =
      (.next (s.apply x (advanceV t.tile) (effect x (x.die.vtile t.tile) (.word f))) : Out) := by
  refine congrArg Host.Outcome.next (runV_issues h _ _ fun raw he => ?_)
  rw [← effectiveV_isV (x.die.vtile t.tile).prog, he]
  exact beq_iff_eq.2 is

/-- What the control words of a V-tile do when they issue. -/
theorem vtile_controlled (s : State) (t : VRef) (w : W64) (x : Site) (op : VOp) (h : VIssues s t w x op) :
    let y := x.die.vtile t.tile
    (∀ f, op = .word f → f.op = 0x38 → exec (.vtWait t w) s =
      issuedV s t x { y with prog := { y.prog with waiting := some (f.imm.toNat % 256) } }) ∧
    (∀ f, op = .word f → f.op = 0x39 → exec (.vtSig t w) s =
      .next (s.putDie x (advanceV t.tile (x.die.signal (f.imm.toNat % 256))))) ∧
    (∀ body count r a, op = .loop body count r a → exec (.vtLoop t w) s =
      issuedV s t x { y with prog := { y.prog with
        loop := some ⟨y.prog.pc + 8, y.prog.pc + 8 + 8 * body, count, 0, a, 0, r⟩ } }) ∧
    (∀ f, op = .word f → f.op = 0x3F → exec (.vtEnd t w) s =
      issuedV s t x { y with prog := { y.prog with ended := true, loop := none } }) := by
  refine ⟨fun f is code => ?_, fun f is code => ?_, fun body count r a is => ?_, fun f is code => ?_⟩
  · subst is
    exact exec_vword_issues h code _
  · subst is
    exact exec_vword_issues h code _
  · subst is
    refine congrArg Host.Outcome.next (runV_issues h _ _ fun raw he => ?_)
    rw [← effectiveV_isV (x.die.vtile t.tile).prog, he]
    rfl
  · subst is
    exact exec_vword_issues h code _

/-! ### Past the end of a loop body (R59) -/

section
variable {p : Prog} {l : LoopState} {size : Nat}

theorem Prog.advance_inside (looped : p.loop = some l) (inside : p.pc + size ≠ l.stop) :
    p.advance size = { p with pc := p.pc + size } := by
  simp only [Prog.advance, looped, if_neg inside]

theorem Prog.advance_repeats (looped : p.loop = some l) (last : p.pc + size = l.stop) (left : l.iter + 1 < l.count) :
    p.advance size = { p with pc := l.first, loop := some { l with iter := l.iter + 1 } } := by
  simp only [Prog.advance, looped, if_pos last, if_pos left]

theorem Prog.advance_leaves (looped : p.loop = some l) (last : p.pc + size = l.stop) (done : l.count ≤ l.iter + 1) :
    p.advance size = { p with pc := p.pc + size, loop := none } := by
  simp only [Prog.advance, looped, if_pos last, if_neg (Nat.not_lt.2 done)]

end

/-! ### The level budget of a beat (R80, R83) -/

/-- The distance between two levels. -/
def levelDistance (a b : Nat) : Nat := (b - a) + (a - b)

theorem levelDistance_moveLevel_le (a b budget : Nat) : levelDistance a (moveLevel a b budget) ≤ budget := by
  unfold levelDistance moveLevel
  split <;> omega

/-- One tile's share of the beat: the die with the tile moved, and the budget that is left. -/
def levelStep (stopped : Bool) (acc : Die × Nat) (t : Nat) : Die × Nat :=
  let x := acc.1.mtile t
  let (want, y) := x.ask stopped
  let now := moveLevel x.level want acc.2
  let y := { y with level := now }
  (if y = x then acc.1 else acc.1.setMtile t y, acc.2 - levelDistance x.level now)

/-- A tile moves by what it takes of the budget, and no other tile moves. -/
theorem levelStep_spec (stopped : Bool) (acc : Die × Nat) (t : Nat) :
    (∀ u, u ≠ t → (levelStep stopped acc t).1.mtile u = acc.1.mtile u) ∧
      levelDistance (acc.1.mtile t).level ((levelStep stopped acc t).1.mtile t).level + (levelStep stopped acc t).2 = acc.2 := by
  obtain ⟨d, budget⟩ := acc
  unfold levelStep
  dsimp only
  have within := levelDistance_moveLevel_le (d.mtile t).level ((d.mtile t).ask stopped).1 budget
  generalize moveLevel (d.mtile t).level ((d.mtile t).ask stopped).1 budget = now at within
  split
  next unmoved =>
    have same : (d.mtile t).level = now := (congrArg MTile.level unmoved).symm
    refine ⟨fun _ _ => rfl, ?_⟩
    simp [← same, levelDistance]
  next =>
    refine ⟨fun u other => by simp [other], ?_⟩
    rw [Die.mtile_setMtile, if_pos rfl]
    dsimp only
    omega

/-- After the shares of the first `n` tiles, their changes and the budget that is left make up the 8 units. -/
theorem levels_budget (d : Die) (n : Nat) :
    let r := foldRange n (d, 8) (levelStep d.stopped)
    (∀ u, n ≤ u → r.1.mtile u = d.mtile u) ∧
      ((List.range n).map (fun t => levelDistance (d.mtile t).level (r.1.mtile t).level)).sum + r.2 = 8 := by
  induction n with
  | zero => exact ⟨fun _ _ => rfl, rfl⟩
  | succ n ih =>
    rw [foldRange_succ]
    obtain ⟨later, spent⟩ := ih
    obtain ⟨others, share⟩ := levelStep_spec d.stopped (foldRange n (d, 8) (levelStep d.stopped)) n
    refine ⟨fun u hu => (others u (by omega)).trans (later u (by omega)), ?_⟩
    rw [later n (le_refl n)] at share
    have earlier : (List.range n).map (fun t => levelDistance (d.mtile t).level
          ((levelStep d.stopped (foldRange n (d, 8) (levelStep d.stopped)) n).1.mtile t).level) =
        (List.range n).map (fun t => levelDistance (d.mtile t).level
          ((foldRange n (d, 8) (levelStep d.stopped)).1.mtile t).level) := by
      refine List.map_congr_left fun t ht => ?_
      rw [others t (Nat.ne_of_lt (List.mem_range.1 ht))]
    rw [List.range_succ, List.map_append, List.sum_append, earlier, List.map_singleton, List.sum_singleton]
    omega

/-- Settles O4: the control words of both tiles, the advance of a program, and the budget of a beat. -/
theorem tilesAreControlled : Obligations.TilesAreControlled := by
  unfold Obligations.TilesAreControlled
  refine ⟨mtile_controlled, fun p l size looped => ?_, vtile_controlled, fun d => ?_⟩
  · exact ⟨Prog.advance_inside looped, Prog.advance_repeats looped, Prog.advance_leaves looped⟩
  · have budget := (levels_budget d 8).2
    exact Nat.le_of_add_right_le budget.le

/-! ### Entries, spills and results of the accumulator side (R70, R72, R75–R78, R135, R522) -/

section
variable {s : State} {t : MRef} {x : Site}

theorem exec_accumulatorEntryStart_runs {bank : Fin 2} {e : AccEntry} (site : s.site t.part t.die = some x)
    (goes : x.die.stopped = false) (next : x.die.nextEntry t.tile bank = some e)
    (landed : (x.die.mtile t.tile).inFlight e.tile = false) : exec (.accumulatorEntryStart t bank) s =
      .next (s.apply x id (entryEffect x t.tile (x.die.mtile t.tile) e x.part.run.clock x.part.run.elapsed)) := by
  change execAccumulatorEntryStart t bank s = _
  simp only [execAccumulatorEntryStart, site, State.startEntry, next, goes, landed, Bool.false_eq_true, or_self, if_false]

/-- A hold is written back half by half, each to its own tile. -/
theorem accAt_writeBack (y : MTile) (h : Hold) (tile : Nat) {e : Nat} (inside : e < tileElems) :
    accAt (y.writeBack h).acc tile e =
      if tile = (if e % 128 < 64 then h.left else h.right) then Sparse.getD 0 h.sums e else accAt y.acc tile e := by
  simp only [MTile.writeBack, accAt_accUpdate _ _ _ _ _ inside]
  by_cases left : e % 128 < 64
  · simp only [left, decide_true, Bool.true_eq_false, if_false, if_true, Option.getD_none, Option.getD_some]
    split
    next right => rw [right]
    next => rfl
  · simp only [left, decide_false, Bool.false_eq_true, if_false, if_true, Option.getD_none, Option.getD_some]
    split
    next => rfl
    next =>
      split
      next here => rw [here]
      next => rfl

/-- Placing an instruction's words in each of its tiles. -/
theorem accAt_foldl_accUpdate (values : SMap W64) (tiles : List Nat) (acc : SMap W64) (tile : Nat) {e : Nat} (inside : e < tileElems) :
    accAt (tiles.foldl (fun a i => accUpdate a i (fun e => Sparse.get? values e)) acc) tile e =
      if tile ∈ tiles then (Sparse.get? values e).getD (accAt acc tile e) else accAt acc tile e := by
  induction tiles generalizing acc with
  | nil => simp
  | cons i tiles ih =>
    rw [List.foldl_cons, ih, accAt_accUpdate _ _ _ _ _ inside]
    by_cases here : tile = i
    · subst here
      cases Sparse.get? values e <;> simp
    · simp [here]

theorem exec_spill_runs {h : Hold} (site : s.site t.part t.die = some x) (next : nextSpill [] (x.die.liveWork t.tile) = some h)
    (filled : (x.die.mtile t.tile).filling h = false) : exec (.spill t) s = .next (s.putDie x ((x.die.setMtile t.tile
      { (x.die.mtile t.tile).writeBack h with work := (x.die.liveWork t.tile).erase (.spill h) }).accWritten t.tile h.writes)) := by
  change execSpill t s = _
  simp only [execSpill, site, Die.spillOne, next, filled, Bool.false_eq_true, if_false]

theorem exec_arrayResultReady_runs (site : s.site t.part t.die = some x) :
    exec (.arrayResultReady t) s = .next (s.putDie x (x.die.landOne t.tile)) := by
  change execArrayResultReady t s = _
  simp only [execArrayResultReady, site]

theorem MTile.landOne_eq {y : MTile} {f : Flight} {rest : List Flight} (flights : y.flights = f :: rest) :
    y.landOne = { y with
      acc := if f.cells then y.acc else f.tiles.foldl (fun a i => accUpdate a i (fun e => Sparse.get? f.values e)) y.acc
      flights := rest } := by
  simp only [MTile.landOne, flights]

end

/-- Settles O5: the effect of each kind of entry, the hold written back, and the oldest result landed. -/
theorem accumulatorEntriesAndSpillsRun : Obligations.AccumulatorEntriesAndSpillsRun := by
  unfold Obligations.AccumulatorEntriesAndSpillsRun
  refine ⟨fun s t bank x e site goes next landed => ?_, fun s t x site => ⟨fun h next filled => ?_, fun f rest flights => ?_⟩⟩
  · intro y rest left started
    rw [exec_accumulatorEntryStart_runs site goes next landed]
    obtain ⟨op, begun⟩ := e
    refine ⟨fun a is => ?_, fun a fp32 addr is clean => ?_, fun a fp32 clr dst addr node is clean => ?_⟩
    · obtain rfl : op = _ := is
      rfl
    · obtain rfl : op = _ := is
      simp only [entryEffect, clean]
      exact ⟨_, rfl, fun _ => rfl⟩
    · obtain rfl : op = _ := is
      simp only [entryEffect, clean]
      refine ⟨fun own => ?_, fun other => ?_, fun pushes => ?_⟩
      · rw [if_pos own]
        rfl
      · rw [if_neg (by omega), if_pos other]
        dsimp only [started, left, y, rest]
        split
        next none => rw [none]; rfl
        next d credited => rw [credited]; rfl
      · rw [if_neg (by omega), if_neg (by omega)]
        rfl
  · exact ⟨_, exec_spill_runs site next filled, rfl, fun tile e inside => accAt_writeBack _ h tile inside⟩
  · refine ⟨_, exec_arrayResultReady_runs site, ?_⟩
    rw [MTile.landOne_eq flights]
    refine ⟨rfl, fun cells => if_pos cells, fun memory tile e inside => ?_⟩
    dsimp only
    rw [if_neg (by simp [memory])]
    exact accAt_foldl_accUpdate f.values f.tiles _ tile inside

end Sys2Proof.Machine
end

section
/-! PROOFS. V-tiles (spec/04_vector_and_control_tiles.md R86–R104, spec/05_scratchpads.md R123–R129): lane instructions, conversions,
and what loads, stores and `PUT` move. -/

namespace Sys2Proof.Machine

/-! ### Lane instructions and conversions (R90, R92, R101–R104) -/

theorem exec_lane_issues {s : State} {t : VRef} {w : W64} {x : Site} {f : VFields} (h : VIssues s t w x (.word f))
    {e : Nat × (VRef → W64 → Instr)} (is : f.op = e.1)
    (he : e ∈ [(0x01, Instr.fadd), (0x02, Instr.fsub), (0x03, Instr.fmul), (0x04, Instr.fma), (0x05, Instr.fnma),
        (0x06, Instr.fmin), (0x07, Instr.fmax), (0x08, Instr.fsgn), (0x09, Instr.fcmp), (0x0A, Instr.sel),
        (0x0B, Instr.ialu), (0x10, Instr.sfu)]) :
    exec (e.2 t w) s = issuedV s t x (aluTile f (x.die.vtile t.tile)) := by
  have issues := exec_vword_issues h is (fun x tile op => aluEffect x t.tile tile op)
  simp only [List.mem_cons, List.not_mem_nil, or_false] at he
  rcases he with rfl | rfl | rfl | rfl | rfl | rfl | rfl | rfl | rfl | rfl | rfl | rfl
  all_goals exact issues

/-- Settles O6: the lanes of `aluTile`, and the four conversions. -/
theorem vectorInstructionsWriteVd : Obligations.VectorInstructionsWriteVd := by
  unfold Obligations.VectorInstructionsWriteVd
  refine ⟨?_, ?_⟩
  · intro s t w x f h y e he is
    refine ⟨_, exec_lane_issues h is he, length_mkLanes _, fun i hi => ?_⟩
    exact lane_mkLanes (fun i => aluLane f (lane (y.reg f.va) i) (lane (y.reg f.vb) i) (lane (y.reg f.vc) i)) hi
  · intro s t w x f h y r moved
    exact ⟨fun is => exec_vword_issues h is _, fun is => exec_vword_issues h is _, fun is => exec_vword_issues h is _,
      fun is => exec_vword_issues h is _⟩

/-! ### Loads (R90, R123–R128) -/

/-- Writing a run of registers gives each its value and leaves the tile's others. -/
theorem foldRange_setReg (g : Nat → List W32) (d n : Nat) (y : VTile) :
    let z := foldRange n y (fun t r => t.setReg (d + r) (g r))
    z = { y with regs := z.regs } ∧ ∀ q, z.reg q = if d ≤ q ∧ q < d + n then g (q - d) else y.reg q := by
  induction n with
  | zero => exact ⟨rfl, fun q => (if_neg (by omega)).symm⟩
  | succ n ih =>
    rw [foldRange_succ]
    obtain ⟨frame, regs⟩ := ih
    refine ⟨by rw [frame]; rfl, fun q => ?_⟩
    rw [VTile.reg_setReg, regs]
    by_cases newest : q = d + n
    · rw [if_pos newest, if_pos (by omega), newest, Nat.add_sub_cancel_left]
    · rw [if_neg newest]
      by_cases earlier : d ≤ q ∧ q < d + n
      · rw [if_pos earlier, if_pos (by omega)]
      · rw [if_neg earlier, if_neg (by omega)]

theorem lane_registerFrom (m : Mem) (base : Nat) {i : Nat} (hi : i < 256) :
    lane (registerFrom (fun k => Mem.read m (base + k))) i = BitVec.ofNat 32 (wordAt m (base + 4 * i) 4) := by
  refine (lane_mkLanes _ hi).trans ?_
  simp only [wordAt, Mem.readBytes, Nat.add_assoc]

section
variable {s : State} {t : VRef} {w : W64} {x : Site} {f : VFields}

theorem exec_ld_issues (h : VIssues s t w x (.word f)) (is : f.op = 0x30) : exec (.ld t w) s =
    .next (s.apply x (advanceV t.tile) (loadEffect x t.tile (x.die.vtile t.tile) (.word f))) :=
  exec_vword_issues h is (fun x tile op => loadEffect x t.tile tile op)

theorem exec_st_issues (h : VIssues s t w x (.word f)) (is : f.op = 0x31) : exec (.st t w) s =
    .next (s.apply x (advanceV t.tile) (storeEffect x t.tile (x.die.vtile t.tile) (.word f))) :=
  exec_vword_issues h is (fun x tile op => storeEffect x t.tile tile op)

theorem exec_ldb_issues (h : VIssues s t w x (.word f)) (is : f.op = 0x32) : exec (.ldb t w) s =
    .next (s.apply x (advanceV t.tile) (broadcastEffect x t.tile (x.die.vtile t.tile) (.word f))) :=
  exec_vword_issues h is (fun x tile op => broadcastEffect x t.tile tile op)

theorem exec_put_issues (h : VIssues s t w x (.word f)) (is : f.op = 0x33) : exec (.put t w) s =
    .next (s.apply x (advanceV t.tile) (putEffect x t.tile (x.die.vtile t.tile) (.word f))) :=
  exec_vword_issues h is (fun x tile op => putEffect x t.tile tile op)

theorem loadEffect_contiguous {v : Nat} {y : VTile} (plain : f.fn = 0)
    (clean : x.die.parityAt (8 + v) (64 * f.imm.toNat) (1024 * (f.cnt + 1)) = none) :
    loadEffect x v y (.word f) = tileEffect x v (loadRegs f y) := by
  simp only [loadEffect, if_pos plain, clean]

theorem loadEffect_turned {v : Nat} {y : VTile} (mode : f.fn ≠ 0) (turned : (modeOf x v f.fn).kind = 1) (fits : f.cnt ≤ 31)
    (inside : inMemory f.imm 512 tileUnits = true) (clean : x.die.parityAt (8 + v) (64 * f.imm.toNat) 32768 = none) :
    loadEffect x v y (.word f) = tileEffect x v (loadTurned f y) := by
  simp only [loadEffect, if_neg mode, if_pos turned, clean, inside, not_true_eq_false, or_false, if_neg (Nat.not_lt.2 fits)]

theorem loadEffect_strided {v : Nat} {y : VTile} (mode : f.fn ≠ 0) (strided : (modeOf x v f.fn).kind = 0)
    (piece : (modeOf x v f.fn).piece ≤ 4) (inside : (modeOf x v f.fn).inRange f.imm (f.cnt + 1) = true)
    (clean : ((List.range (16 * (f.cnt + 1))).map (fun i => ((modeOf x v f.fn).unitAt f.imm (i / 16) (i % 16)).toNat)).findSome?
      (fun u => x.die.parityAt (8 + v) (64 * u) 64) = none) :
    loadEffect x v y (.word f) = .done (stridedConflicts (modeOf x v f.fn) f.imm (f.cnt + 1) v
      (x.die.setVtile v (loadStrided f (modeOf x v f.fn) y))) := by
  simp only [loadEffect, if_neg mode, strided, inside, clean]
  simp [Nat.not_lt.2 piece]

/-- An entry that is reserved, out of range, or of a block that does not fit refuses the load (R94). -/
theorem loadEffect_refused {v : Nat} {y : VTile} (mode : f.fn ≠ 0)
    (bad : 1 < (modeOf x v f.fn).kind ∨ (modeOf x v f.fn).kind = 0 ∧
        (4 < (modeOf x v f.fn).piece ∨ (modeOf x v f.fn).inRange f.imm (f.cnt + 1) = false) ∨
      (modeOf x v f.fn).kind = 1 ∧ (31 < f.cnt ∨ inMemory f.imm 512 tileUnits = false)) :
    loadEffect x v y (.word f) = .fault .faultEncoding := by
  simp only [loadEffect, if_neg mode]
  split
  next turned => rw [if_pos (by simpa [turned] using bad)]
  next notTurned =>
    rw [if_pos]
    obtain reserved | ⟨strided, out⟩ | ⟨turned, -⟩ := bad
    · exact .inl (by omega)
    · exact .inr (by simpa using out)
    · exact absurd turned notTurned

theorem storeEffect_strided {v : Nat} {y : VTile} (mode : f.fn ≠ 0) (strided : (modeOf x v f.fn).kind = 0)
    (piece : (modeOf x v f.fn).piece ≤ 4) (inside : (modeOf x v f.fn).inRange f.imm (f.cnt + 1) = true) :
    storeEffect x v y (.word f) = .done (stridedConflicts (modeOf x v f.fn) f.imm (f.cnt + 1) v
      (storeStrided f (modeOf x v f.fn) v y x.die)) := by
  simp only [storeEffect, if_neg mode, strided, inside]
  simp [Nat.not_lt.2 piece]

theorem storeEffect_refused {v : Nat} {y : VTile} (mode : f.fn ≠ 0) (bad : (modeOf x v f.fn).kind ≠ 0) :
    storeEffect x v y (.word f) = .fault .faultEncoding := by
  simp only [storeEffect, if_neg mode, if_pos (Or.inl bad)]

end

/-- Settles O9: the registers that a contiguous load fills, the broadcast, and the branches of an access mode. -/
theorem loadsFillRegisters : Obligations.LoadsFillRegisters := by
  unfold Obligations.LoadsFillRegisters
  refine ⟨?_, ?_⟩
  · intro s t w x f h y
    refine ⟨fun is plain clean => ?_, fun is clean => ?_⟩
    · obtain ⟨frame, regs⟩ := foldRange_setReg
        (fun r => registerFrom (fun i => Mem.read y.sram (64 * f.imm.toNat + 1024 * r + i))) f.vd (f.cnt + 1) y
      refine ⟨loadRegs f y, ?_, frame, ?_, ?_⟩
      · rw [exec_ld_issues h is, loadEffect_contiguous plain clean]
        rfl
      · intro r hr i hi
        rw [loadRegs, regs, if_pos (by omega), Nat.add_sub_cancel_left]
        exact lane_registerFrom y.sram _ hi
      · intro q outside
        rw [loadRegs, regs, if_neg (by omega)]
    · rw [exec_ldb_issues h is]
      simp only [broadcastEffect, clean, mkLanes_const]
      rfl
  · intro s t w x f h mode y m after faults
    refine ⟨fun strided piece inside => ⟨fun is clean => ?_, fun is => ?_⟩, fun turned is fits inside clean => ?_,
      fun turned is => ?_, fun bad is => ?_⟩
    · rw [exec_ld_issues h is, loadEffect_strided mode strided piece inside clean]
      rfl
    · rw [exec_st_issues h is, storeEffect_strided mode strided piece inside]
      rfl
    · rw [exec_ld_issues h is, loadEffect_turned mode turned fits inside clean]
      rfl
    · rw [exec_st_issues h is, storeEffect_refused mode turned]
      rfl
    · rw [exec_ld_issues h is, loadEffect_refused mode bad]
      rfl

/-! ### Stores and `PUT` (R90, R124, R131, R161) -/

/-- Byte `i` of a little-endian number. -/
theorem getD_leBytes (n v : Nat) {i : Nat} (hi : i < n) : (leBytes n v).getD i 0 = BitVec.ofNat 8 (v / 256 ^ i) := by
  induction n generalizing v i with
  | zero => omega
  | succ n ih =>
    cases i with
    | zero => simp [leBytes]
    | succ i =>
      rw [leBytes, List.getD_cons_succ, ih (v / 256) (by omega), Nat.div_div_eq_div_mul, pow_succ, Nat.mul_comm]

/-- Element `k` of lists of `n` elements in a row. -/
theorem getD_flatMap_of_length {α β : Type} (g : α → List β) (d : β) {n : Nat} (size : ∀ a, (g a).length = n) (positive : 0 < n) :
    ∀ (l : List α) (a : α) (k : Nat), k < n * l.length → (l.flatMap g).getD k d = (g (l.getD (k / n) a)).getD (k % n) d
  | [], _, _, hk => by simp at hk
  | b :: l, a, k, hk => by
    rw [List.flatMap_cons]
    by_cases first : k < n
    · rw [List.getD_append _ _ _ _ (by rw [size]; exact first), Nat.div_eq_of_lt first, Nat.mod_eq_of_lt first]
      rfl
    · obtain ⟨j, rfl⟩ : ∃ j, k = n + j := ⟨k - n, by omega⟩
      have hj : j < n * l.length := by rw [List.length_cons, Nat.mul_add] at hk; omega
      rw [List.getD_append_right _ _ _ _ (by rw [size]; omega), size, Nat.add_sub_cancel_left,
        getD_flatMap_of_length g d size positive l a j hj, Nat.add_div_left _ positive, Nat.add_mod_left]
      rfl

@[simp] theorem length_wordBytes (ws : List W32) : (wordBytes ws).length = 4 * ws.length := by
  induction ws with
  | nil => rfl
  | cons w ws ih => simp only [wordBytes, List.flatMap_cons, List.length_append, leBytes_length, List.length_cons] at ih ⊢; omega

@[simp] theorem length_regBytes (r : List W32) : (regBytes r).length = 1024 := by simp [regBytes, lanes]

/-- Byte `k` of a register lies in lane `k / 4`. -/
theorem getD_regBytes (r : List W32) {k : Nat} (hk : k < 1024) :
    (regBytes r).getD k 0 = BitVec.ofNat 8 ((lane r (k / 4)).toNat / 256 ^ (k % 4)) := by
  have inside : k < 4 * ((List.range lanes).map (lane r)).length := by simpa [lanes] using hk
  have word : ((List.range lanes).map (lane r)).getD (k / 4) 0 = lane r (k / 4) := lane_mkLanes (lane r) (by omega)
  rw [regBytes, wordBytes, getD_flatMap_of_length _ 0 (fun w => leBytes_length 4 w.toNat) (by omega) _ 0 k inside,
    word, getD_leBytes _ _ (by omega)]

/-- A write into a V-tile's SRAM changes that tile's SRAM and no other tile or buffer. -/
theorem writeMem_vtile (d : Die) {v : Nat} (hv : v < 12) (a : Nat) (bs : List Byte) :
    (∀ u, (d.writeMem (8 + v) a bs).vtile u =
      if u = v then { d.vtile v with sram := Mem.writeBytes (d.vtile v).sram a bs } else d.vtile u) ∧
      (d.writeMem (8 + v) a bs).m = d.m ∧ (d.writeMem (8 + v) a bs).buffer = d.buffer := by
  have set : d.writeMem (8 + v) a bs = { d.setVtile v { d.vtile v with sram := Mem.writeBytes (d.vtile v).sram a bs } with
      parityBad := (d.writeMem (8 + v) a bs).parityBad } := by
    simp only [Die.writeMem, Die.setMemory, Die.memory, if_neg (show ¬ 8 + v ≤ 7 by omega), if_pos (show 8 + v ≤ 19 by omega),
      Nat.add_sub_cancel_left]
  rw [set]
  exact ⟨fun u => Die.vtile_setVtile d v u _, rfl, rfl⟩

/-- Storing `n` registers one after another from `base`. -/
theorem store_registers (d : Die) {v : Nat} (hv : v < 12) (base n : Nat) (reg : Nat → List W32) :
    let z := (List.range n).foldl (fun d r => d.writeMem (8 + v) (base + 1024 * r) (regBytes (reg r))) d
    (z.vtile v).regs = (d.vtile v).regs ∧ (∀ u, u ≠ v → z.vtile u = d.vtile u) ∧ z.m = d.m ∧ z.buffer = d.buffer ∧
      ∀ a, Mem.read (z.vtile v).sram a = if base ≤ a ∧ a < base + 1024 * n then
        BitVec.ofNat 8 ((lane (reg ((a - base) / 1024)) ((a - base) % 1024 / 4)).toNat / 256 ^ ((a - base) % 4))
        else Mem.read (d.vtile v).sram a := by
  induction n with
  | zero => exact ⟨rfl, fun _ _ => rfl, rfl, rfl, fun a => (if_neg (by omega)).symm⟩
  | succ n ih =>
    simp only [List.range_succ, List.foldl_append, List.foldl_cons, List.foldl_nil]
    obtain ⟨regs, others, m, buffer, bytes⟩ := ih
    generalize (List.range n).foldl (fun d r => d.writeMem (8 + v) (base + 1024 * r) (regBytes (reg r))) d = z at *
    obtain ⟨vtile, m', buffer'⟩ := writeMem_vtile z hv (base + 1024 * n) (regBytes (reg n))
    refine ⟨?_, fun u hu => ?_, m'.trans m, buffer'.trans buffer, fun a => ?_⟩
    · rw [vtile, if_pos rfl]
      exact regs
    · rw [vtile, if_neg hu]
      exact others u hu
    · rw [vtile, if_pos rfl, Mem.read_writeBytes, length_regBytes]
      by_cases newest : base + 1024 * n ≤ a ∧ a < base + 1024 * n + 1024
      · rw [if_pos newest, if_pos (by omega), getD_regBytes _ (by omega), show (a - base) / 1024 = n by omega,
          show (a - base) % 1024 = a - (base + 1024 * n) by omega, show (a - base) % 4 = (a - (base + 1024 * n)) % 4 by omega]
      · rw [if_neg newest, bytes]
        by_cases earlier : base ≤ a ∧ a < base + 1024 * n
        · rw [if_pos earlier, if_pos (by omega)]
        · rw [if_neg earlier, if_neg (by omega)]

theorem storeRegs_eq (f : VFields) (v : Nat) (y : VTile) (d : Die) : storeRegs f v y d =
    (List.range (f.cnt + 1)).foldl (fun d r => d.writeMem (8 + v) (64 * f.imm.toNat + 1024 * r) (regBytes (y.reg (f.va + r)))) d := by
  rw [storeRegs, runBytes, List.foldl_map]

/-- Settles O10: both commands store the run, and `PUT` otherwise pushes or writes under credit. -/
theorem storesAndPutsMoveRegisters : Obligations.StoresAndPutsMoveRegisters := by
  unfold Obligations.StoresAndPutsMoveRegisters
  refine ⟨?_, ?_⟩
  · intro s t w x f h plain y base command which
    have stores : exec command s = .next (s.putDie x (advanceV t.tile (storeRegs f t.tile y x.die))) := by
      obtain ⟨is, rfl⟩ | ⟨is, own, rfl⟩ := which
      · rw [exec_st_issues h is]
        simp only [storeEffect, if_pos plain]
        rfl
      · rw [exec_put_issues h is]
        simp only [putEffect, if_neg (show f.fn ≠ 2 by omega), if_pos (And.intro plain own)]
        rfl
    refine ⟨_, stores, rfl, ?_⟩
    rw [storeRegs_eq]
    exact store_registers x.die t.tile.isLt base (f.cnt + 1) (fun r => y.reg (f.va + r))
  · intro s t w x f h is y mem writes
    rw [exec_put_issues h is]
    refine ⟨fun pushes => ?_, fun notPush notOwn => ?_⟩
    · simp only [putEffect, if_pos pushes]
      rfl
    · simp only [putEffect, if_neg notPush, if_neg notOwn]
      dsimp only [mem, writes, y]
      split
      next none => rw [none]; rfl
      next d credited => rw [credited]; rfl

end Sys2Proof.Machine
end

section
/-! PROOFS. What the operations compute (spec/04_vector_and_control_tiles.md R90, R95, R98, R99, R108): a lane of an arithmetic
instruction, the integer, multiply and divide sub-functions of a core, and the int32 row sum. -/

namespace Sys2Proof.Machine

/-! ### One lane (R90, R95) -/

theorem toInt_lesser {n : Nat} (a b : BitVec n) : (if a.toInt < b.toInt then a else b).toInt = min a.toInt b.toInt := by
  split
  next less => exact (min_eq_left less.le).symm
  next notLess => exact (min_eq_right (not_lt.1 notLess)).symm

theorem toInt_greater {n : Nat} (a b : BitVec n) : (if a.toInt < b.toInt then b else a).toInt = max a.toInt b.toInt := by
  split
  next less => exact (max_eq_right less.le).symm
  next notLess => exact (max_eq_left (not_lt.1 notLess)).symm

section
variable {f : VFields} {a b c : W32}

theorem aluLane_integer (is : f.op = 0x0B) : aluLane f a b c = ialuLane f.fn a b := by
  simp only [aluLane, is]

theorem aluLane_select (is : f.op = 0x0A) : aluLane f a b c =
    if f.ty = 1 then
      pairLane (if loHalf c ≠ 0 then loHalf a else loHalf b) (if hiHalf c ≠ 0 then hiHalf a else hiHalf b)
    else if c ≠ 0 then a else b := by
  simp only [aluLane, is]

/-- On FP32 elements a number operation is rounded once. -/
theorem numLane_fp32 {ty : Nat} (fp32 : ty = 0) (g : Num → Num → Num → Num) :
    numLane ty g a b c = Num.toFp32 (g (Num.ofFp32 a) (Num.ofFp32 b) (Num.ofFp32 c)) := by
  rw [numLane, if_neg (by omega)]

theorem aluLane_fp32 (ty : f.ty = 0) :
    let A := Num.ofFp32 a
    let B := Num.ofFp32 b
    let C := Num.ofFp32 c
    (f.op = 0x01 → aluLane f a b c = Num.toFp32 (A.add B)) ∧
    (f.op = 0x02 → aluLane f a b c = Num.toFp32 (A.add B.neg)) ∧
    (f.op = 0x03 → aluLane f a b c = Num.toFp32 (A.mul B)) ∧
    (f.op = 0x04 → aluLane f a b c = Num.toFp32 ((A.mul B).add C)) ∧
    (f.op = 0x05 → aluLane f a b c = Num.toFp32 (C.add (A.mul B).neg)) ∧
    (f.op = 0x06 → aluLane f a b c = Num.toFp32 (A.minimum B)) ∧
    (f.op = 0x07 → aluLane f a b c = Num.toFp32 (A.maximum B)) ∧
    (f.op = 0x09 → aluLane f a b c = if compareElem f.fn A B then 0xFFFFFFFF else 0) := by
  refine ⟨?_, ?_, ?_, ?_, ?_, ?_, ?_, ?_⟩
  all_goals
    intro is
    simp only [aluLane, is, numLane_fp32 ty]
  rw [if_neg (by omega)]

theorem aluLane_ialu (is : f.op = 0x0B) :
    let k := b.toNat % 32
    (f.fn = 0 → aluLane f a b c = a + b) ∧ (f.fn = 1 → aluLane f a b c = a - b) ∧
    (f.fn = 2 → aluLane f a b c = a &&& b) ∧ (f.fn = 3 → aluLane f a b c = a ||| b) ∧
    (f.fn = 4 → aluLane f a b c = a ^^^ b) ∧ (f.fn = 5 → aluLane f a b c = a <<< k) ∧
    (f.fn = 6 → aluLane f a b c = a >>> k) ∧ (f.fn = 7 → aluLane f a b c = a.sshiftRight k) ∧
    (f.fn = 8 → (aluLane f a b c).toInt = min a.toInt b.toInt) ∧
    (f.fn = 9 → (aluLane f a b c).toInt = max a.toInt b.toInt) ∧ (f.fn = 10 → aluLane f a b c = a * b) := by
  rw [aluLane_integer is]
  refine ⟨?_, ?_, ?_, ?_, ?_, ?_, ?_, ?_, ?_, ?_, ?_⟩
  all_goals
    intro fn
    rw [fn]
  case refine_9 => exact toInt_lesser a b
  case refine_10 => exact toInt_greater a b
  all_goals rfl

end

/-! ### The sub-functions of a core (R108) -/

section
variable (a b : W64)

/-- The leading zeros of a word are `k` when bit 63 − k is its highest. -/
theorem clz64_eq_iff {k : Nat} (hk : k < 64) : clz64 a = k ↔ a.getLsbD (63 - k) = true ∧ a.toNat < 2 ^ (64 - k) := by
  by_cases zero : a = 0
  · subst zero
    simp [clz64]
    omega
  have nonzero : a.toNat ≠ 0 := fun h => zero (BitVec.eq_of_toNat_eq h)
  have top : a.toNat.log2 < 64 := (Nat.log2_lt nonzero).2 a.isLt
  have highest : clz64 a = k ↔ a.toNat.log2 = 63 - k := by
    rw [clz64, if_neg zero]
    omega
  rw [highest, Nat.log2_eq_iff nonzero, show 63 - k + 1 = 64 - k by omega]
  refine and_congr_left fun below => ⟨fun above => ?_, Nat.ge_two_pow_of_testBit⟩
  exact Nat.testBit_of_two_pow_le_and_two_pow_add_one_gt above (by rwa [show 63 - k + 1 = 64 - k by omega])

theorem clz64_lt : clz64 a < 2 ^ 64 := by
  unfold clz64
  split <;> omega

theorem integerOp_clz {k : Nat} (hk : k < 64) :
    integerOp 14 a b = BitVec.ofNat 64 k ↔ a.getLsbD (63 - k) = true ∧ a.toNat < 2 ^ (64 - k) := by
  rw [← clz64_eq_iff a hk]
  change BitVec.ofNat 64 (clz64 a) = BitVec.ofNat 64 k ↔ _
  refine ⟨fun same => ?_, fun same => by rw [same]⟩
  have nat := congrArg BitVec.toNat same
  rwa [BitVec.toNat_ofNat, BitVec.toNat_ofNat, Nat.mod_eq_of_lt (clz64_lt a), Nat.mod_eq_of_lt (by omega)] at nat

theorem toNat_lesser : (if a.toNat < b.toNat then a else b).toNat = min a.toNat b.toNat := by
  split <;> omega

theorem toNat_greater : (if a.toNat < b.toNat then b else a).toNat = max a.toNat b.toNat := by
  split <;> omega

theorem integerOp_shifts (narrow : b.toNat < 64) : integerOp 5 a b = a <<< b.toNat ∧ integerOp 6 a b = a >>> b.toNat ∧
    integerOp 7 a b = a.sshiftRight b.toNat :=
  ⟨if_pos narrow, if_pos narrow, if_pos narrow⟩

/-- The high half of a signed product. -/
theorem multiplyOp_signed_high : (multiplyOp 1 a b).toInt = a.toInt * b.toInt / 2 ^ 64 := by
  have size : (a.toInt * b.toInt).natAbs ≤ 2 ^ 63 * 2 ^ 63 := by
    rw [Int.natAbs_mul]
    refine Nat.mul_le_mul ?_ ?_
    · have lo := a.le_toInt
      have hi := a.toInt_lt
      omega
    · have lo := b.le_toInt
      have hi := b.toInt_lt
      omega
  change (BitVec.ofInt 64 (a.toInt * b.toInt / 2 ^ 64)).toInt = _
  rw [BitVec.toInt_ofInt]
  exact Int.bmod_eq_of_le (by omega) (by omega)

theorem multiplyOp_high : (multiplyOp 2 a b).toNat = a.toNat * b.toNat / 2 ^ 64 := by
  have product : a.toNat * b.toNat < 2 ^ 64 * 2 ^ 64 := Nat.mul_lt_mul'' a.isLt b.isLt
  change (BitVec.ofNat 64 (a.toNat * b.toNat / 2 ^ 64)).toNat = _
  rw [BitVec.toNat_ofNat, Nat.mod_eq_of_lt]
  exact Nat.div_lt_of_lt_mul product

theorem divideOp_by_zero (zero : b = 0) : divideOp 0 a b = BitVec.allOnes 64 ∧ divideOp 1 a b = BitVec.allOnes 64 ∧
    divideOp 2 a b = a ∧ divideOp 3 a b = a :=
  ⟨if_pos zero, if_pos zero, if_pos zero, if_pos zero⟩

theorem divideOp_unsigned (nonzero : b ≠ 0) : (divideOp 1 a b).toNat = a.toNat / b.toNat ∧
    (divideOp 3 a b).toNat = a.toNat % b.toNat := by
  have quotient : divideOp 1 a b = a / b := if_neg nonzero
  have remainder : divideOp 3 a b = a % b := if_neg nonzero
  rw [quotient, remainder]
  exact ⟨BitVec.toNat_udiv, BitVec.toNat_umod⟩

/-- Signed division truncates where the quotient fits. -/
theorem divideOp_signed (nonzero : b ≠ 0) (fits : ¬ (a = BitVec.intMin 64 ∧ b = BitVec.allOnes 64)) :
    (divideOp 0 a b).toInt = a.toInt.tdiv b.toInt ∧ (divideOp 2 a b).toInt = a.toInt.tmod b.toInt := by
  have within : ¬ (a == BitVec.intMin 64 && b == BitVec.allOnes 64) = true := by simpa using fits
  have quotient : divideOp 0 a b = a.sdiv b := (if_neg nonzero).trans (if_neg within)
  have remainder : divideOp 2 a b = a.srem b := (if_neg nonzero).trans (if_neg within)
  rw [quotient, remainder]
  exact ⟨BitVec.toInt_sdiv_of_ne_or_ne _ _ (not_and_or.1 fits), BitVec.toInt_srem a b⟩

/-- The results of the sub-functions of a core. -/
theorem core_operations :
    integerOp 0 a b = a + b ∧ integerOp 1 a b = a - b ∧ integerOp 2 a b = a &&& b ∧ integerOp 3 a b = a ||| b ∧
    integerOp 4 a b = a ^^^ b ∧
    (b.toNat < 64 → integerOp 5 a b = a <<< b.toNat ∧ integerOp 6 a b = a >>> b.toNat ∧
      integerOp 7 a b = a.sshiftRight b.toNat) ∧
    integerOp 8 a b = (if a.toInt < b.toInt then 1 else 0) ∧ integerOp 9 a b = (if a.toNat < b.toNat then 1 else 0) ∧
    (integerOp 10 a b).toInt = min a.toInt b.toInt ∧ (integerOp 11 a b).toInt = max a.toInt b.toInt ∧
    (integerOp 12 a b).toNat = min a.toNat b.toNat ∧ (integerOp 13 a b).toNat = max a.toNat b.toNat ∧
    (∀ k, k < 64 → (integerOp 14 a b = BitVec.ofNat 64 k ↔ a.getLsbD (63 - k) = true ∧ a.toNat < 2 ^ (64 - k))) ∧
    integerOp 15 a b = BitVec.ofNat 64 ((List.range 64).countP (fun i => a.getLsbD i)) ∧
    multiplyOp 0 a b = a * b ∧ (multiplyOp 2 a b).toNat = a.toNat * b.toNat / 2 ^ 64 ∧
    (multiplyOp 1 a b).toInt = a.toInt * b.toInt / 2 ^ 64 ∧
    (b = 0 → divideOp 0 a b = BitVec.allOnes 64 ∧ divideOp 1 a b = BitVec.allOnes 64 ∧ divideOp 2 a b = a ∧
      divideOp 3 a b = a) ∧
    (b ≠ 0 → (divideOp 1 a b).toNat = a.toNat / b.toNat ∧ (divideOp 3 a b).toNat = a.toNat % b.toNat) ∧
    (b ≠ 0 → ¬ (a = BitVec.intMin 64 ∧ b = BitVec.allOnes 64) →
      (divideOp 0 a b).toInt = a.toInt.tdiv b.toInt ∧ (divideOp 2 a b).toInt = a.toInt.tmod b.toInt) := by
  refine ⟨rfl, rfl, rfl, rfl, rfl, integerOp_shifts a b, ?_, ?_, toInt_lesser a b, toInt_greater a b, toNat_lesser a b,
    toNat_greater a b, fun k hk => integerOp_clz a b hk, ?_, rfl, multiplyOp_high a b, multiplyOp_signed_high a b,
    divideOp_by_zero a b, divideOp_unsigned a b, divideOp_signed a b⟩
  · simp [integerOp, flag64]
  · simp [integerOp, flag64]
  · rw [List.countP_eq_length_filter]
    rfl

end

/-! ### The int32 row sum (R98, R99) -/

theorem sum_treeStage : ∀ l : List W32, (treeStage (· + ·) l).sum = l.sum
  | [] => rfl
  | [_] => rfl
  | a :: b :: r => by rw [treeStage, List.sum_cons, sum_treeStage r, List.sum_cons, List.sum_cons, BitVec.add_assoc]

section
variable {f : VFields} (is : f.op = 0x20) (int32 : f.ty = 2) (y : VTile)
include is int32

theorem reduceOp_int32 : reduceOp f = (· + ·) := by
  funext a b
  rw [reduceOp_eq, if_neg (by omega), if_neg (by omega), if_pos int32]

theorem reduceLane_int32 (a b : W32) : reduceLane f a b = a := by
  rw [reduceLane_eq, if_neg (by omega), if_neg (by omega)]

/-- No stage of the tree changes the sum of the lanes. -/
theorem sum_registerStage (k j : Nat) :
    (registerStage f y k j).sum = ((List.range 256).map (lane (y.reg (f.va + k)))).sum := by
  induction j with
  | zero =>
    rw [registerStage]
    simp only [reduceLane_int32 is int32]
    rfl
  | succ j ih => rw [registerStage_succ, reduceOp_int32 is int32, sum_treeStage, ih]

theorem registerTree_int32 (k : Nat) : registerTree f y k = ((List.range 256).map (lane (y.reg (f.va + k)))).sum := by
  obtain ⟨a, one⟩ := List.length_eq_one_iff.1 (length_registerStage f y k (le_refl 8))
  rw [← sum_registerStage is int32 y k 8, registerTree_eq_lane, one]
  exact (BitVec.add_zero a).symm

theorem reduceUpTo_int32 (n : Nat) : reduceUpTo f y n =
    ((List.range (n + 1)).map (fun k => ((List.range 256).map (lane (y.reg (f.va + k)))).sum)).sum := by
  induction n with
  | zero =>
    refine (registerTree_int32 is int32 y 0).trans ?_
    exact (BitVec.add_zero _).symm
  | succ n ih =>
    rw [reduceUpTo_succ, reduceOp_int32 is int32, ih, registerTree_int32 is int32,
      List.range_succ (n := n + 1), List.map_append, List.sum_append, List.map_singleton, List.sum_singleton]

end

/-- Settles O7: one lane by `TYPE` and operation, the sub-functions of a core, and the sum that no stage of the tree changes. -/
theorem operationsCompute : Obligations.OperationsCompute := by
  unfold Obligations.OperationsCompute
  refine ⟨?_, core_operations, fun f y is int32 => reduceUpTo_int32 is int32 y f.cnt⟩
  intro f a b c A B C k
  refine ⟨aluLane_fp32, fun ty is => ?_, fun ty is => ?_, fun ty is => ?_, aluLane_ialu⟩
  · rw [aluLane_select is, if_neg ty]
  · rw [aluLane_select is, if_pos ty]
  · simp only [aluLane, is, numLane, if_pos ty]

end Sys2Proof.Machine
end

section
/-! PROOFS. C-tile cores (spec/04_vector_and_control_tiles.md R106–R111, R524, spec/05_scratchpads.md R121, R122, R131): registers and
control flow, memory, the sequencer port and the tether, and the wait that a signal ends. -/

namespace Sys2Proof.Machine

/-! ### Registers and control flow (R106–R108) -/

section
variable {s : State} {c : CRef} {w : W32} {x : Site} {f : CFields}

/-- A word of a core that its command accepts has its effect. -/
theorem exec_core_issues (h : CIssues s c w x f) {accept : CFields → Bool} {effect : Site → Core → CFields → Effect}
    (accepts : accept f = true) : Host.Outcome.next (runC s c.part c.die c.core w accept effect) =
      (.next (s.apply x id (effect x (x.die.core c.core) f)) : Out) :=
  congrArg Host.Outcome.next (runC_issues h accept effect accepts)

/-- A word that only computes a register writes it, x0 excepted, and goes on. -/
theorem exec_register_issues (h : CIssues s c w x f) {accept : CFields → Bool} {value : Site → Core → CFields → W64}
    (accepts : accept f = true) :
    Host.Outcome.next (runC s c.part c.die c.core w accept (fun x core f => registerEffect x c.core core f.rd (value x core f))) =
      issuedC s c x { (if f.rd = 0 then x.die.core c.core else { x.die.core c.core with
        x := Sparse.setD 0 (x.die.core c.core).x f.rd (value x (x.die.core c.core) f) }) with pc := (x.die.core c.core).pc + 4 } := by
  refine (exec_core_issues h accepts).trans ?_
  simp only [registerEffect, Core.put, Core.next, Core.setReg, issuedC, State.apply]
  split <;> rfl

/-- The branch of opcode `op` is taken on these values (R108). -/
theorem branchTaken_iff {op : Nat} (branch : 0x20 ≤ op ∧ op ≤ 0x25) (a b : W64) : branchTaken op a b = true ↔
    (op = 0x20 ∧ a = b) ∨ (op = 0x21 ∧ a ≠ b) ∨ (op = 0x22 ∧ a.toInt < b.toInt) ∨
      (op = 0x23 ∧ b.toInt ≤ a.toInt) ∨ (op = 0x24 ∧ a.toNat < b.toNat) ∨ (op = 0x25 ∧ b.toNat ≤ a.toNat) := by
  obtain ⟨lo, hi⟩ := branch
  interval_cases op <;> simp [branchTaken]

theorem exec_branch_issues (h : CIssues s c w x f) (branch : 0x20 ≤ f.op ∧ f.op ≤ 0x25) : exec (.branch c w) s =
    issuedC s c x { x.die.core c.core with
      pc := if branchTaken f.op ((x.die.core c.core).reg f.rs1) ((x.die.core c.core).reg f.rd)
        then (BitVec.ofNat 64 (x.die.core c.core).pc + BitVec.ofInt 64 (4 * f.imm)).toNat else (x.die.core c.core).pc + 4 } :=
  exec_core_issues h (decide_eq_true branch)

/-- The values that the port shows by its sub-function (R108). -/
theorem portRead_eq (x : Site) {fn : Nat} (shown : fn ∈ [0, 1, 2, 6]) : portRead x fn =
    if fn = 0 then x.part.run.beat else if fn = 1 then x.part.run.rounds else if fn = 2 then x.context.step else x.d := by
  simp only [List.mem_cons, List.not_mem_nil, or_false] at shown
  rcases shown with rfl | rfl | rfl | rfl <;> rfl

end

/-- Settles O11: each register word by its value, and each word of control flow. -/
theorem coreRegisterAndFlowInstructions : Obligations.CoreRegisterAndFlowInstructions := by
  unfold Obligations.CoreRegisterAndFlowInstructions
  refine ⟨?_, ?_⟩
  · intro s c w x f h y a b gives
    refine ⟨fun is => ?_, fun is => ?_, fun is => ?_, fun is => ?_, fun is => ?_, fun is => ?_, fun is shown => ?_⟩
    · exact exec_register_issues h (beq_iff_eq.2 is)
    · exact exec_register_issues h (decide_eq_true is)
    · exact exec_register_issues h (beq_iff_eq.2 is)
    · exact exec_register_issues h (beq_iff_eq.2 is)
    · exact exec_register_issues h (beq_iff_eq.2 is)
    · exact exec_register_issues h (beq_iff_eq.2 is)
    · rw [← portRead_eq x shown]
      exact exec_register_issues h (by simpa [is] using shown)
  · intro s c w x f h y a b there link taken
    refine ⟨fun is => ?_, fun is holds => ?_, fun is fails => ?_, fun is => ?_, fun is => ?_, fun is => ?_⟩
    · exact exec_core_issues h (beq_iff_eq.2 is)
    · rw [exec_branch_issues h is, if_pos ((branchTaken_iff is a b).2 holds)]
    · rw [exec_branch_issues h is, if_neg fun branches => fails ((branchTaken_iff is a b).1 branches)]
    · exact exec_core_issues h (beq_iff_eq.2 is)
    · exact exec_core_issues h (beq_iff_eq.2 is)
    · exact exec_core_issues h (beq_iff_eq.2 is)

/-! ### Memory (R108, R109, R121, R122, R131, R135) -/

section
variable {s : State} {c : CRef} {w : W32} {x : Site} {f : CFields}

theorem exec_ctLoad_issues (h : CIssues s c w x f) (is : 0x10 ≤ f.op ∧ f.op ≤ 0x16) :
    exec (.ctLoad c w) s = .next (s.apply x id (coreLoad x c.core (x.die.core c.core) f)) :=
  exec_core_issues h (decide_eq_true is)

theorem exec_ctStore_issues (h : CIssues s c w x f) (is : 0x18 ≤ f.op ∧ f.op ≤ 0x1B) :
    exec (.ctStore c w) s = .next (s.apply x id (coreStore x c.core (x.die.core c.core) f s.beat)) :=
  exec_core_issues h (decide_eq_true is)

theorem exec_dieRead_issues (h : CIssues s c w x f) (is : f.op = 0x1C) :
    exec (.dieRead c w) s = .next (s.apply x id (dieReadEffect x c.core (x.die.core c.core) f)) :=
  exec_core_issues h (beq_iff_eq.2 is)

theorem exec_dieWrite_issues (h : CIssues s c w x f) (is : f.op = 0x1D) :
    exec (.dieWrite c w) s = .next (s.apply x id (dieWriteEffect x c.core (x.die.core c.core) f)) :=
  exec_core_issues h (beq_iff_eq.2 is)

end

/-- The only store of a die lands from the fourth cycle after its issue on. -/
theorem Die.visibleStores_one {d : Die} {e : CoreStore} (one : d.stores = [e]) (now : Nat) : d.visibleStores now =
    if now < e.beat + 4 then d else { d.writeMem (21 + e.ctile) e.addr e.data with stores := [] } := by
  have lands : d.visibleStores now = d.landStores (fun x => decide (x.beat + 4 ≤ now)) := if_neg (by simp [one])
  by_cases early : now < e.beat + 4
  · have keeps : d.stores.filter (fun x => decide (x.beat + 4 ≤ now)) = [] := by simp [one, early]
    have stays : d.stores.filter (fun x => !decide (x.beat + 4 ≤ now)) = d.stores := by simp [one, early]
    rw [lands, if_pos early, Die.landStores, keeps, stays]
    rfl
  · have goes : d.stores.filter (fun x => decide (x.beat + 4 ≤ now)) = [e] := by simpa [one] using early
    have left : d.stores.filter (fun x => !decide (x.beat + 4 ≤ now)) = [] := by simpa [one] using early
    rw [lands, if_neg early, Die.landStores, goes, left]
    rfl

/-- Settles O12: the branches of each access, and the one store that lands. -/
theorem coreMemoryInstructions : Obligations.CoreMemoryInstructions := by
  unfold Obligations.CoreMemoryInstructions
  refine ⟨?_, fun d e now one => Die.visibleStores_one one now⟩
  intro s c w x f h y a n fails
  refine ⟨fun is outside => ?_, fun is inside clean => ?_, fun is outside => ?_, fun is inside clean => ?_, fun is outside => ?_,
    fun is lo hi clean => ?_, fun is nowhere => ?_, fun mem at_ is target => ?_⟩
  · rw [exec_ctLoad_issues h is, coreLoad, if_pos outside]
    rfl
  · rw [exec_ctLoad_issues h is, coreLoad, if_neg (Nat.not_lt.2 inside)]
    simp only [show x.die.parityAt (coreMem c.core) (coreAddress (x.die.core c.core) f) (accessBytes f.op) = none from clean]
    rfl
  · rw [exec_ctStore_issues h is, coreStore]
    exact congrArg (fun e => Host.Outcome.next (s.apply x id e)) (if_pos outside)
  · have checked : (if (accessBytes f.op == 8 && coreAddress y f % 8 == 0) = true then none
        else x.die.parityAt (coreMem c.core) (coreAddress y f) (accessBytes f.op)) = none := by
      split
      · rfl
      next part => exact clean.resolve_left (by simpa using part)
    rw [exec_ctStore_issues h is, coreStore]
    rw [if_neg (Nat.not_lt.2 inside), checked]
    rfl
  · rw [exec_dieRead_issues h is, dieReadEffect, if_pos outside]
    rfl
  · rw [exec_dieRead_issues h is, dieReadEffect, if_neg (not_or.2 ⟨Nat.not_lt.2 lo, Nat.not_lt.2 hi⟩)]
    simp only [show x.die.parityAt 20 (coreAddress (x.die.core c.core) f - bufferBase) 8 = none from clean]
    rfl
  · rw [exec_dieWrite_issues h is, dieWriteEffect]
    simp only [show dieWriteTarget (coreAddress (x.die.core c.core) f) = none from nowhere]
    rfl
  · rw [exec_dieWrite_issues h is, dieWriteEffect]
    simp only [show dieWriteTarget (coreAddress (x.die.core c.core) f) = some (mem, at_) from target]
    dsimp only [y]
    split
    next none => rw [none]; rfl
    next d credited => rw [credited]; rfl

/-! ### The tether and the sequencer port (R108, R110, R111, R189, R190, R524) -/

section
variable {s : State} {c : CRef} {w : W32} {x : Site} {f : CFields}

theorem exec_tsend_issues (h : CIssues s c w x f) (is : f.op = 0x28) : exec (.tsend c w) s = .next (s.apply x id
    (if ((x.die.core c.core).reg f.rs1).toNat < 65536 ∧ x.part.reaches ((x.die.core c.core).reg f.rs1).toNat then
      .send (x.die.setCore c.core (x.die.core c.core).next) ((x.die.core c.core).reg f.rs1).toNat
        ⟨coreNode x.d c.core, ((x.die.core c.core).reg f.rs2).setWidth 32⟩
    else .fault .faultTether)) :=
  exec_core_issues h (beq_iff_eq.2 is)

theorem portEvent_of_lt {v : W64} (event : v.toNat < 256) : portEvent v = v.toNat := if_pos event

theorem portFlag_of_lt {v : W64} (flag : v.toNat < 16) : portFlag v = v.toNat := if_pos flag

end

/-- Settles O13: `TSEND` by whether it reaches a node, `TRECV` by its queue, and the port's sub-functions. -/
theorem corePortsAndTether : Obligations.CorePortsAndTether := by
  unfold Obligations.CorePortsAndTether
  refine ⟨?_, ?_⟩
  · intro s c w x f h y dest moved
    refine ⟨fun is small reaches => ?_, fun is lost => ?_, fun p rest is packets => ?_, fun is empty => ?_⟩
    · rw [exec_tsend_issues h is, if_pos ⟨small, reaches⟩]
      rfl
    · rw [exec_tsend_issues h is, if_neg lost]
      rfl
    · change execTrecv c w s = _
      rw [execTrecv, runC_issues h _ _ (by simp [is])]
      simp only [show (x.die.core c.core).rx = p :: rest from packets]
      rfl
    · change execTrecv c w s = _
      rw [execTrecv, runC_issues h _ _ (by simp [is])]
      simp only [show (x.die.core c.core).rx = [] from empty]
      rfl
  · intro s c w x f h y v
    refine ⟨fun is fn event => ?_, fun is fn event => ?_, fun is fn flag => ?_, fun is => ?_⟩
    · change execSeqPortSignal c w s = _
      rw [execSeqPortSignal, runC_issues h _ _ (by simp [is, fn])]
      rw [← portEvent_of_lt event]
      rfl
    · change execSeqPortWait c w s = _
      rw [execSeqPortWait, runC_issues h _ _ (by simp [is, fn])]
      rw [← portEvent_of_lt event]
      rfl
    · change execSeqPortSetReady c w s = _
      rw [execSeqPortSetReady, runC_issues h _ _ (by simp [is, fn])]
      rw [← portFlag_of_lt flag]
      rfl
    · exact exec_core_issues h (beq_iff_eq.2 is)

/-! ### The wait that a signal ends (R524) -/

/-- The first of the first `n` numbers that a predicate holds of. -/
theorem find?_range_eq_some_of_first {n t : Nat} {p : Nat → Prop} {q : Nat → Bool} (spec : ∀ u, q u = true ↔ p u) (inside : t < n)
    (here : p t) (first : ∀ u, u < t → ¬ p u) : (List.range n).find? q = some t := by
  rw [List.find?_range_eq_some]
  have earlier (u : Nat) (hu : u < t) : ¬ q u = true := fun holds => first u hu ((spec u).1 holds)
  exact ⟨(spec t).2 here, List.mem_range.2 inside, fun u hu => by simpa using earlier u hu⟩

theorem find?_range_eq_none_of_none {n : Nat} {p : Nat → Prop} {q : Nat → Bool} (spec : ∀ u, q u = true ↔ p u)
    (none : ∀ u, u < n → ¬ p u) : (List.range n).find? q = Option.none := by
  rw [List.find?_eq_none]
  exact fun u hu => fun holds => none u (List.mem_range.1 hu) ((spec u).1 holds)

section
variable {s : State} {d : DRef} {event : BitVec 8} {x : Site}

theorem exec_eventWaitComplete_of_signal (site : s.siteAny d.part d.die = some x) (goes : x.die.stopped = false)
    (signals : 0 < x.die.eventCount event.toNat) : exec (.eventWaitComplete d event) s =
      (x.die.release event.toNat (s.frozen d.part)).elim (.next s)
        (fun die => .next (s.putDie x (die.setEvent event.toNat (x.die.eventCount event.toNat - 1)))) := by
  change execEventWaitComplete d event s = _
  simp only [execEventWaitComplete, site, goes, Nat.ne_of_gt signals, Bool.false_eq_true, or_self, if_false]
  cases x.die.release event.toNat (s.frozen d.part) <;> rfl

end

/-- Settles O14: the first waiter in the order of the three searches of `Die.release`. -/
theorem oneSignalReleasesOneWait : Obligations.OneSignalReleasesOneWait := by
  unfold Obligations.OneSignalReleasesOneWait
  intro s d event x site goes signals open_ n e waitsM waitsV waitsC
  have specM (u : Nat) : ((x.die.mtile u).prog.waiting == some e) = true ↔ waitsM u := beq_iff_eq
  have specV (u : Nat) : ((x.die.vtile u).prog.waiting == some e) = true ↔ waitsV u := beq_iff_eq
  have specC (u : Nat) : ((x.die.core u).waiting == some (.event e)) = true ↔ waitsC u := beq_iff_eq
  rw [exec_eventWaitComplete_of_signal site goes signals]
  simp only [Die.release, open_, Bool.false_eq_true, if_false]
  refine ⟨fun t inside here first => ?_, fun t inside here first noM => ?_, fun t inside here first noM noV => ?_,
    fun noM noV noC => ?_⟩
  · rw [find?_range_eq_some_of_first specM inside here first]
    rfl
  · rw [find?_range_eq_none_of_none specM noM, find?_range_eq_some_of_first specV inside here first]
    rfl
  · rw [find?_range_eq_none_of_none specM noM, find?_range_eq_none_of_none specV noV,
      find?_range_eq_some_of_first specC inside here first]
    rfl
  · rw [find?_range_eq_none_of_none specM noM, find?_range_eq_none_of_none specV noV, find?_range_eq_none_of_none specC noC]
    rfl

end Sys2Proof.Machine
end

section
/-! PROOFS. Sequencers, rounds and steps, the response to detected errors, the ledger and the belay line
(spec/05_scratchpads.md R134–R143, spec/06_fabric_and_patterns.md R165–R201, spec/07_recompute_execution.md R205–R219,
spec/14_power_and_energy.md R425–R430). -/

namespace Sys2Proof.Machine

/-! ### Sequencers (R111, R112, R134, R168, R169) -/

section
variable {s : State} {d : DRef} {x : Site} {e : SeqEntry}

/-- SEQUENCER_START at a due entry that starts a unit. -/
theorem exec_sequencerStart_due (site : s.site d.part d.die = some x) (due : x.due = some e) (starts : e.act ≤ 2) :
    exec (.sequencerStart d) s = match x.die.start e with
      | none => .next (s.softFault d.part .faultBusyStart d.die)
      | some die => .next (s.putDie x die.pass) := by
  change execSequencerStart d s = _
  rw [execSequencerStart, site]
  dsimp only
  rw [due]
  exact if_neg (Nat.not_lt.2 starts)

theorem exec_sequencerStart_starts (site : s.site d.part d.die = some x) (due : x.due = some e) (starts : e.act ≤ 2) {y : Die}
    (start : x.die.start e = some y) :
    exec (.sequencerStart d) s = .next (s.putDie x { y with seqPos := y.seqPos + 1 }) := by
  rw [exec_sequencerStart_due site due starts, start]
  rfl

theorem exec_sequencerStart_busy (site : s.site d.part d.die = some x) (due : x.due = some e) (starts : e.act ≤ 2)
    (busy : x.die.start e = none) : exec (.sequencerStart d) s = .next (s.softFault d.part .faultBusyStart d.die) := by
  rw [exec_sequencerStart_due site due starts, busy]

theorem Die.start_mtile {y : Die} (act : e.act = 0) : y.start e = if y.mDone e.unit then
    some (y.setMtile e.unit { y.mtile e.unit with
      prog := ⟨true, false, true, 64 * e.arg, none, none⟩, chain := none, held := none, first := none, want := none }) else none := by
  rw [Die.start, act]
  rfl

theorem Die.start_vtile {y : Die} (act : e.act = 1) : y.start e = if y.vDone e.unit then
    some (y.setVtile e.unit { y.vtile e.unit with prog := ⟨true, false, true, 64 * e.arg, none, none⟩ }) else none := by
  rw [Die.start, act]
  rfl

theorem Die.start_core {y : Die} (act : e.act = 2) : y.start e = if y.cDone e.unit then
    some (y.setCore e.unit { y.core e.unit with pc := 64 * e.arg, running := true, started := true, waiting := none }) else none := by
  rw [Die.start, act]
  rfl

theorem exec_sequencerSignal_due (site : s.site d.part d.die = some x) (due : x.due = some e) (signals : e.act = 3) :
    exec (.sequencerSignal d) s = .next (s.putDie x (x.die.signal (e.arg % 256)).pass) := by
  change execSequencerSignal d s = _
  simp only [execSequencerSignal, site, due, if_pos signals]

theorem exec_syncPoint_due (site : s.site d.part d.die = some x) (due : x.due = some e) (sync : e.act = 4) :
    exec (.syncPoint d) s = if x.die.ready.getLsbD (e.arg % 16) then
        .next (s.putDie x { x.die with ready := x.die.ready &&& ~~~ (1#16 <<< (e.arg % 16)) }.pass)
      else .next ((s.putDie x { x.die with syncs := x.die.syncs ++ [(e.arg % 16, s.time)] }.pass).raise (s.wireOf d.part)
        (.sync d.part d.die (e.arg % 16))) := by
  change execSyncPoint d s = _
  simp only [execSyncPoint, site, due, ne_eq, sync, not_true_eq_false, if_false]

theorem exec_syncTimeout_of_old {flag : Fin 16} {since : Nat} (site : s.siteAny d.part d.die = some x)
    (listed : (flag.val, since) ∈ x.die.syncs) (unset : x.die.ready.getLsbD flag = false)
    (old : x.pat.syncTimeout * usec < s.time - since) : exec (.syncTimeout d flag) s =
      .next ((s.softFault d.part .faultSyncTimeout d.die).dropBoth d.part (.sync d.part d.die flag)) := by
  change execSyncTimeout d flag s = _
  have found : x.die.syncs.any (fun e => e.1 == flag.val && !x.die.ready.getLsbD e.1 &&
      decide (x.pat.syncTimeout * usec < s.time - e.2)) = true :=
    List.any_eq_true.2 ⟨_, listed, by simp only [beq_self_eq_true, unset, Bool.not_false, decide_eq_true old, Bool.and_self]⟩
  simp only [execSyncTimeout, site, if_pos found]

theorem exec_creditHoldTimeout_site (site : s.site d.part d.die = some x) : exec (.creditHoldTimeout d) s =
    if ∃ h ∈ x.die.held, x.pat.syncTimeout * usec < x.part.run.elapsed - h.since then
      .next (s.softFault d.part .faultSyncTimeout d.die) else .next s := by
  change execCreditHoldTimeout d s = _
  simp only [execCreditHoldTimeout, site, List.any_eq_true, decide_eq_true_eq]

end

/-- Settles O15: the entry that is due by what it asks, and the two timeouts by what they find. -/
theorem sequencersAct : Obligations.SequencersAct := by
  unfold Obligations.SequencersAct
  refine ⟨⟨?_, ?_⟩, ?_⟩
  · intro s d x site e due t v c after f
    refine ⟨fun act done => ?_, fun act done => ?_, fun act done => ?_, fun busy => ?_, fun act => ?_, fun act set => ?_,
      fun act unset => ?_⟩
    · exact exec_sequencerStart_starts site due (by omega) ((Die.start_mtile act).trans (if_pos done))
    · exact exec_sequencerStart_starts site due (by omega) ((Die.start_vtile act).trans (if_pos done))
    · exact exec_sequencerStart_starts site due (by omega) ((Die.start_core act).trans (if_pos done))
    · have none : x.die.start e = none := by
        rcases busy with ⟨act, busy⟩ | ⟨act, busy⟩ | ⟨act, busy⟩
        · simp [Die.start_mtile act, busy]
        · simp [Die.start_vtile act, busy]
        · simp [Die.start_core act, busy]
      exact exec_sequencerStart_busy site due (by omega) none
    · exact exec_sequencerSignal_due site due act
    · exact (exec_syncPoint_due site due act).trans (if_pos set)
    · exact (exec_syncPoint_due site due act).trans (if_neg (Bool.eq_false_iff.1 unset))
  · rintro s d x site flag ⟨since, listed, unset, old⟩
    exact exec_syncTimeout_of_old site listed unset old
  · intro s d x site
    refine ⟨fun late => (exec_creditHoldTimeout_site site).trans (if_pos late), fun early => ?_⟩
    refine (exec_creditHoldTimeout_site site).trans (if_neg ?_)
    rintro ⟨h, held, late⟩
    exact Nat.not_le.2 late (early h held)

/-! ### Changing every die of a partition -/

/-- Changing the first `n` dies leaves everything else of the partition. -/
theorem Partition.foldRange_setDie_frame (x : Partition) (f : Nat → Die → Die) (n : Nat) :
    foldRange n x (fun y d => y.setDie d (f d (y.die d))) =
      { x with dies := (foldRange n x (fun y d => y.setDie d (f d (y.die d)))).dies } := by
  induction n with
  | zero => rfl
  | succ n ih => rw [foldRange_succ, ih]; rfl

theorem Partition.die_foldRange_setDie (x : Partition) (f : Nat → Die → Die) (n d : Nat) :
    (foldRange n x (fun y d => y.setDie d (f d (y.die d)))).die d = if d < n then f d (x.die d) else x.die d := by
  induction n with
  | zero => rfl
  | succ n ih =>
    rw [foldRange_succ, die_setDie]
    split
    next same =>
      subst same
      rw [ih, if_neg (Nat.lt_irrefl d), if_pos (Nat.lt_succ_self d)]
    next other => rw [ih]; exact if_congr (by omega) rfl rfl

theorem Partition.mapDies_frame (x : Partition) (f : Nat → Die → Die) : x.mapDies f = { x with dies := (x.mapDies f).dies } :=
  x.foldRange_setDie_frame f x.size

theorem Partition.die_mapDies (x : Partition) (f : Nat → Die → Die) (d : Nat) :
    (x.mapDies f).die d = if d < x.size then f d (x.die d) else x.die d :=
  x.die_foldRange_setDie f x.size d

/-! ### The start of a round (R167, R200, R208) -/

/-- Where a die stands in its tables: its sequencer entry, its landing pointers, and the beat of its slot entry. -/
def Die.stand (d : Die) : Nat × SMap Nat × Option Nat := (d.seqPos, d.landed, d.slotDone)

theorem Die.stand_setMemory (d : Die) (mem : Nat) (x : Mem) : (d.setMemory mem x).stand = d.stand := by
  unfold Die.setMemory
  repeat' split
  all_goals rfl

theorem Die.stand_writeMem (d : Die) (mem addr : Nat) (bs : List Byte) : (d.writeMem mem addr bs).stand = d.stand :=
  d.stand_setMemory mem _

theorem Die.stand_remoteWrite {d d' : Die} {srcKind srcId mem addr : Nat} {bs : List Byte}
    (h : d.remoteWrite srcKind srcId mem addr bs = .accepted d') : d'.stand = d.stand := by
  simp only [Die.remoteWrite] at h
  split at h
  next => cases h
  next =>
    split at h
    · cases h; exact d.stand_writeMem mem addr bs
    · split at h
      · cases h; exact Die.stand_writeMem _ mem addr bs
      · cases h

theorem Die.stand_retryHeld (d : Die) : d.retryHeld.stand = d.stand := by
  have kept : ∀ (l : List HeldWrite) (acc : Die × List HeldWrite), (l.foldl (fun (acc : Die × List HeldWrite) h =>
      if acc.2.any (fun o => o.sameWriter h) then (acc.1, acc.2 ++ [h])
      else match acc.1.remoteWrite h.srcKind h.srcId h.mem h.addr h.data with
        | .accepted d' => (d', acc.2)
        | _ => (acc.1, acc.2 ++ [h])) acc).1.stand = acc.1.stand := by
    intro l
    induction l with
    | nil => exact fun _ => rfl
    | cons h l ih =>
      intro acc
      rw [List.foldl_cons, ih]
      split
      · rfl
      · split
        next found => exact Die.stand_remoteWrite found
        next => rfl
  exact kept d.held (d, [])

theorem Die.stand_roundStart (d : Die) (q : DiePattern) (step layer : Option Nat) :
    (d.roundStart q step layer).stand = (0, [], none) := by
  have refilled : ({ d with landed := [], seqPos := 0, slotDone := none } : Die).roundRefill.stand = (0, [], none) :=
    Die.stand_retryHeld _
  cases step <;> cases layer <;> exact refilled

/-- The partition in the first beat of its next round: entry `e`, repeat `n`, the index of the step that begins with it and the layer
that begins or restarts with it. -/
def Partition.roundBegun (x : Partition) (q : Pattern) (e n : Nat) (step layer : Option Nat) : Partition :=
  let z := x.mapDies (fun d y => y.roundStart (q.die d) step layer)
  let y := { z with
    clamps := if step.isSome then 0 else z.clamps,
    unresolved := if step.isSome then 0 else z.unresolved,
    run := { x.run with phase := .round, entry := e, rep := n, beat := 0, rounds := x.run.rounds + 1,
                        stepBeat := if step.isSome then 0 else x.run.stepBeat, admitted := false, restartAt := none } }
  match layer with
  | none => y
  | some l => { y with run := { y.run with
      layerCounts := Sparse.set (if step.isSome then [] else y.run.layerCounts) l (y.unresolved, y.clamps) } }

theorem Partition.roundBegun_run (x : Partition) (q : Pattern) (e n : Nat) (step layer : Option Nat) :
    ∃ m, (x.roundBegun q e n step layer).run = { x.run with
      phase := .round, entry := e, rep := n, beat := 0, rounds := x.run.rounds + 1,
      stepBeat := if step.isSome then 0 else x.run.stepBeat, admitted := false, restartAt := none, layerCounts := m } := by
  cases layer <;> exact ⟨_, rfl⟩

theorem Partition.roundBegun_frame (x : Partition) (q : Pattern) (e n : Nat) (step layer : Option Nat) :
    (x.roundBegun q e n step layer).contexts = x.contexts ∧ (x.roundBegun q e n step layer).credit = x.credit ∧
      (x.roundBegun q e n step layer).dies = (x.mapDies (fun d y => y.roundStart (q.die d) step layer)).dies := by
  have same := x.mapDies_frame (fun d y => y.roundStart (q.die d) step layer)
  refine ⟨?_, ?_, ?_⟩
  · cases layer <;> exact (congrArg Partition.contexts same :)
  · cases layer <;> exact (congrArg Partition.credit same :)
  · cases layer <;> rfl

theorem Partition.stand_roundBegun (x : Partition) (q : Pattern) (e n : Nat) (step layer : Option Nat) {d : Nat} (inside : d < x.size) :
    ((x.roundBegun q e n step layer).die d).stand = (0, [], none) := by
  obtain ⟨-, -, dies⟩ := x.roundBegun_frame q e n step layer
  rw [Partition.die, dies]
  change ((x.mapDies _).die d).stand = _
  rw [x.die_mapDies, if_pos inside, Die.stand_roundStart]

/-- A layer begins at the rims alone. -/
theorem State.beginLayer_frame (s : State) (x : Partition) (q : Pattern) (l : Nat) :
    s.beginLayer x q l = { s with rims := (s.beginLayer x q l).rims } := by
  have kept : ∀ (es : List (Nat × Nat)) (t : State) (g : State → Nat × Nat → Rim),
      es.foldl (fun t e => t.setRim e.1 (g t e)) t = { t with rims := (es.foldl (fun t e => t.setRim e.1 (g t e)) t).rims } := by
    intro es
    induction es with
    | nil => exact fun _ _ => rfl
    | cons e es ih => intro t g; rw [List.foldl_cons, ih]; rfl
  exact kept _ s _

/-- Blocks or phases meet at the boundary between the last round and the one at entry `e` (R208). -/
def Partition.meetsBoundary (x : Partition) (q : Pattern) (e : Nat) : Bool :=
  decide (0 < x.run.rounds) && !x.run.restartAt.isSome &&
    ((q.layerOf x.run.entry).block != (q.layerOf e).block || (q.layerOf x.run.entry).phase != (q.layerOf e).phase)

theorem Partition.meetsBoundary_iff (x : Partition) (q : Pattern) (e : Nat) : x.meetsBoundary q e = true ↔
    0 < x.run.rounds ∧ x.run.restartAt = none ∧
      ((q.layerOf x.run.entry).block ≠ (q.layerOf e).block ∨ (q.layerOf x.run.entry).phase ≠ (q.layerOf e).phase) := by
  simp only [meetsBoundary, Bool.and_eq_true, Bool.or_eq_true, decide_eq_true_eq, bne_iff_ne, Bool.not_eq_true', Option.isSome_eq_false_iff,
    Option.isNone_iff_eq_none, and_assoc]

/-- What lets ROUND_START begin a round: an admitted round that nothing holds, at the end of the one before it. -/
structure StartsRound (s : State) (p : PartId) (x : Partition) (c : Nat) (v : Context) (q : Pattern) (e n : Nat) (newStep : Bool) :
    Prop where
  found : s.partition? p = some x
  running : x.running? = some (c, v)
  pattern : v.pattern = some q
  next : x.nextRound v q = some (e, n, newStep)
  admitted : x.run.admitted = true
  thawed : s.frozen p = false
  free : x.run.holds = []
  ended : x.run.phase ≠ .round ∨ q.length x.run.entry ≤ x.run.beat ∧ newStep = false
  aligned : s.inTransitGroup p = true → s.transitBeat % 64 = 0

section
variable {s : State} {p : PartId} {x : Partition} {c : Nat} {v : Context} {q : Pattern} {e n : Nat} {newStep : Bool}

/-- The branch of ROUND_START that a round which may start takes. -/
theorem StartsRound.exec_eq (h : StartsRound s p x c v q e n newStep) : ∃ step layer, exec (.roundStart p) s =
    if x.meetsBoundary q e = true ∧ ¬ (List.range x.size).all (fun d => (x.die d).phaseClear) = true then
      .next (s.softFault p .faultPhase (((List.range x.size).find? (fun d => !(x.die d).phaseClear)).getD 0))
    else
      .next (match layer with
        | some l => (s.setPartition p (x.roundBegun q e n step layer)).beginLayer (x.roundBegun q e n step layer) q l
        | none => s.setPartition p (x.roundBegun q e n step layer)) := by
  obtain ⟨found, running, pattern, next, admitted, thawed, free, ended, aligned⟩ := h
  have goes : ¬ (¬ x.run.admitted = true ∨ s.frozen p = true ∨ ¬ x.run.holds.isEmpty = true ∨
      ¬ (x.run.phase != .round || decide (q.length x.run.entry ≤ x.run.beat)) = true ∨
      (x.run.phase = .round ∧ newStep = true) ∨ (s.inTransitGroup p = true ∧ s.transitBeat % 64 ≠ 0)) := by
    simp only [admitted, thawed, free]
    grind
  have exec_def : exec (.roundStart p) s = execRoundStart p s := rfl
  rw [exec_def, execRoundStart, found]
  dsimp only
  rw [running]
  dsimp only
  rw [pattern]
  dsimp only
  rw [next]
  dsimp only
  rw [if_neg goes]
  refine ⟨if newStep = true ∧ ¬ x.run.restartAt.isSome = true then some v.step else none,
    if newStep = true ∨ x.run.restartAt.isSome = true ∨ (q.layerOf x.run.entry).layer ≠ (q.layerOf e).layer
      then some (q.layerOf e).layer else none, if_congr Iff.rfl rfl ?_⟩
  generalize (if newStep = true ∨ x.run.restartAt.isSome = true ∨ (q.layerOf x.run.entry).layer ≠ (q.layerOf e).layer
    then some (q.layerOf e).layer else none) = layer
  cases layer <;> rfl

/-- ROUND_START of a round at whose boundary, if it meets one, no work is open. -/
theorem StartsRound.exec_begins (h : StartsRound s p x c v q e n newStep)
    (clear : x.meetsBoundary q e = true → ∀ d, d < x.size → (x.die d).phaseClear = true) : ∃ (step layer : Option Nat) (t : State),
      exec (.roundStart p) s = .next t ∧ t = { s.setPartition p (x.roundBegun q e n step layer) with rims := t.rims } := by
  have unbarred : ¬ (x.meetsBoundary q e = true ∧ ¬ (List.range x.size).all (fun d => (x.die d).phaseClear) = true) := by
    rintro ⟨meets, open_⟩
    exact open_ (List.all_eq_true.2 fun d hd => clear meets d (List.mem_range.1 hd))
  obtain ⟨step, layer, runs⟩ := h.exec_eq
  refine ⟨step, layer, _, runs.trans (if_neg unbarred), ?_⟩
  split
  · exact State.beginLayer_frame _ _ _ _
  · rfl

/-- ROUND_START at a boundary at which die `d`, and none before it, has work open. -/
theorem StartsRound.exec_phaseFault (h : StartsRound s p x c v q e n newStep) (meets : x.meetsBoundary q e = true) {d : Nat}
    (inside : d < x.size) (busy : (x.die d).phaseClear = false) (lowest : ∀ o, o < d → (x.die o).phaseClear = true) :
    exec (.roundStart p) s = .next (s.softFault p .faultPhase d) := by
  have found : (List.range x.size).find? (fun d => !(x.die d).phaseClear) = some d :=
    find?_range_eq_some_of_first (p := fun d => (x.die d).phaseClear = false) (by simp) inside busy (by simpa using lowest)
  have barred : x.meetsBoundary q e = true ∧ ¬ (List.range x.size).all (fun d => (x.die d).phaseClear) = true :=
    ⟨meets, fun all => by simpa [busy] using List.all_eq_true.1 all d (List.mem_range.2 inside)⟩
  obtain ⟨step, layer, runs⟩ := h.exec_eq
  rw [runs, if_pos barred, found]
  rfl

end

/-- Settles O16: a boundary with work open is the fault of its lowest such die, and any other start writes only the partition and the
rims. -/
theorem roundsStart : Obligations.RoundsStart := by
  unfold Obligations.RoundsStart
  intro s p x c v q e n newStep found running pattern next admitted thawed free ended aligned boundary
  have h : StartsRound s p x c v q e n newStep := ⟨found, running, pattern, next, admitted, thawed, free, ended, aligned⟩
  refine ⟨fun clear => ?_, fun meets d inside busy lowest => ?_⟩
  · obtain ⟨step, layer, t, runs, same⟩ := h.exec_begins fun meets => clear ((x.meetsBoundary_iff q e).1 meets)
    obtain ⟨m, run⟩ := x.roundBegun_run q e n step layer
    obtain ⟨contexts, credit, -⟩ := x.roundBegun_frame q e n step layer
    have others : ∀ r, t.partition? r = (s.setPartition p (x.roundBegun q e n step layer)).partition? r :=
      fun r => (congrArg (State.partition? · r) same :)
    refine ⟨t, x.roundBegun q e n step layer, runs, by simp [others], ?_⟩
    rw [run]
    refine ⟨rfl, rfl, rfl, rfl, rfl, rfl, contexts, credit, fun d inside => ?_, fun r other => by simp [others, other], ?_, ?_⟩
    · have stand := x.stand_roundBegun q e n step layer inside
      exact ⟨congrArg (·.1) stand, congrArg (·.2.1) stand, congrArg (·.2.2) stand⟩
    · exact (congrArg State.rings same :)
    · exact (congrArg State.wires same :)
  · exact h.exec_phaseFault ((x.meetsBoundary_iff q e).2 meets) inside busy lowest

end Sys2Proof.Machine
end

section
/-! PROOFS. Round admission and the end of a step (spec/06_fabric_and_patterns.md R166, R196, R200, spec/13_flauri_commands.md R387,
R405, spec/14_power_and_energy.md R427). -/

namespace Sys2Proof.Machine

/-! ### Round admission (R200, R427) -/

theorem Partition.running?_eq_some_iff (x : Partition) (c : Nat) (v : Context) :
    x.running? = some (c, v) ↔ x.running = some c ∧ x.context? c = some v := by
  unfold running?
  split
  next none => simp [none]
  next k found =>
    rw [found, Option.map_eq_some_iff, Option.some.injEq]
    constructor
    · rintro ⟨w, at_, same⟩; cases same; exact ⟨rfl, at_⟩
    · rintro ⟨rfl, at_⟩; exact ⟨v, at_, rfl⟩

section
variable {s : State} {p : PartId} {x : Partition} {c : Nat} {v : Context} {q : Pattern} {e n : Nat} {newStep : Bool}

theorem State.reserveEntry_of_unwanted (found : s.partition? p = some x) (running : x.running? = some (c, v))
    (unwanted : x.wantsEntry v newStep = false) : s.reserveEntry p c newStep = some s := by
  have at_ : x.context? c = some v := ((x.running?_eq_some_iff c v).1 running).2
  simp [reserveEntry, found, at_, unwanted]

theorem State.admits_iff (s : State) (x : Partition) (need : Nat) : s.admits x need = true ↔
    ((need * creditUnit : Nat) : Int) ≤ x.credit ∧ x.hot = false ∧ s.inputGuard = false := by
  simp only [admits, Bool.and_eq_true, decide_eq_true_eq, Bool.not_eq_true', and_assoc]

/-- A round that is near, may yet be admitted, and follows another. -/
structure AwaitsAdmission (s : State) (p : PartId) (x : Partition) (c : Nat) (v : Context) (q : Pattern) (e n : Nat) (newStep : Bool) :
    Prop where
  found : s.partition? p = some x
  running : x.running? = some (c, v)
  pattern : v.pattern = some q
  next : x.nextRound v q = some (e, n, newStep)
  stays : x.teardown = false
  open_ : x.run.admitted = false
  unheld : x.run.holds.contains .credit = false
  near : x.run.phase ≠ .round ∨ q.length x.run.entry ≤ x.run.beat + 24
  answered : x.response.due = false
  restored : x.response.restoring = false

theorem AwaitsAdmission.exec_eq (h : AwaitsAdmission s p x c v q e n newStep) : exec (.roundAdmission p) s =
    match s.reserveEntry p c newStep with
    | none => .next (s.holdFor p (s.otherHolds p x v q newStep ++ [.ringFull, .credit]))
    | some t =>
      if (s.otherHolds p x v q newStep).isEmpty ∧ s.admits x (s.need q (q.table e)) then .next (t.admitRound p (s.need q (q.table e)))
      else .next (t.holdFor p (s.otherHolds p x v q newStep ++ [.credit])) := by
  obtain ⟨found, running, pattern, next, stays, open_, unheld, near, answered, restored⟩ := h
  have goes : ¬ (x.teardown = true ∨ x.run.admitted = true ∨ x.run.holds.contains .credit = true ∨
      ¬ (x.run.phase != .round || decide (q.length x.run.entry ≤ x.run.beat + 24)) = true ∨ x.response.due = true ∨
      x.response.restoring = true) := by
    simp only [stays, open_, unheld, answered, restored]
    simpa [imp_iff_not_or] using near
  change execRoundAdmission p s = _
  rw [execRoundAdmission, found]
  dsimp only
  rw [running]
  dsimp only
  rw [pattern]
  dsimp only
  rw [if_neg goes, next] <;> rfl

/-- A held round that nothing else holds, whose admission would be aligned (R196, R200). -/
structure HeldForCredit (s : State) (p : PartId) (x : Partition) (c : Nat) (v : Context) (q : Pattern) (e n : Nat) (newStep : Bool) :
    Prop where
  found : s.partition? p = some x
  running : x.running? = some (c, v)
  pattern : v.pattern = some q
  next : x.nextRound v q = some (e, n, newStep)
  held : x.run.holds.contains .credit = true
  only : ∀ h ∈ x.run.holds, h = .credit ∨ h = .ringFull
  aligned : s.inTransitGroup p = true → (s.transitBeat + 24 + s.reEntryBeats p) % 64 = 0

theorem HeldForCredit.exec_admits (h : HeldForCredit s p x c v q e n newStep) {t : State} (reserved : s.reserveEntry p c newStep = some t)
    (passes : s.admits x (s.need q (q.table e)) = true) : exec (.heldRoundAdmit p) s =
      .next (((t.admitRound p (s.need q (q.table e))).releaseRound p .ringFull).releaseRound p .credit) := by
  obtain ⟨found, running, pattern, next, held, only, aligned⟩ := h
  have goes : ¬ (¬ x.run.holds.contains .credit = true ∨ x.run.holds.any (fun h => h != .credit && h != .ringFull) = true ∨
      (s.inTransitGroup p = true ∧ (s.transitBeat + 24 + s.reEntryBeats p) % 64 ≠ 0)) := by
    rintro (unheld | other | ⟨grouped, unaligned⟩)
    · exact unheld held
    · obtain ⟨r, listed, bad⟩ := List.any_eq_true.1 other
      rcases only r listed with rfl | rfl <;> exact absurd bad (by decide)
    · exact unaligned (aligned grouped)
  change execHeldRoundAdmit p s = _
  rw [execHeldRoundAdmit, found]
  dsimp only
  rw [running]
  dsimp only
  rw [pattern]
  dsimp only
  rw [if_neg goes, next]
  dsimp only
  rw [reserved]
  exact if_pos passes

end

/-- Settles O17: the entry a step reserves, the credit that admission takes, and the test at the boundary and in the hold. -/
theorem roundsAreAdmitted : Obligations.RoundsAreAdmitted := by
  unfold Obligations.RoundsAreAdmitted
  intro s p x c v q e n newStep found running pattern next need others passes more
  have test : s.admits x need = true ↔ passes := s.admits_iff x need
  refine ⟨State.reserveEntry_of_unwanted found running, fun t y at_ => ?_, ?_, ?_⟩
  · simp only [State.admitRound, at_, Partition.admitRound]
  · intro stays open_ unheld near answered restored
    have h : AwaitsAdmission s p x c v q e n newStep :=
      ⟨found, running, pattern, next, stays, open_, unheld, near, answered, restored⟩
    refine ⟨fun t reserved alone pass => ?_, fun t reserved stops => ?_, fun none => ?_⟩
    · rw [h.exec_eq, reserved]
      exact if_pos ⟨List.isEmpty_iff.2 alone, test.2 pass⟩
    · rw [h.exec_eq, reserved]
      exact if_neg fun ⟨alone, pass⟩ => stops ⟨List.isEmpty_iff.1 alone, test.1 pass⟩
    · rw [h.exec_eq, none]
  · intro held only aligned t reserved pass
    have h : HeldForCredit s p x c v q e n newStep := ⟨found, running, pattern, next, held, only, aligned⟩
    exact h.exec_admits reserved (test.2 pass)

/-! ### The end of a step (R166, R244, R405) -/

/-- Settles O18: the one branch of STEP_END that its conditions leave. -/
theorem stepsEnd : Obligations.StepsEnd := by
  unfold Obligations.StepsEnd
  intro s p x c v q cmd found running pattern steps lastRound over_ answered restored strands last words y
  have goes : ¬ (¬ x.lastRound q = true ∨ x.run.beat < q.length x.run.entry ∨ x.response.due = true ∨ x.response.restoring = true ∨
      (x.sitsOut = true ∧ q.strands ≤ x.response.sitOut.length)) := by
    simp only [lastRound, answered, restored]
    grind
  change execStepEnd p s = _
  rw [execStepEnd, found]
  dsimp only
  rw [running]
  dsimp only
  split
  next _ _ pattern' steps' =>
    cases pattern.symm.trans pattern'
    cases steps.symm.trans steps'
    exact if_neg goes
  next absent => exact (absent q cmd pattern steps).elim

end Sys2Proof.Machine
end

section
/-! PROOFS. The response to detected errors, the ledger and the belay line (spec/05_scratchpads.md R139–R143,
spec/06_fabric_and_patterns.md R194–R201, spec/08_splice_reduction.md R246, spec/14_power_and_energy.md R429, R430). -/

namespace Sys2Proof.Machine

/-! ### What touches the wires alone -/

/-- `t` is `s` but for the belay wires. -/
def State.WiresOnly (s t : State) : Prop := t = { s with wires := t.wires }

theorem State.WiresOnly.refl (s : State) : s.WiresOnly s := rfl

theorem State.WiresOnly.trans {s t u : State} (h : s.WiresOnly t) (g : t.WiresOnly u) : s.WiresOnly u := by
  rw [WiresOnly, g, h]

theorem State.WiresOnly.partition? {s t : State} (h : s.WiresOnly t) (p : Nat) : t.partition? p = s.partition? p :=
  (congrArg (State.partition? · p) h :)

theorem State.WiresOnly.foldl {α : Type} {f : State → α → State} (step : ∀ t a, State.WiresOnly t (f t a)) (l : List α) (s : State) :
    s.WiresOnly (l.foldl f s) := by
  induction l generalizing s with
  | nil => exact .refl s
  | cons a l ih => exact (step s a).trans (ih _)

theorem State.wiresOnly_raise (s : State) (w : Nat) (src : Source) : s.WiresOnly (s.raise w src) := by
  unfold raise
  dsimp only
  split <;> rfl

theorem State.wiresOnly_drop (s : State) (w : Nat) (src : Source) : s.WiresOnly (s.drop w src) := by
  unfold drop
  split <;> rfl

theorem State.wiresOnly_dropBoth (s : State) (p : Nat) (src : Source) : s.WiresOnly (s.dropBoth p src) :=
  (s.wiresOnly_drop p src).trans (State.wiresOnly_drop _ 16 src)

theorem State.wiresOnly_dropAll (s : State) (p : Nat) (x : Partition) : s.WiresOnly (s.dropAll p x) :=
  (WiresOnly.foldl (fun t src => t.wiresOnly_drop p src) _ s).trans (WiresOnly.foldl (fun t src => t.wiresOnly_drop 16 src) _ _)

/-! ### The persistent regions of a restored die leave the course of the partition (R140) -/

/-- Partition `p` is there, with this run and this response to detected errors. -/
def State.InCourse (s : State) (p : Nat) (r : Run) (a : Response) : Prop :=
  ∃ y, s.partition? p = some y ∧ y.run = r ∧ y.response = a

section
variable {s : State} {p : Nat} {r : Run} {a : Response}

theorem Partition.count_frame (x : Partition) (c i n : Nat) :
    x.count c i n = { x with counters := addCounter x.counters i n, contexts := (x.count c i n).contexts } := by
  unfold count
  dsimp only
  split <;> rfl

theorem State.InCourse.spanUnit (h : s.InCourse p r a) (c i u : Nat) : (s.spanUnit p c i u).2.InCourse p r a := by
  obtain ⟨y, found, run, response⟩ := h
  have same : s.InCourse p r a := ⟨y, found, run, response⟩
  rw [State.spanUnit, found]
  dsimp only
  split
  · exact same
  · split
    · exact same
    · split
      · exact same
      · refine ⟨_, (partition?_setPartition ..).trans (if_pos rfl), ?_, ?_⟩
        · rw [Partition.count_frame, ← run]
        · rw [Partition.count_frame, ← response]

theorem State.InCourse.spanBytes (h : s.InCourse p r a) (c at_ n : Nat) : (s.spanBytes p c at_ n).2.InCourse p r a := by
  have kept : ∀ (m : Nat), (foldRange m (([] : List Byte), s) (fun acc i =>
      (acc.1 ++ (acc.2.spanUnit p c ((at_ / 64 + i) / stackUnits) ((at_ / 64 + i) % stackUnits)).1,
        (acc.2.spanUnit p c ((at_ / 64 + i) / stackUnits) ((at_ / 64 + i) % stackUnits)).2))).2.InCourse p r a := by
    intro m
    induction m with
    | zero => exact h
    | succ m ih => rw [foldRange_succ]; exact ih.spanUnit c _ _
  exact kept _

theorem State.InCourse.restoreRegions (h : s.InCourse p r a) (c d : Nat) (q : Pattern) :
    (s.restoreRegions p c d q).InCourse p r a := by
  unfold State.restoreRegions
  generalize (q.die d).regions.filter (fun g => g.kind == 1) = regions
  induction regions generalizing s with
  | nil => exact h
  | cons g regions ih =>
    rw [List.foldl_cons]
    refine ih ?_
    obtain ⟨y, found, run, response⟩ := h.spanBytes c g.src (64 * (g.limit + 1 - g.base))
    dsimp only
    rw [found]
    exact ⟨_, (partition?_setPartition ..).trans (if_pos rfl), run, response⟩

theorem State.InCourse.restoreDies (h : s.InCourse p r a) (c : Nat) (q : Pattern) (dies : List Nat) :
    (dies.foldl (fun t d => t.restoreRegions p c d q) s).InCourse p r a := by
  induction dies generalizing s with
  | nil => exact h
  | cons d dies ih => exact ih (h.restoreRegions c d q)

end

/-! ### Write staging with nothing received (R212) -/

theorem foldRange_fixed {α : Type} {f : α → Nat → α} {a : α} (fixed : ∀ i, f a i = a) (n : Nat) : foldRange n a f = a :=
  List.foldl_fixed' fixed _

theorem State.commitEngine_of_none {s : State} {k n : Nat}
    (none : (Sparse.getD Engine.idle (s.rim k).ctx.engines n).received = []) : s.commitEngine k n = s := by
  refine foldRange_fixed (fun _ => ?_) _
  exact if_pos (List.isEmpty_iff.2 none)

theorem State.commitRims_of_none {s : State} {x : Partition}
    (none : ∀ k ∈ x.stackRims, ∀ n, (Sparse.getD Engine.idle (s.rim k).ctx.engines n).received = []) : s.commitRims x = s := by
  unfold commitRims
  generalize x.stackRims = rims at none
  induction rims with
  | nil => rfl
  | cons k rims ih =>
    obtain ⟨here, rest⟩ := List.forall_mem_cons.1 none
    have same : foldRange 8 s (fun t n => t.commitEngine k n) = s := foldRange_fixed (fun n => commitEngine_of_none (here n)) 8
    rw [List.foldl_cons, same]
    exact ih rest

/-! ### The answers to a detected error -/

section
variable {s : State} {p : PartId} {x : Partition} {c : Nat} {v : Context} {q : Pattern}

theorem exec_errorResponseDecision_due (found : s.partition? p = some x) (due : x.response.due = true) (frozen : s.frozen p = true) :
    exec (.errorResponseDecision p) s = .next (
      if x.sitsOut then
        (s.setPartition p (Partition.sitOutStrands { x with response := { x.response with due := false } })).dropWhere p
          (Source.isDetection p)
      else ((s.setPartition p { x with response := { x.response with due := false, restoring := true } }).raise
        (s.wireOf p) (.restoreHold p)).dropWhere p (Source.isDetection p)) := by
  change execErrorResponseDecision p s = _
  rw [execErrorResponseDecision, found]
  dsimp only
  rw [if_neg (by simp [due, frozen])]
  split <;> rfl

theorem exec_restoreHoldRelease_waits (found : s.partition? p = some x) (running : x.running? = some (c, v))
    (pattern : v.pattern = some q) (waits : s.commitWaits x = true) : exec (.restoreHoldRelease p) s = .next s := by
  change execRestoreHoldRelease p s = _
  rw [execRestoreHoldRelease, found]
  dsimp only
  rw [running]
  dsimp only
  rw [pattern]
  exact if_pos (Or.inr waits)

/-- RESTORE_HOLD_RELEASE once nothing waits: the partition, whose stopped dies have their persistent regions again, stands at its
restart point or, between steps, goes on. -/
theorem exec_restoreHoldRelease_goes (found : s.partition? p = some x) (running : x.running? = some (c, v))
    (pattern : v.pattern = some q) (restoring : x.response.restoring = true) (free : s.commitWaits x = false) {t : State}
    (restored : ((List.range x.size).filter (fun d => (x.die d).stopped)).foldl (fun t d => t.restoreRegions p c d q) (s.commitRims x) = t)
    {y : Partition} (found' : t.partition? p = some y) : exec (.restoreHoldRelease p) s =
      if y.run.phase = .round then .next (((t.setPartition p (y.atRestart q)).restartRims y).dropAll p y)
      else .next ((t.setPartition p y.resumed).dropBoth p (.restoreHold p)) := by
  change execRestoreHoldRelease p s = _
  rw [execRestoreHoldRelease, found]
  dsimp only
  rw [running]
  dsimp only
  rw [pattern]
  dsimp only
  rw [if_neg (by simp [restoring, free]), restored, found']

/-- The rims at a restart point change, and nothing else. -/
theorem State.restartRims_frame (s : State) (x : Partition) : s.restartRims x = { s with rims := (s.restartRims x).rims } := by
  unfold restartRims
  generalize x.stackRims = rims
  induction rims generalizing s with
  | nil => rfl
  | cons k rims ih => rw [List.foldl_cons, ih]; rfl

/-- RESYNC of a partition whose step has ended: where every strand sat out the job ends. -/
theorem exec_resync_exhausted (found : s.partition? p = some x) (running : x.running? = some (c, v)) (pattern : v.pattern = some q)
    (ended : x.run.phase ≠ .round ∨ x.lastRound q = true ∧ q.length x.run.entry ≤ x.run.beat) (out : x.response.resync ≠ [])
    (all : ∀ g, g < q.strands → x.response.resync.contains g = true) :
    exec (.resync p) s = .next (s.softFault p .strandsExhausted (Config.faultDetail 0).toNat) := by
  have none : (List.range q.strands).find? (fun g => !x.response.resync.contains g) = none :=
    find?_range_eq_none_of_none (p := fun g => x.response.resync.contains g = false) (by simp) (by simpa using all)
  change execResync p s = _
  rw [execResync, found]
  dsimp only
  rw [running]
  dsimp only
  rw [pattern]
  dsimp only
  rw [if_neg (by simpa [imp_iff_not_or] using ⟨out, ended⟩), none]

end

/-- The state and the dies after a resync with another strand: the partition is there, and no strand waits. -/
theorem exec_resync_repairs {s : State} {p : PartId} {x : Partition} {c : Nat} {v : Context} {q : Pattern}
    (found : s.partition? p = some x) (running : x.running? = some (c, v)) (pattern : v.pattern = some q)
    (ended : x.run.phase ≠ .round ∨ x.lastRound q = true ∧ q.length x.run.entry ≤ x.run.beat) (out : x.response.resync ≠ [])
    {g : Nat} (inside : g < q.strands) (good : x.response.resync.contains g = false) :
    ∃ (t : State) (y : Partition), exec (.resync p) s = .next ((t.setPartition p y).releaseRound p .resync) ∧
      y.response.resync = [] := by
  obtain ⟨o, some_⟩ : ∃ o, (List.range q.strands).find? (fun g => !x.response.resync.contains g) = some o :=
    Option.isSome_iff_exists.1 (List.find?_isSome.2 ⟨g, List.mem_range.2 inside, by simp only [good, Bool.not_false]⟩)
  obtain ⟨y, found', -, -⟩ := (show s.InCourse p x.run x.response from ⟨x, found, rfl, rfl⟩).restoreDies c q
    ((List.range x.size).filter (fun d => (x.die d).stopped))
  have exec_def : exec (.resync p) s = execResync p s := rfl
  rw [exec_def, execResync, found]
  dsimp only
  rw [running]
  dsimp only
  rw [pattern]
  dsimp only
  rw [if_neg (by simpa [imp_iff_not_or] using ⟨out, ended⟩), some_]
  dsimp only
  rw [found']
  exact ⟨_, _, rfl, rfl⟩

/-- Settles O19: the decision, the restore hold by whether a rim waits and by where the partition stands, and the resync by whether a
strand is left. -/
theorem detectedErrorsAreAnswered : Obligations.DetectedErrorsAreAnswered := by
  unfold Obligations.DetectedErrorsAreAnswered
  intro s p x found
  refine ⟨exec_errorResponseDecision_due found, fun c v q running pattern => ⟨?_, ?_, ?_⟩⟩
  · exact fun _ waits => exec_restoreHoldRelease_waits found running pattern waits
  · intro restoring none free
    have inCourse : (s.commitRims x).InCourse p x.run x.response := ⟨x, by rw [State.commitRims_of_none none, found], rfl, rfl⟩
    obtain ⟨y, found', run, response⟩ := inCourse.restoreDies c q ((List.range x.size).filter (fun d => (x.die d).stopped))
    have goes := exec_restoreHoldRelease_goes found running pattern restoring free rfl found'
    by_cases round : y.run.phase = .round
    · refine ⟨_, y.atRestart q, goes.trans (if_pos round), ?_, rfl, rfl, fun _ => ⟨rfl, rfl, rfl, rfl, ?_, ?_⟩, ?_⟩
      · rw [(State.wiresOnly_dropAll _ _ _).partition? p, State.restartRims_frame]
        exact (State.partition?_setPartition ..).trans (if_pos rfl)
      · rw [Partition.atRestart, Partition.restartEntry, run, response]
        rfl
      · rw [← response]
        exact congrArg (fun z => z.response.reruns + 1) (y.mapDies_frame _)
      · exact fun other => absurd (run ▸ round) other
    · refine ⟨_, y.resumed, goes.trans (if_neg round), ?_, rfl, rfl, ?_, ?_⟩
      · rw [(State.wiresOnly_dropBoth _ _ _).partition? p]
        exact (State.partition?_setPartition ..).trans (if_pos rfl)
      · exact fun same => absurd (run ▸ same) round
      · exact fun _ => (congrArg Partition.run (y.mapDies_frame _)).trans run
  · intro ended out
    refine ⟨exec_resync_exhausted found running pattern ended out, ?_⟩
    rintro ⟨g, inside, good⟩
    obtain ⟨t, y, runs, none⟩ := exec_resync_repairs found running pattern ended out inside good
    refine ⟨_, { y with run := { y.run with holds := y.run.holds.filter (· != .resync) } }, runs, ?_, none⟩
    rw [State.releaseRound_partition?, State.partition?_setPartition, if_pos rfl, if_pos rfl]
    rfl

/-! ### The ledger (R379, R429, R430) -/

theorem Partition.countRunning_frame (x : Partition) (i n : Nat) :
    x.countRunning i n = { x with counters := addCounter x.counters i n, contexts := (x.countRunning i n).contexts } := by
  unfold countRunning
  split
  · rfl
  · exact x.count_frame _ i n

theorem Partition.charge_frame (x : Partition) (uj : Nat) (context : Bool) : x.charge uj context = { x with
    credit := x.credit - ((uj * creditUnit : Nat) : Int), counters := addCounter x.counters energyUj uj,
    contexts := (x.charge uj context).contexts } := by
  unfold charge
  dsimp only
  split
  · split
    · split
      · rw [Partition.countRunning_frame]; rfl
      · rw [Partition.countRunning_frame]
    · rw [Partition.countRunning_frame]
  · rfl

theorem getD_addCounter (m : SMap Nat) (i n : Nat) : Sparse.getD 0 (addCounter m i n) i = (Sparse.getD 0 m i + n) % 2 ^ 64 := by
  rw [addCounter, Sparse.getD_setD, if_pos rfl]

/-- What `uj` µJ charged to `x` leave: the credit and the partition's energy counter have them, and the rest that the ledger does not
touch stands. -/
structure Partition.Charged (x y : Partition) (uj : Nat) : Prop where
  credit : y.credit = x.credit - ((uj * creditUnit : Nat) : Int)
  energy : Sparse.getD 0 y.counters energyUj % 2 ^ 64 = (Sparse.getD 0 x.counters energyUj + uj) % 2 ^ 64
  run : y.run = x.run
  measSum : y.measSum = x.measSum
  dies : y.dies = x.dies

theorem Partition.Charged.zero (x : Partition) : x.Charged x 0 :=
  ⟨by simp, rfl, rfl, rfl, rfl⟩

theorem Partition.Charged.trans {x y z : Partition} {a b : Nat} (h : x.Charged y a) (g : y.Charged z b) : x.Charged z (a + b) where
  credit := by rw [g.credit, h.credit]; push_cast; ring
  energy := by rw [g.energy, Nat.add_mod, h.energy, ← Nat.add_mod, Nat.add_assoc]
  run := g.run.trans h.run
  measSum := g.measSum.trans h.measSum
  dies := g.dies.trans h.dies

theorem Partition.charged_charge (x : Partition) (uj : Nat) (context : Bool) : x.Charged (x.charge uj context) uj := by
  rw [charge_frame]
  exact ⟨rfl, by rw [getD_addCounter, Nat.mod_mod], rfl, rfl, rfl⟩

theorem Partition.charged_count (x : Partition) (c uj : Nat) :
    x.Charged (Partition.count { x with credit := x.credit - ((uj * creditUnit : Nat) : Int) } c energyUj uj) uj := by
  rw [count_frame]
  exact ⟨rfl, by rw [getD_addCounter, Nat.mod_mod], rfl, rfl, rfl⟩

/-- One save or restore not yet charged takes up to its nominal energy of what is left (log entry 117). -/
def chargeSwitch (acc : Partition × Nat) (e : Nat × Nat) : Partition × Nat :=
  let n := min e.2 acc.2
  (({ acc.1 with credit := acc.1.credit - (n * creditUnit : Nat) } : Partition).count e.1 energyUj n, acc.2 - n)

theorem charged_foldl_chargeSwitch (l : List (Nat × Nat)) : ∀ (x y : Partition) (uj left : Nat), left ≤ uj → x.Charged y (uj - left) →
    (l.foldl chargeSwitch (y, left)).2 ≤ uj ∧
      x.Charged (l.foldl chargeSwitch (y, left)).1 (uj - (l.foldl chargeSwitch (y, left)).2) := by
  induction l with
  | nil => exact fun x y uj left within charged => ⟨within, charged⟩
  | cons e l ih =>
    intro x y uj left within charged
    refine ih x _ uj _ (by omega) ?_
    have more := charged.trans (y.charged_count e.1 (min e.2 left))
    rwa [show uj - left + min e.2 left = uj - (left - min e.2 left) by omega] at more

theorem Partition.charged_chargeOutside (x : Partition) (uj : Nat) (context : Bool) : x.Charged (x.chargeOutside uj context) uj := by
  obtain ⟨within, charged⟩ := charged_foldl_chargeSwitch x.switchCost x x uj uj (Nat.le_refl uj) (by rw [Nat.sub_self]; exact .zero x)
  obtain ⟨credit, energy, run, measSum, dies⟩ := charged
  have emptied : x.Charged { (x.switchCost.foldl chargeSwitch (x, uj)).1 with switchCost := [] }
      (uj - (x.switchCost.foldl chargeSwitch (x, uj)).2) := ⟨credit, energy, run, measSum, dies⟩
  have all := emptied.trans (Partition.charged_charge _ (x.switchCost.foldl chargeSwitch (x, uj)).2 context)
  rw [Nat.sub_add_cancel within] at all
  exact all

section
variable {s : State} {p : PartId} {x : Partition}

theorem exec_reconciliation_ended (found : s.partition? p = some x) {need : Nat} {rest : List Nat}
    (waiting : x.run.unreconciled = need :: rest) (ended : 0 < x.endedRounds) (uj : Nat) : exec (.reconciliation p uj) s =
      .next (s.setPartition p (Partition.charge { x with
        credit := x.credit + ((need * creditUnit : Nat) : Int), measSum := x.measSum + uj, run := { x.run with unreconciled := rest } }
        uj true)) := by
  change execReconciliation p uj s = _
  rw [execReconciliation, found]
  dsimp only
  rw [waiting]
  exact if_pos ended

theorem exec_reconciliation_outside (found : s.partition? p = some x) (none : x.endedRounds = 0) (uj : Nat) :
    exec (.reconciliation p uj) s = .next (s.setPartition p (x.chargeOutside uj (decide (x.run.phase ≠ .idle)))) := by
  change execReconciliation p uj s = _
  rw [execReconciliation, found]
  dsimp only
  split
  · exact if_neg (by omega)
  · rfl

end

/-- Settles O20: the window by its branch, an ended round and energy outside rounds by what charging leaves. -/
theorem ledgerCounts : Obligations.LedgerCounts := by
  unfold Obligations.LedgerCounts
  refine ⟨fun s mean vin overhead good => if_neg (not_not.2 good), fun s p uj x found => ⟨fun need rest waiting ended => ?_, fun none => ?_⟩⟩
  · refine ⟨_, _, exec_reconciliation_ended found waiting ended uj, (State.partition?_setPartition ..).trans (if_pos rfl), ?_⟩
    rw [Partition.charge_frame]
    exact ⟨rfl, rfl, rfl, getD_addCounter .., rfl⟩
  · obtain ⟨credit, energy, run, measSum, dies⟩ := x.charged_chargeOutside uj (decide (x.run.phase ≠ .idle))
    exact ⟨_, _, exec_reconciliation_outside found none uj, (State.partition?_setPartition ..).trans (if_pos rfl),
      credit, run, measSum, energy, dies⟩

/-! ### The belay line (R194–R201) -/

/-- Reading after every listed value changed, when the change keeps the value that absent keys have. -/
theorem Sparse.getD_mapVals {α : Type} (f : Nat → α → α) {d : α} (keeps : ∀ k, f k d = d) (m : SMap α) (k : Nat) :
    Sparse.getD d (Sparse.mapVals f m) k = f k (Sparse.getD d m k) := by
  induction m with
  | nil => exact (keeps k).symm
  | cons e m ih =>
    by_cases same : e.1 = k
    · subst same; simp [Sparse.getD, Sparse.get?, Sparse.mapVals]
    · simpa [Sparse.getD, Sparse.get?, Sparse.mapVals, same] using ih

/-- A die in the first frozen beat: each M-tile's level is its held level (R196). -/
def Die.holdLevels (d : Die) : Die := { d with m := Sparse.mapVals (fun _ t => { t with heldLevel := t.level }) d.m }

theorem Die.mtile_holdLevels (d : Die) (t : Nat) : d.holdLevels.mtile t = { d.mtile t with heldLevel := (d.mtile t).level } :=
  Sparse.getD_mapVals (fun _ (t : MTile) => { t with heldLevel := t.level }) (fun _ => rfl) d.m t

theorem Wires.hist_without (w : Wires) (src : Source) : (w.without src).hist = w.hist := by
  unfold without
  dsimp only
  split
  · split <;> rfl
  · rfl

theorem Wires.hist_foldl_without (l : List Source) (w : Wires) : (l.foldl (fun w y => w.without y) w).hist = w.hist := by
  induction l generalizing w with
  | nil => rfl
  | cons a l ih => rw [List.foldl_cons, ih, hist_without]

theorem Wires.hist_tick (w : Wires) : w.tick.hist = (w.hist <<< 1) ||| (if w.raised then 1 else 0) := by
  rw [tick, apply_ite Wires.hist]
  exact (ite_self _).trans (Wires.hist_foldl_without w.leaving _)

/-- Settles O21: freeze, resume, re-entry and the bound of R201 by their branches, and the history by its bits. -/
theorem belayLineActs : Obligations.BelayLineActs := by
  unfold Obligations.BelayLineActs
  refine ⟨⟨?_, ?_, ?_, ?_⟩, fun w => ⟨?_, fun i inside => ?_⟩⟩
  · intro s p x found thawed frozen
    refine ⟨{ x with run := { x.run with frozen := true, frozenBeats := 0 }, dies := Sparse.mapVals (fun _ d => d.holdLevels) x.dies },
      ?_, rfl, rfl, fun d t => ?_⟩
    · change execDomainFreeze p s = _
      rw [execDomainFreeze, found]
      exact if_neg (by simp [thawed, frozen])
    · rw [Partition.die, Sparse.getD_mapVals _ (fun _ => rfl)]
      exact Die.mtile_holdLevels _ t
  · intro s p x found frozen thawed
    change execDomainResume p s = _
    rw [execDomainResume, found]
    exact if_neg (by simp [thawed, frozen])
  · intro s w alone fresh
    exact if_pos ⟨alone, fresh⟩
  · intro s w since raised long nodes
    change execBelayTimeout w s = _
    rw [execBelayTimeout]
    dsimp only
    rw [raised]
    exact if_neg (Nat.not_le.2 long)
  · rw [Wires.hist_tick]
    cases w.raised <;> simp
  · rw [Wires.hist_tick]
    cases w.raised <;> simp [show i + 1 < 24 by omega, BitVec.getLsbD_eq_getElem (show i < 24 by omega)]

end Sys2Proof.Machine
end

section
/-! PROOFS. The fabric, termini and the tether network (spec/06_fabric_and_patterns.md R151–R163, R188–R193,
spec/08_splice_reduction.md R225–R242). -/

namespace Sys2Proof.Machine

/-! ### A flit that leaves a router (R149) -/

/-- `y` is `x` but for flits that have entered routers, crossings and rim edges. -/
structure Partition.Sent (x y : Partition) : Prop where
  run : y.run = x.run
  contexts : y.contexts = x.contexts
  slotDone (d : Nat) : (y.die d).slotDone = (x.die d).slotDone
  deliveries (d : Nat) : (y.die d).deliveries = (x.die d).deliveries
  queues (d : Nat) : (y.die d).queues = (x.die d).queues

theorem Partition.Sent.refl (x : Partition) : x.Sent x := ⟨rfl, rfl, fun _ => rfl, fun _ => rfl, fun _ => rfl⟩

theorem Partition.Sent.trans {x y z : Partition} (h : x.Sent y) (g : y.Sent z) : x.Sent z :=
  ⟨g.run.trans h.run, g.contexts.trans h.contexts, fun d => (g.slotDone d).trans (h.slotDone d),
    fun d => (g.deliveries d).trans (h.deliveries d), fun d => (g.queues d).trans (h.queues d)⟩

theorem Partition.sent_arrive (x : Partition) (d side beat : Nat) (f : Flit) : x.Sent (x.arrive d side beat f) := by
  refine ⟨rfl, rfl, fun e => ?_, fun e => ?_, fun e => ?_⟩ <;>
  · rw [Partition.arrive, Partition.die_setDie]
    split
    next same => rw [same]
    next => rfl

theorem State.sent_enter (x : Partition) (c r side beat residue : Nat) (f : Flit) :
    x.Sent (State.enter x c r side beat residue f) := by
  unfold State.enter
  split
  · exact x.sent_arrive _ side beat f
  · exact ⟨rfl, rfl, fun _ => rfl, fun _ => rfl, fun _ => rfl⟩

theorem State.sent_sendOn (s : State) (x : Partition) (c r o beat residue : Nat) (f : Flit) :
    x.Sent (s.sendOn x c r o beat residue f) := by
  unfold State.sendOn
  split
  · exact State.sent_enter x _ _ _ _ _ f
  · split
    · exact ⟨rfl, rfl, fun _ => rfl, fun _ => rfl, fun _ => rfl⟩
    · exact .refl x

theorem State.sent_leave (s : State) (x : Partition) (d o : Nat) (f : Flit) : x.Sent (s.leave x d o f) :=
  s.sent_sendOn x _ _ o _ _ f

/-! ### Slot entries (R155–R163) -/

/-- One output of a slot entry: the local one begins a delivery, another sends its flit on. -/
def State.slotOut (s : State) (x : Site) (word : Nat) (y : Partition) (e : Nat × Flit × Bool) : Partition :=
  if e.1 = 4 then
    let z := y.die x.d
    y.setDie x.d { z with deliveries := z.deliveries ++ [⟨x.part.run.clock + 3, slotLanding word, e.2.1⟩] }
  else s.leave y x.d e.1 e.2.1

theorem State.sent_slotOuts (s : State) (x : Site) (word : Nat) (outs : List (Nat × Flit × Bool)) (beyond : ∀ e ∈ outs, e.1 ≠ 4)
    (y : Partition) : y.Sent (outs.foldl (s.slotOut x word) y) := by
  induction outs generalizing y with
  | nil => exact .refl y
  | cons e outs ih =>
    obtain ⟨here, rest⟩ := List.forall_mem_cons.1 beyond
    refine .trans ?_ (ih rest _)
    rw [State.slotOut, if_neg here]
    exact s.sent_leave y x.d e.1 e.2.1

/-- The outputs of an entry that carry a flit. -/
def slotOutputs (output : Nat → Option (Flit × Bool)) : List (Nat × Flit × Bool) :=
  (List.range 5).filterMap (fun o => (output o).map (fun f => (o, f)))

theorem mem_slotOutputs {output : Nat → Option (Flit × Bool)} {e : Nat × Flit × Bool} :
    e ∈ slotOutputs output ↔ e.1 < 5 ∧ output e.1 = some e.2 := by
  obtain ⟨o, f⟩ := e
  simp only [slotOutputs, List.mem_filterMap, List.mem_range, Option.map_eq_some_iff, Prod.mk.injEq]
  constructor
  · rintro ⟨k, inside, g, found, rfl, rfl⟩; exact ⟨inside, found⟩
  · rintro ⟨inside, found⟩; exact ⟨o, inside, f, found, rfl, rfl⟩

/-- What the outputs leave of the partition: the local one's delivery, and flits on their way. -/
theorem State.foldl_slotOut (s : State) (x : Site) (word : Nat) (output : Nat → Option (Flit × Bool)) (y z : Partition)
    (sent : z = (slotOutputs output).foldl (s.slotOut x word) y) :
    z.run = y.run ∧ z.contexts = y.contexts ∧ (z.die x.d).slotDone = (y.die x.d).slotDone ∧
      (z.die x.d).queues = (y.die x.d).queues ∧ (z.die x.d).deliveries = (y.die x.d).deliveries ++ (match output 4 with
        | some (f, _) => [⟨x.part.run.clock + 3, slotLanding word, f⟩]
        | none => []) := by
  have parts : slotOutputs output = (List.range 4).filterMap (fun o => (output o).map (fun f => (o, f))) ++
      ((output 4).map (fun f => (4, f))).toList := by
    rw [slotOutputs, List.range_succ, List.filterMap_append]
    cases local_ : output 4 <;> simp [local_]
  have beyond : ∀ e ∈ (List.range 4).filterMap (fun o => (output o).map (fun f => (o, f))), e.1 ≠ 4 := by
    intro e he
    obtain ⟨o, inside, found⟩ := List.mem_filterMap.1 he
    obtain ⟨f, -, rfl⟩ := Option.map_eq_some_iff.1 found
    exact (List.mem_range.1 inside).ne
  obtain ⟨run, contexts, slotDone, deliveries, queues⟩ := s.sent_slotOuts x word _ beyond y
  rw [parts, List.foldl_append] at sent
  rw [sent, ← run, ← contexts, ← slotDone x.d, ← queues x.d, ← deliveries x.d]
  cases output 4 with
  | none => exact ⟨rfl, rfl, rfl, rfl, (List.append_nil _).symm⟩
  | some f => refine ⟨rfl, rfl, ?_, ?_, ?_⟩ <;> simp [State.slotOut]

/-- The injection of a slot entry, the die after it, and whether its queue was empty. -/
def Site.injection (x : Site) (word : Nat) : Flit × Die × Bool :=
  if slotInjects word then x.die.inject (slotInjection word) else (.zero, x.die, false)

section
variable {s : State} {d : DRef} {x : Site}

/-- What SLOT_ENTRY does in a beat of a round that the die has not yet run, by the injection of its entry. -/
theorem exec_slotEntry_eq (site : s.site d.part d.die = some x) (round : x.part.run.phase = .round)
    (inside : x.part.run.beat < x.pat.length x.part.run.entry) (fresh : x.die.slotDone ≠ some x.part.run.clock)
    {word : Nat} (entry : x.pat.slot x.d (x.pat.table x.part.run.entry) x.part.run.beat = word) {input : Nat → Flit}
    (inputs : ∀ side, ((x.die.inputs.find? (fun a => a.side == side && a.beat == x.part.run.clock)).map (·.flit)).getD .zero = input side)
    {inj : Flit} {die : Die} {under : Bool} (injects : x.injection word = (inj, die, under)) : exec (.slotEntry d) s =
      if under then .next (s.softFault d.part .faultUnderrun d.die)
      else if (slotOutputs fun o => slotOutput word o input inj).any (fun e => e.2.2) then
        .next (s.softFault d.part .faultSplice d.die)
      else .next (s.setPartition d.part ((slotOutputs fun o => slotOutput word o input inj).foldl (s.slotOut x word)
        (x.part.setDie x.d { die with inputs := die.inputs.filter (fun a => decide (x.part.run.clock < a.beat)),
                                      slotDone := some x.part.run.clock }))) := by
  obtain rfl := funext inputs
  subst entry
  change execSlotEntry d s = _
  rw [execSlotEntry, site]
  dsimp only
  rw [if_neg (by simp [round, inside, fresh])]
  rw [Site.injection] at injects
  rw [injects]
  rfl

/-- An injection from a queue that holds a flit, or none (R138, R156). -/
theorem Site.injection_served {word : Nat}
    (served : slotInjects word = true → x.die.stopped = false → Sparse.getD [] x.die.queues (slotInjection word) ≠ []) :
    x.injection word = (if slotInjects word = true ∧ x.die.stopped = false
        then (Sparse.getD [] x.die.queues (slotInjection word)).headD .zero else .zero,
      if slotInjects word = true ∧ x.die.stopped = false
        then { x.die with queues := Sparse.setD [] x.die.queues (slotInjection word)
                            (Sparse.getD [] x.die.queues (slotInjection word)).tail }
        else x.die, false) := by
  rw [Site.injection]
  by_cases injects : slotInjects word = true
  · cases stopped : x.die.stopped with
    | true => simp [injects, stopped, Die.inject]
    | false =>
      obtain ⟨f, rest, queue⟩ := List.exists_cons_of_ne_nil (served injects stopped)
      simp [injects, stopped, Die.inject, queue]
  · simp [injects]

theorem Die.getD_queues_taken (y : Die) (takes : Prop) [Decidable takes] (i k : Nat) (rest : List Flit) :
    Sparse.getD [] (if takes then { y with queues := Sparse.setD [] y.queues i rest } else y).queues k =
      if k = i ∧ takes then rest else Sparse.getD [] y.queues k := by
  by_cases h : takes <;> simp [h]

theorem Site.injection_empty {word : Nat} (injects : slotInjects word = true) (goes : x.die.stopped = false)
    (empty : Sparse.getD [] x.die.queues (slotInjection word) = []) : x.injection word = (.zero, x.die, true) := by
  simp [Site.injection, injects, goes, Die.inject, empty]

end

/-- Settles O22: the injection by its queue, then whether a splice addition failed, then the outputs. -/
theorem slotEntriesRoute : Obligations.SlotEntriesRoute := by
  unfold Obligations.SlotEntriesRoute
  intro s d x site round inside fresh clock word input queue inj output
  refine ⟨fun injects goes empty => ?_, fun served => ?_⟩
  · exact exec_slotEntry_eq site round inside fresh rfl (fun _ => rfl) (Site.injection_empty injects goes empty)
  have runs := exec_slotEntry_eq site round inside fresh rfl (fun _ => rfl) (Site.injection_served served)
  rw [if_neg Bool.false_ne_true] at runs
  refine ⟨?_, fun added => ?_⟩
  · rintro ⟨o, f, lt, failed⟩
    exact runs.trans (if_pos (List.any_eq_true.2 ⟨(o, f, true), mem_slotOutputs.2 ⟨lt, failed⟩, rfl⟩))
  · have sums : ¬ (slotOutputs output).any (fun e => e.2.2) = true := by
      intro failed
      obtain ⟨⟨o, f, bad⟩, listed, rfl⟩ := List.any_eq_true.1 failed
      obtain ⟨lt, found⟩ := mem_slotOutputs.1 listed
      exact added o f lt found
    obtain ⟨run, contexts, slotDone, queues, deliveries⟩ := s.foldl_slotOut x word output _ _ rfl
    rw [Partition.die_setDie, if_pos rfl] at slotDone queues deliveries
    refine ⟨_, _, runs.trans (if_neg sums), rfl, run, contexts, slotDone, deliveries.trans ?_, fun k => ?_⟩
    · congr 1
      exact (apply_ite Die.deliveries _ _ _).trans (ite_self _)
    · rw [queues]
      exact Die.getD_queues_taken ..

end Sys2Proof.Machine
end

section
/-! PROOFS. Deliveries, pushes, termini, tether packets and flit checks (spec/05_scratchpads.md R131, R135,
spec/06_fabric_and_patterns.md R151–R163, R188–R193, spec/08_splice_reduction.md R225–R242). -/

namespace Sys2Proof.Machine

/-! ### Deliveries (R131, R160, R231, R234) -/

section
variable {s : State} {d : DRef} {x : Site} {e : Delivery} {rest : List Delivery}

theorem exec_fabricDelivery_plain (site : s.site d.part d.die = some x) (next : x.die.deliveries = e :: rest)
    (come : e.beat ≤ x.part.run.clock) (unbound : x.pat.terminusOf x.d e.land = none) :
    exec (.fabricDelivery d) s = match ({ x.die with deliveries := rest } : Die).deliver (x.pat.landing x.d e.land).mem
        ({ x.die with deliveries := rest }.landingAt (x.pat.landing x.d e.land) e.land) e.flit x.part.run.elapsed with
      | some y => .next (s.putDie x (y.advanceLanding (x.pat.landing x.d e.land) e.land))
      | none => .next (s.softFault d.part .faultCredit d.die) := by
  change execFabricDelivery d s = _
  rw [execFabricDelivery, site]
  dsimp only
  rw [next]
  dsimp only
  rw [if_neg (Nat.not_lt.2 come), unbound]
  dsimp only
  rw [if_neg Bool.false_ne_true]
  cases ({ x.die with deliveries := rest } : Die).deliver (x.pat.landing x.d e.land).mem
    ({ x.die with deliveries := rest }.landingAt (x.pat.landing x.d e.land) e.land) e.flit x.part.run.elapsed <;> rfl

theorem exec_fabricDelivery_terminus (site : s.site d.part d.die = some x) (next : x.die.deliveries = e :: rest)
    (come : e.beat ≤ x.part.run.clock) {k : Nat} {t : Terminus} (bound : x.pat.terminusOf x.d e.land = some (k, t)) :
    exec (.fabricDelivery d) s = if (Sparse.getD TermState.idle x.die.term k).outOfHalf t x.context.step then
        .next (s.softFault d.part .faultSplice d.die)
      else match ({ x.die with deliveries := rest } : Die).landTerminus (x.pat.landing x.d e.land) e.land k t e.flit x.part.run.clock
          x.part.run.elapsed with
        | some y => .next (s.putDie x y)
        | none => .next (s.softFault d.part .faultCredit d.die) := by
  change execFabricDelivery d s = _
  rw [execFabricDelivery, site]
  dsimp only
  rw [next]
  dsimp only
  rw [if_neg (Nat.not_lt.2 come), bound] <;> rfl

theorem TermState.outOfHalf_iff (y : TermState) (t : Terminus) (step : Nat) : y.outOfHalf t step = true ↔
    y.second = false ∧ y.firstFlits = [] ∧ t.scaleBase + t.scaleHalf * (step % 2) + t.scaleHalf < y.scale + 4 := by
  simp only [outOfHalf, stepScale, Bool.and_eq_true, Bool.not_eq_true', List.isEmpty_iff, and_assoc]
  exact and_congr_right fun _ => and_congr_right fun _ => decide_eq_true_iff

/-! ### Pushes (R135, R161, R225–R227) -/

theorem exec_pushArrival_due {queue : Fin 20} {e : Push} (site : s.site d.part d.die = some x)
    (oldest : x.die.pushes.find? (fun e => e.queue == queue.val) = some e) (come : e.beat ≤ x.part.run.clock) :
    exec (.pushArrival d queue) s = .next (s.takePush x queue e) := by
  change execPushArrival d queue s = _
  rw [execPushArrival, site]
  dsimp only
  rw [oldest]
  exact if_neg (Nat.not_lt.2 come)

variable {queue : Nat} {e : Push}

theorem State.takePush_plain (plain : (x.pat.spliceQueue x.d queue).splice = false) : s.takePush x queue e =
    if 8 ≤ (Sparse.getD [] x.die.queues queue).length then s else s.putDie x { x.die with
      pushes := x.die.pushes.erase e,
      queues := Sparse.setD [] x.die.queues queue (Sparse.getD [] x.die.queues queue ++ [.plain e.data]) } := by
  rw [takePush]
  dsimp only
  rw [if_neg (Bool.eq_false_iff.1 plain)]
  rfl

theorem State.takePush_splice (splice : (x.pat.spliceQueue x.d queue).splice = true) : s.takePush x queue e =
    let y := Sparse.getD SpliceState.idle x.die.splice queue
    if ¬ e.spliceKind = true ∨ ((!y.second && y.flits == 0 && y.pushed.isEmpty) = true ∧
        ¬ y.inHalf (x.pat.spliceQueue x.d queue) x.context.step = true) then s.softFault x.p .faultSplice x.d
    else match x.die.spliceBad (x.pat.spliceQueue x.d queue) y with
    | some b => s.apply x id (.detected b.1 b.2)
    | none =>
      let took := x.die.spliceTake (x.pat.spliceQueue x.d queue) y e
      if 8 < (Sparse.getD [] x.die.queues queue).length + min took.2.length 8 then s
      else s.putDie x { x.die with
        pushes := x.die.pushes.erase e, splice := Sparse.set x.die.splice queue took.1,
        queues := Sparse.setD [] x.die.queues queue (Sparse.getD [] x.die.queues queue ++ took.2) } := by
  rw [takePush]
  dsimp only
  rw [if_pos splice]
  rfl

end

/-- Settles O24: a delivery by the terminus of its pointer, a push by its queue. -/
theorem flitsAndPushesArrive : Obligations.FlitsAndPushesArrive := by
  unfold Obligations.FlitsAndPushesArrive
  refine ⟨?_, ?_⟩
  · intro s d x e rest site next come g y moved past
    refine ⟨fun unbound => ⟨fun zero => ?_, fun valid => ?_⟩, ?_⟩
    · rw [exec_fabricDelivery_plain site next come unbound, Die.deliver, if_neg (Bool.eq_false_iff.1 zero)]
      rfl
    · rw [exec_fabricDelivery_plain site next come unbound, Die.deliver, if_pos valid]
      rfl
    · intro k t bound z outside
      have beyond : (Sparse.getD TermState.idle x.die.term k).outOfHalf t x.context.step = true ↔ outside :=
        TermState.outOfHalf_iff z t x.context.step
      refine ⟨fun out => ?_, fun in_ => ?_⟩
      · exact (exec_fabricDelivery_terminus site next come bound).trans (if_pos (beyond.2 out))
      · exact (exec_fabricDelivery_terminus site next come bound).trans (if_neg (mt beyond.1 in_))
  · intro s d queue x e site oldest come q g y starts took left
    rw [exec_pushArrival_due site oldest come]
    refine ⟨fun plain room => ?_, fun plain full => ?_, fun splice bad => ?_, fun splice kind half clean room => ?_⟩
    · rw [State.takePush_plain plain, if_neg (Nat.not_le.2 room)]
    · rw [State.takePush_plain plain, if_pos full]
    · have refused : ¬ e.spliceKind = true ∨ (starts = true ∧ ¬ y.inHalf g x.context.step = true) := by simpa using bad
      rw [State.takePush_splice splice]
      exact congrArg _ (if_pos refused)
    · have accepted : ¬ (¬ e.spliceKind = true ∨ (starts = true ∧ ¬ y.inHalf g x.context.step = true)) := by
        rintro (other | ⟨start, out⟩)
        · exact other kind
        · exact out (half start)
      rw [State.takePush_splice splice]
      refine congrArg _ ((if_neg accepted).trans ?_)
      rw [clean]
      exact if_neg (Nat.not_lt.2 room)

/-! ### Termini (R232, R233, R241, R242) -/

section
variable {s : State} {d : DRef} {term : Fin 32} {x : Site} {t : Terminus} {y : TermState} {z : TermSlice}

theorem exec_terminusFirstPass_clean (site : s.site d.part d.die = some x) (whole : x.wholePass term false = some (t, y, z))
    (clean : x.die.recordBad (x.pat.landing x.d t.land).mem z (t.p2 == 0) = none) : exec (.terminusFirstPass d term) s =
      let mem := (x.pat.landing x.d t.land).mem
      let die := { x.die with term := Sparse.set x.die.term term { y with whole := y.whole.drop 1 } }
      let overran (b : Nat) : BlockEnd := ⟨die.bufferByte z.scale b, false, decide (z.excess b ≠ 0), 0⟩
      if t.p2 = 0 then .next (s.setPartition d.part ((x.part.setDie x.d
          (((die.writeRecord mem t z overran).signal t.evt1).signal t.evt2)).addUnresolved
            ((List.range 256).filter (fun b => z.excess b != 0)).length))
      else .next (s.putDie x ((die.writeFirst mem t z).signal t.evt1)) := by
  change execTerminusFirstPass d term s = _
  rw [execTerminusFirstPass, site]
  dsimp only
  rw [whole]
  dsimp only
  rw [clean]

theorem exec_terminusSecondPass_clean (site : s.site d.part d.die = some x) (whole : x.wholePass term true = some (t, y, z))
    (clean : x.die.recordBad (x.pat.landing x.d t.land).mem z true = none) : exec (.terminusSecondPass d term) s =
      let mem := (x.pat.landing x.d t.land).mem
      let die := { x.die with term := Sparse.set x.die.term term { y with whole := y.whole.drop 1 } }
      let ends := z.resolve t (die.bufferByte z.scale)
      .next (s.setPartition d.part ((x.part.setDie x.d
        (((die.writeResolved mem z t ends).writeRecord mem t z ends).signal t.evt2)).addUnresolved
          ((List.range 256).filter (fun b => (ends b).unresolved)).length)) := by
  change execTerminusSecondPass d term s = _
  rw [execTerminusSecondPass, site]
  dsimp only
  rw [whole]
  dsimp only
  rw [clean]

end

/-- Settles O25: a first pass with and without a second, and a second pass. -/
theorem terminiComplete : Obligations.TerminiComplete := by
  unfold Obligations.TerminiComplete
  intro s d term x t y z site mem die s1 overran ends
  refine ⟨fun whole two clean => ?_, fun whole one clean => ?_, fun whole clean => ?_⟩
  · rw [exec_terminusFirstPass_clean site whole (by rw [beq_false_of_ne two]; exact clean)]
    exact if_neg two
  · rw [exec_terminusFirstPass_clean site whole (by rw [one]; exact clean), List.countP_eq_length_filter]
    exact if_pos one
  · rw [exec_terminusSecondPass_clean site whole clean, List.countP_eq_length_filter]

/-! ### Tether packets (R110, R151, R189, R192, R301) -/

theorem bits_eq_div_mod (v hi lo : Nat) : bits v hi lo = v / 2 ^ lo % 2 ^ (hi + 1 - lo) := by
  rw [bits, Nat.shiftRight_eq_div_pow]

theorem exec_tetherDelivery_due {s : State} {p : PartId} {position : Nat} {x : Partition} {dest sent : Nat} {k : Packet}
    (found : s.partition? p = some x) (packet : x.tether[position]? = some (dest, sent, k))
    (come : sent + s.tetherBeats x k.src dest ≤ s.beat)
    (first : (x.tether.take position).any (fun e => e.1 == dest && e.2.2.src == k.src) = false) :
    exec (.tetherDelivery p position) s = .next
      ((s.deliverPacket p { x with tether := x.tether.eraseIdx position } dest k).getD s) := by
  change execTetherDelivery p position s = _
  rw [execTetherDelivery, found]
  dsimp only
  rw [packet]
  dsimp only
  rw [if_neg (by simp only [first, Bool.false_eq_true, or_false]; omega)]
  cases s.deliverPacket p { x with tether := x.tether.eraseIdx position } dest k <;> rfl

section
variable {s : State} {p : Nat} {x : Partition} {dest : Nat} {k : Packet}

/-- A core that waits for a packet, and one that does not (R108, R110). -/
theorem State.deliverPacket_core (kind : dest / 2 ^ 14 % 4 = 0) (core : dest % 32 ≤ 15) : s.deliverPacket p x dest k =
    match ((x.die (dest / 32 % 512)).core (dest % 32)).waiting with
    | some (.packet rd) => some (s.setPartition p (x.setDie (dest / 32 % 512) ((x.die (dest / 32 % 512)).setCore (dest % 32)
        { ((x.die (dest / 32 % 512)).core (dest % 32)).setReg rd k.word with waiting := none })))
    | _ =>
      if 64 ≤ ((x.die (dest / 32 % 512)).core (dest % 32)).rx.length then none
      else some (s.setPartition p (x.setDie (dest / 32 % 512) ((x.die (dest / 32 % 512)).setCore (dest % 32)
        { (x.die (dest / 32 % 512)).core (dest % 32) with
          rx := ((x.die (dest / 32 % 512)).core (dest % 32)).rx ++ [k] }))) := by
  have h : bits dest 15 14 = 0 := (bits_eq_div_mod dest 15 14).trans kind
  have ep : bits dest 4 0 = dest % 32 := rfl
  have i : bits dest 13 5 = dest / 32 % 512 := bits_eq_div_mod dest 13 5
  rw [deliverPacket, h, ep, i]
  dsimp only
  rw [if_neg (by omega)]
  rfl

theorem State.deliverPacket_gather {rim : Nat} (kind : dest / 2 ^ 14 % 4 = 1) (lo : 4 ≤ dest % 32) (hi : dest % 32 ≤ 7)
    (owned : x.stackRims[dest / 32 % 512]? = some rim) : s.deliverPacket p x dest k =
    if 4096 ≤ (Sparse.getD Engine.idle (s.rim rim).ctx.engines (dest % 32)).indices.length then none
    else some ((s.setRim rim { s.rim rim with ctx := { (s.rim rim).ctx with
      engines := Sparse.set (s.rim rim).ctx.engines (dest % 32)
        { Sparse.getD Engine.idle (s.rim rim).ctx.engines (dest % 32) with
          indices := (Sparse.getD Engine.idle (s.rim rim).ctx.engines (dest % 32)).indices ++ [k] } } }).setPartition p x) := by
  have h : bits dest 15 14 = 1 := (bits_eq_div_mod dest 15 14).trans kind
  have ep : bits dest 4 0 = dest % 32 := rfl
  have i : bits dest 13 5 = dest / 32 % 512 := bits_eq_div_mod dest 13 5
  rw [deliverPacket, h, ep, i]
  refine (if_pos (And.intro lo hi)).trans ?_
  rw [owned]
  rfl

end

/-! ### Flit checks (R153, R154) -/

theorem exec_flitCheckFailure_checked {s : State} {p : PartId} {place : CheckPlace} {x y : Partition} {q : Pattern} {a b : Nat}
    {who : List Nat} (found : s.partition? p = some x) (pattern : x.pattern? = some q) (stays : x.teardown = false)
    (thawed : s.frozen p = false) (checked : s.checkedFlit x q place = some (y, (a, b), who)) : exec (.flitCheckFailure p place) s =
      let fails := s.linkFails (linkNumber a b)
      let t := { s.setPartition p y with linkFailures := Sparse.set s.linkFailures (linkNumber a b) fails }
      let t := (t.raise (s.wireOf p) (.flitCheck p a)).responseDue p
      let t := who.foldl (fun t k => t.detectedError p k none (.flitCheck p a)) t
      .next (if 4 ≤ fails.length then t.hardFault .hwLinkLoss a b else t) := by
  change execFlitCheckFailure p place s = _
  rw [execFlitCheckFailure, found]
  dsimp only
  rw [pattern]
  dsimp only
  rw [if_neg (by simp [stays, thawed]), checked]

/-- Settles O26: a packet by its endpoint, and a failed check by the flit that it meets. -/
theorem tetherAndFlitChecks : Obligations.TetherAndFlitChecks := by
  unfold Obligations.TetherAndFlitChecks
  refine ⟨?_, ?_, ?_⟩
  · intro s p position x dest sent k found packet come first ep i y c
    rw [exec_tetherDelivery_due found packet come first]
    refine ⟨?_, ?_⟩
    · intro kind core
      rw [State.deliverPacket_core kind core]
      refine ⟨fun rd waits => ?_, fun busy room => ?_, fun busy full => ?_⟩
      · change Host.Outcome.next (Option.getD (match c.waiting with | some (.packet rd) => _ | _ => _) s) = _
        rw [waits]
        rfl
      · change Host.Outcome.next (Option.getD (match c.waiting with | some (.packet rd) => _ | _ => _) s) = _
        split
        next rd waits => exact absurd waits (busy rd)
        next => exact congrArg (fun o : Option State => Host.Outcome.next (o.getD s)) (if_neg (Nat.not_le.2 room))
      · change Host.Outcome.next (Option.getD (match c.waiting with | some (.packet rd) => _ | _ => _) s) = _
        split
        next rd waits => exact absurd waits (busy rd)
        next => exact congrArg (fun o : Option State => Host.Outcome.next (o.getD s)) (if_pos full)
    · intro rim kind lo hi owned r e
      have gives := State.deliverPacket_gather (s := s) (p := p) (x := y) (k := k) kind lo hi owned
      exact ⟨fun room => congrArg (fun o : Option State => Host.Outcome.next (o.getD s)) (gives.trans (if_neg (Nat.not_le.2 room))),
        fun full => congrArg (fun o : Option State => Host.Outcome.next (o.getD s)) (gives.trans (if_pos full))⟩
  · intro s p place x y q a b who found pattern stays thawed checked fails raised t
    exact exec_flitCheckFailure_checked found pattern stays thawed checked
  · intro s d port x q inside y side here
    dsimp only
    intro arrives fresh
    rw [State.checkedFlit]
    exact if_neg (by simp only [not_or]; exact ⟨Nat.not_le.2 inside, not_not.2 arrives, fresh⟩)

end Sys2Proof.Machine
end

section
/-! PROOFS. The activity level that a software fault leaves (spec/03_matrix_tiles.md R80, R84, spec/12_partitions_and_contexts.md
R373). -/

namespace Sys2Proof.Machine

/-! ### A job that ends while an M-tile ramps -/

/-- An M-tile at level 1 that is on its way to level 2. -/
def MTile.ramping : MTile := { MTile.zeroed with level := 1, target := 2 }

/-- A pattern of one die and one round. -/
def Pattern.single : Pattern :=
  { hash := 0, width := 1, height := 1, strands := 1, errModes := 3, transitReserve := 0, seed := 0, syncTimeout := 100,
    rounds := [(0, 1)], layers := [⟨0, 0, 0⟩], lengths := [64], dies := [.empty], rims := [], leases := [], estimates := [(0, 0, 0)] }

/-- A partition of one die whose one context runs that pattern while an M-tile ramps. -/
def Partition.ramping : Partition :=
  { col0 := 0, row0 := 0, width := 1, height := 1, stackMask := 0, reserve := 0, split := (0, 0, 0), reductionWays := 0,
    sitOutMode := false, slots := 1, hostShare := 1, quantum := 0, share := 100, running := some 0, switchedIn := 0, lastIn := some 0,
    run := Run.reset, response := .none, dies := [(0, { Die.zeroed with m := [(0, MTile.ramping)] })], edge := [], crossing := [],
    tether := [], contexts := [(0, { Context.created (.resident 0) 0 with pattern := some Pattern.single })], credit := 0, hot := false,
    estSum := 0, measSum := 0, swapNumber := 0, swapped := [], hostServed := (0, 0), switchCost := [], heldLeases := [],
    evictionNumber := 0, swapKey := none, windowKey := none, window := none, windowFullPosted := false, evicting := none,
    counters := [], clamps := 0, unresolved := 0, teardown := false, destroyer := none }

/-- A module whose one partition is that one. -/
def State.ramping : State := { State.reset with partitions := [(0, Partition.ramping)] }

/-- The fault leaves the tile's target at its level, and not at the target it had. -/
theorem target_softFault_ramping :
    ((State.ramping.softFault 0 .faultCredit 0).partition? 0).map (fun y => ((y.die 0).mtile 0).target) = some 1 := by
  decide

/-- Refutes O27: of an M-tile that ramps, at level 1 with target 2, a software fault keeps level 1 and takes the target back to 1, where
the statement has the target stay 2. -/
theorem not_faultsEndJobs : ¬ Obligations.FaultsEndJobs := by
  unfold Obligations.FaultsEndJobs
  rintro ⟨softFaults, -⟩
  obtain ⟨y, w, found, -, -, -, -, -, dies, -⟩ :=
    softFaults State.ramping 0 .faultCredit 0 Partition.ramping 0 _ Pattern.single rfl rfl rfl rfl
  have target := target_softFault_ramping
  rw [found, Option.map_some, Partition.die, dies] at target
  exact absurd target (by decide)

end Sys2Proof.Machine
end

section
/-! PROOFS. The operations of a rim on its cached units and its reduction lines (spec/09_stack_memory.md R267, R268, R277–R286,
spec/02_number_formats.md R39–R47). -/

namespace Sys2Proof.Machine

/-! ### Elements of a unit -/

theorem leNat_lt (bs : List Byte) : leNat bs < 256 ^ bs.length := by
  induction bs with
  | nil => exact Nat.one_pos
  | cons b bs ih =>
    rw [leNat, List.length_cons, Nat.pow_succ']
    have := b.isLt
    omega

theorem unitElem_lt (size : Nat) (bs : List Byte) (i : Nat) : unitElem size bs i < 256 ^ size :=
  (leNat_lt _).trans_le (Nat.pow_le_pow_right (by decide) (List.length_take_le _ _))

/-- Piece `i` of lists of `n` elements in a row. -/
theorem take_drop_flatMap_of_length {α β : Type} (g : α → List β) {n : Nat} (size : ∀ a, (g a).length = n) :
    ∀ (l : List α) (i : Nat) (hi : i < l.length), ((l.flatMap g).drop (n * i)).take n = g l[i]
  | b :: l, 0, _ => by rw [Nat.mul_zero, List.drop_zero, List.flatMap_cons, List.take_left' (size b)]; rfl
  | b :: l, i + 1, hi => by
    rw [List.flatMap_cons, Nat.mul_succ, Nat.add_comm, ← List.drop_drop, List.drop_left' (size b)]
    exact take_drop_flatMap_of_length g size l i (Nat.lt_of_succ_lt_succ hi)

theorem length_elementwise {size : Nat} (word : size = 4 ∨ size = 8) (mask : Nat) (f : Nat → Nat → Nat) (old operand : List Byte) :
    (elementwise size mask f old operand).length = 64 := by
  unfold elementwise
  rw [List.length_flatMap]
  simp only [leBytes_length, List.map_const', List.length_range, List.sum_replicate, smul_eq_mul]
  rcases word with rfl | rfl <;> rfl

/-- An element after an operation: the operation's result where it is enabled, and else what was there. -/
theorem unitElem_elementwise {size : Nat} {f : Nat → Nat → Nat}
    (closed : ∀ a b, a < 256 ^ size → b < 256 ^ size → f a b < 256 ^ size) (mask : BitVec 16) (old operand : List Byte) {i : Nat}
    (inside : i < 64 / size) : unitElem size (elementwise size mask.toNat f old operand) i =
      if mask.getLsbD (i * (size / 4)) then f (unitElem size old i) (unitElem size operand i) else unitElem size old i := by
  have piece := take_drop_flatMap_of_length (fun i => leBytes size
    (if elemEnabled size mask.toNat i then f (unitElem size old i) (unitElem size operand i) else unitElem size old i))
    (fun _ => leBytes_length ..) (List.range (64 / size)) i (by rwa [List.length_range])
  rw [List.getElem_range] at piece
  rw [unitElem, elementwise, piece, leNat_leBytes]
  change (if mask.getLsbD (i * (size / 4)) then _ else _) % _ = _
  split
  · exact Nat.mod_eq_of_lt (closed _ _ (unitElem_lt ..) (unitElem_lt ..))
  · exact Nat.mod_eq_of_lt (unitElem_lt ..)

/-! ### One operation of a rim (R268, R278) -/

section
variable {s : State} {rim : RimId} {p : Nat} {x : Partition} {u op : Nat} {w : Int} {operand : List Byte} {mask : Nat}

/-- An operation that issues and succeeds. -/
theorem State.rimOperation_done (owner : s.rimOwner rim = some (p, x)) (goes : (s.rim rim).paused = false)
    (fits : (s.rim rim).fits u op = true) {r : Rim} {n : Nat}
    (done : (s.rim rim).operate x.reductionWays u op w operand mask = some (r, n)) : s.rimOperation rim u op w operand mask =
      (s.setRim rim r).setPartition p
        ((Partition.noteWrite { x with clamps := x.clamps + n } rim u).countRunning stackWriteBytes 64) := by
  rw [rimOperation, owner]
  dsimp only
  rw [if_neg (by simp [goes, fits]), done]

/-- An operation that meets a reduction-line fault. -/
theorem State.rimOperation_faults (owner : s.rimOwner rim = some (p, x)) (goes : (s.rim rim).paused = false)
    (fits : (s.rim rim).fits u op = true) (fault : (s.rim rim).operate x.reductionWays u op w operand mask = none) :
    s.rimOperation rim u op w operand mask = s.softFault p .faultReductionLine (Config.faultDetail (rimNode rim)).toNat := by
  rw [rimOperation, owner]
  dsimp only
  rw [if_neg (by simp [goes, fits]), fault]

theorem Rim.operate_elements (k : Rim) (ways : Nat) {size : Nat} {f : Nat → Nat → Nat} (codes : opElements op = some (size, f)) :
    k.operate ways u op w operand mask =
      some (k.modifyUnit (16 - ways) u (fun old => elementwise size mask f old operand), 0) := by
  unfold operate
  split
  · cases codes
  · cases codes
  · cases codes
  · rw [codes]

theorem Rim.coherent_filling {k : Rim} (h : k.Coherent) (u : Nat) : (k.filling u).Coherent ∧ ∀ v, (k.filling u).unitBytes v = k.unitBytes v := by
  unfold filling
  split
  · exact ⟨h, fun _ => rfl⟩
  · exact ⟨h, fun _ => rfl⟩

/-- A read-modify-write changes the one unit (R276, R278). -/
theorem Rim.Coherent.modifyUnit {k : Rim} (h : k.Coherent) (ways u : Nat) {f : List Byte → List Byte} (size : ∀ bs, (f bs).length = 64) :
    (k.modifyUnit ways u f).Coherent ∧ ∀ v, (k.modifyUnit ways u f).unitBytes v = if v = u then f (k.unitBytes u) else k.unitBytes v := by
  obtain ⟨filled, same⟩ := Rim.coherent_filling h u
  obtain ⟨read, coherent, bytes⟩ := filled.readUnit ways u true
  obtain ⟨after, written⟩ := coherent.insertLine ways (l := ⟨u, true, f ((k.filling u).readUnit ways u true).1⟩) (size _)
    (fun clean => Bool.noConfusion clean)
  refine ⟨after, fun v => (written v).trans ?_⟩
  rw [read, bytes, same, same]

/-- What an operation on elements leaves of the unit, when it issues. -/
theorem State.rimOperation_elements {operand : BitVec 512} {mask : BitVec 16} (owner : s.rimOwner rim = some (p, x))
    (goes : (s.rim rim).paused = false) (coherent : (s.rim rim).Coherent)
    (room : ((s.rim rim).line? u).isSome = true ∨ (s.rim rim).accepts 8 u = true) {size : Nat} {f : Nat → Nat → Nat}
    (codes : opElements op = some (size, f)) (word : size = 4 ∨ size = 8)
    (closed : ∀ a b, a < 256 ^ size → b < 256 ^ size → f a b < 256 ^ size) :
    ∃ r : Rim, Host.Outcome.next (s.rimOperation rim u op 0 (operandBytes operand) mask.toNat) =
        (.next ((s.setRim rim r).setPartition p ((x.noteWrite rim u).countRunning stackWriteBytes 64)) : Out) ∧
      r.Coherent ∧ (∀ v, v ≠ u → r.unitBytes v = (s.rim rim).unitBytes v) ∧
      ∀ i, i < 64 / size → unitElem size (r.unitBytes u) i = if mask.getLsbD (i * (size / 4))
        then f (unitElem size ((s.rim rim).unitBytes u) i) (unitElem size (operandBytes operand) i)
        else unitElem size ((s.rim rim).unitBytes u) i := by
  have fits : (s.rim rim).fits u op = true := by rw [Rim.fits]; rcases room with h | h <;> simp [h]
  obtain ⟨after, bytes⟩ := coherent.modifyUnit (16 - x.reductionWays) u
    (f := fun old => elementwise size mask.toNat f old (operandBytes operand)) (fun _ => length_elementwise word ..)
  have done := State.rimOperation_done (w := 0) owner goes fits
    (Rim.operate_elements (operand := operandBytes operand) (mask := mask.toNat) (s.rim rim) x.reductionWays codes)
  rw [Nat.add_zero] at done
  refine ⟨_, congrArg _ done, after, fun v other => ?_, fun i inside => ?_⟩
  · rw [bytes, if_neg other]
  · rw [bytes, if_pos rfl]
    exact unitElem_elementwise closed mask _ _ inside

end

theorem ite_lt {P : Prop} [Decidable P] {a b n : Nat} (ha : a < n) (hb : b < n) : (if P then a else b) < n := by
  split <;> assumption

theorem signedPick_low (n : Nat) : signedPick n true = fun a b => if signed n a ≤ signed n b then a else b := by
  funext a b
  simp [signedPick]

theorem signedPick_high (n : Nat) : signedPick n false = fun a b => if signed n a ≤ signed n b then b else a := by
  funext a b
  by_cases h : signed n a ≤ signed n b <;> simp [signedPick, h]

/-! ### Reduction lines (R44–R47, R282–R286) -/

theorem windowOk_iff (w : Int) : windowOk w = true ↔ -192 ≤ w ∧ w ≤ 64 := by
  rw [windowOk, Bool.and_eq_true, decide_eq_true_iff, decide_eq_true_iff]

theorem Rim.xfadd_refused {k : Rim} {ways u : Nat} {w : Int} (bad : ways = 0 ∨ w < -192 ∨ 64 < w) (operand : List Byte) (mask : Nat) :
    k.xfadd ways u w operand mask = none := by
  rw [xfadd, if_pos]
  rw [windowOk_iff]
  omega

theorem Rim.xfadd_eq {k : Rim} {ways u : Nat} {w : Int} (some_ : 0 < ways) (lo : -192 ≤ w) (hi : w ≤ 64) (operand : List Byte)
    (mask : Nat) : k.xfadd ways u w operand mask = match Sparse.get? k.ctx.frames (frameOf ways u) with
      | none => some { k with ctx := { k.ctx with
          frames := Sparse.set k.ctx.frames (frameOf ways u) ((Frame.opened u w).add operand mask) } }
      | some f => if f.tag = u ∧ f.w = w then
          some { k with ctx := { k.ctx with frames := Sparse.set k.ctx.frames (frameOf ways u) (f.add operand mask) } }
        else none := by
  rw [xfadd, if_neg (by rw [windowOk_iff]; omega)] <;> rfl

theorem Rim.finalize_of_none {k : Rim} {r u : Nat} (ways : Nat) (closed : r = 0 ∨ Sparse.get? k.ctx.frames (frameOf r u) = none) :
    k.finalize r ways u = some (k.writeUnit ways 8 u true (List.replicate 64 0), 0) := by
  have none : (if r = 0 then none else Sparse.get? k.ctx.frames (frameOf r u)) = none := by
    rcases closed with rfl | closed
    · rfl
    · rw [closed, ite_self]
  rw [finalize]
  dsimp only
  rw [none]

theorem Rim.finalize_of_some {k : Rim} {r u : Nat} (ways : Nat) (some_ : 0 < r) {f : Frame}
    (open_ : Sparse.get? k.ctx.frames (frameOf r u) = some f) : k.finalize r ways u = if f.tag = u then
      let k := k.writeUnit ways 8 u true ((List.range 16).flatMap (fun e => leBytes 4 (f.value e).toNat))
      some ({ k with ctx := { k.ctx with frames := Sparse.erase k.ctx.frames (frameOf r u) } }, f.clamped)
    else none := by
  rw [finalize]
  dsimp only
  rw [if_neg (Nat.pos_iff_ne_zero.1 some_), open_]

/-- Settles O29: the operations on elements through one lemma over their code, and each operation on reduction lines by the line that
it finds. -/
theorem rimOperationsReduce : Obligations.RimOperationsReduce := by
  unfold Obligations.RimOperationsReduce
  refine ⟨?_, ?_⟩
  · intro s rim unit operand mask p x owner goes coherent u old room e listed
    have elements := fun (op size : Nat) (f : Nat → Nat → Nat) => State.rimOperation_elements (op := op) (size := size) (f := f)
      (operand := operand) (mask := mask) owner goes coherent room
    simp only [List.mem_cons, List.not_mem_nil, or_false] at listed
    rcases listed with rfl | rfl | rfl | rfl | rfl | rfl | rfl | rfl | rfl
    · exact elements 1 4 _ rfl (.inl rfl) fun a b _ _ => Nat.mod_lt _ (by decide)
    · exact elements 2 8 _ rfl (.inr rfl) fun a b _ _ => Nat.mod_lt _ (by decide)
    · exact elements 3 4 _ (congrArg (fun f => some (4, f)) (signedPick_low 32)) (.inl rfl) fun a b ha hb => ite_lt ha hb
    · exact elements 4 4 _ (congrArg (fun f => some (4, f)) (signedPick_high 32)) (.inl rfl) fun a b ha hb => ite_lt hb ha
    · exact elements 5 4 _ rfl (.inl rfl) fun a b ha _ => (min_le_left a b).trans_lt ha
    · exact elements 6 4 _ rfl (.inl rfl) fun a b ha hb => max_lt ha hb
    · exact elements 7 8 _ (congrArg (fun f => some (8, f)) (signedPick_low 64)) (.inr rfl) fun a b ha hb => ite_lt ha hb
    · exact elements 8 8 _ (congrArg (fun f => some (8, f)) (signedPick_high 64)) (.inr rfl) fun a b ha hb => ite_lt hb ha
    · exact elements 9 4 _ rfl (.inl rfl) fun a b _ _ => BitVec.isLt _
  · intro s rim unit operand mask window p x owner goes u k i ways w stored faults framed
    have adds : (s.rim rim).fits u 0xA = true := rfl
    have finalizes : (s.rim rim).fits u 0xB = true := rfl
    have operates : ∀ {o}, k.xfadd x.reductionWays u w (operandBytes operand) mask.toNat = o →
        k.operate x.reductionWays u 0xA w (operandBytes operand) mask.toNat = o.map (fun k => (k, 0)) :=
      congrArg (Option.map fun k => (k, 0))
    refine ⟨fun bad => ?_, fun some_ lo hi => ⟨fun closed => ?_, fun f open_ => ?_⟩, fun some_ f open_ => ?_, fun closed => ?_, fun room => ?_⟩
    · exact congrArg _ (State.rimOperation_faults owner goes adds (operates (Rim.xfadd_refused bad ..)))
    · have added : k.xfadd x.reductionWays u w (operandBytes operand) mask.toNat =
          some (framed ((Frame.opened u w).add (operandBytes operand) mask.toNat)) := by rw [Rim.xfadd_eq some_ lo hi, closed]
      exact congrArg _ (State.rimOperation_done owner goes adds (operates added))
    · have added : k.xfadd x.reductionWays u w (operandBytes operand) mask.toNat =
          if f.tag = u ∧ f.w = w then some (framed (f.add (operandBytes operand) mask.toNat)) else none := by
        rw [Rim.xfadd_eq some_ lo hi, open_]
      split
      next same =>
        rw [if_pos same] at added
        exact congrArg _ (State.rimOperation_done owner goes adds (operates added))
      next other =>
        rw [if_neg other] at added
        exact congrArg _ (State.rimOperation_faults owner goes adds (operates added))
    · have final := Rim.finalize_of_some ways some_ open_
      split
      next same => exact congrArg _ (State.rimOperation_done owner goes finalizes (final.trans (if_pos same)))
      next other => exact congrArg _ (State.rimOperation_faults owner goes finalizes (final.trans (if_neg other)))
    · exact congrArg _ (State.rimOperation_done owner goes finalizes (Rim.finalize_of_none ways closed))
    · have fits : k.fits u 0xC = true := by rw [Rim.fits]; rcases room with h | h <;> simp [h]
      exact congrArg _ (State.rimOperation_done owner goes fits rfl)

end Sys2Proof.Machine
end

section
/-! PROOFS. Transactions, refresh, scrub and calibration of a stack (spec/09_stack_memory.md R256, R258–R261, R265, R270–R273). -/

namespace Sys2Proof.Machine

/-! ### What draining and refresh leave alone -/

/-- `t` is `r` but for its stack and its write queue. -/
def Rim.QueueOnly (r t : Rim) : Prop := t = { r with stack := t.stack, writes := t.writes }

theorem Rim.QueueOnly.refl (r : Rim) : r.QueueOnly r := rfl

theorem Rim.QueueOnly.trans {r t u : Rim} (h : r.QueueOnly t) (g : t.QueueOnly u) : r.QueueOnly u := by
  rw [QueueOnly, g, h]

theorem Rim.QueueOnly.foldl {α : Type} {f : Rim → α → Rim} (step : ∀ r a, Rim.QueueOnly r (f r a)) (l : List α) (r : Rim) :
    r.QueueOnly (l.foldl f r) := by
  induction l generalizing r with
  | nil => exact .refl r
  | cons a l ih => exact (step r a).trans (ih _)

theorem Rim.queueOnly_drainChannel (r : Rim) (c : Nat) : r.QueueOnly (r.drainChannel c) := by
  unfold drainChannel
  exact QueueOnly.trans (t := { r with writes := (r.writes.partition (fun w => channelOf w.unit == c)).2 }) rfl
    (QueueOnly.foldl (f := fun r (w : QueuedWrite) => r.store w.unit w.data) (fun _ _ => rfl) _ _)

theorem Rim.queueOnly_drain (r : Rim) : r.QueueOnly r.drain := by
  unfold drain
  split
  · exact .refl r
  · refine QueueOnly.foldl (fun t c => ?_) _ r
    split
    · exact t.queueOnly_drainChannel c
    · exact .refl t

theorem Rim.payRefresh_frame (r : Rim) (c : Nat) : r.payRefresh c = { r with refreshOwed := (r.payRefresh c).refreshOwed } := by
  unfold payRefresh
  split <;> rfl

theorem Rim.completed_outstanding (r : Rim) (t : Transaction) : (r.completed t).outstanding = r.outstanding.erase t := by
  rw [completed, payRefresh_frame]
  exact congrArg Rim.outstanding (Rim.queueOnly_drain _)

theorem Sparse.setD_eq {α : Type} [DecidableEq α] (d : α) (m : SMap α) (k : Nat) (v : α) : Sparse.setD d m k v =
    m.filter (fun e => decide (e.1 < k)) ++ (if v = d then [] else [(k, v)]) ++ m.filter (fun e => decide (k + 1 ≤ e.1)) := by
  by_cases h : v = d <;> simp [Sparse.setD, Sparse.putList, h]

/-- A key written twice holds the second value. -/
theorem Sparse.setD_setD {α : Type} [DecidableEq α] (d : α) (m : SMap α) (k : Nat) (v w : α) :
    Sparse.setD d (Sparse.setD d m k v) k w = Sparse.setD d m k w := by
  have none_below : (if v = d then [] else [(k, v)]).filter (fun e => decide (e.1 < k)) = [] := by split <;> simp
  have none_above : (if v = d then [] else [(k, v)]).filter (fun e => decide (k + 1 ≤ e.1)) = [] := by split <;> simp
  have apart_below : (m.filter (fun e => decide (k + 1 ≤ e.1))).filter (fun e => decide (e.1 < k)) = [] := by
    simp only [List.filter_filter, List.filter_eq_nil_iff, Bool.and_eq_true, decide_eq_true_eq]
    omega
  have apart_above : (m.filter (fun e => decide (e.1 < k))).filter (fun e => decide (k + 1 ≤ e.1)) = [] := by
    simp only [List.filter_filter, List.filter_eq_nil_iff, Bool.and_eq_true, decide_eq_true_eq]
    omega
  rw [Sparse.setD_eq d (Sparse.setD d m k v), Sparse.setD_eq d m k v, Sparse.setD_eq d m k w]
  simp only [List.filter_append, none_below, none_above, apart_below, apart_above, List.filter_filter, Bool.and_self,
    List.append_nil, List.nil_append]

/-! ### Transactions and refresh (R256, R258–R261, R270) -/

section
variable {s : State} {rim : RimId}

theorem exec_transactionComplete_found {unit : BitVec 31} {t : Transaction} (symbols : Fin 73)
    (held : (s.rim rim).outstanding.find? (fun t => t.unit == unit.toNat) = some t) (runs : (s.rim rim).thermal ≠ .stopped) :
    exec (.transactionComplete rim unit symbols) s = .next (s.readCompletes rim t symbols) := by
  change execTransactionComplete rim unit symbols s = _
  exact (if_neg runs).trans (by rw [held])

/-- The hardware fault of 4 or 5 wrong symbols, recorded with the marker (R260, R261). -/
theorem State.uncorrectable_spec (s : State) (k u : Nat) (r : Rim) (fill : Bool) : ∃ t : State,
    (s.setRim k r).uncorrectable k u fill = t.hardFault .hwStackUe (rimNode k) 0 ∧ (t.rim k).uncorrectable = some ⟨u, 0xFF, s.timeUs⟩ ∧
      (fill = true → ∀ l ∈ (t.rim k).cache, l.unit ≠ u) := by
  refine ⟨_, rfl, ?_, fun filled l held => ?_⟩
  · rw [State.rim_setRim, if_pos rfl]
    rfl
  · rw [State.rim_setRim, if_pos rfl, if_pos filled] at held
    simpa using (List.mem_filter.1 held).2

theorem exec_refresh_good (good : s.power = .good) (channel : Fin 64) :
    let r := s.rim rim
    let owed := Sparse.getD 0 r.refreshOwed channel + 1
    let left := if 8 ≤ owed ∨ r.busy channel = false then 0 else owed
    exec (.refresh rim channel) s = .next (s.setRim rim { r with refreshOwed := Sparse.setD 0 r.refreshOwed channel left }) := by
  intro r owed left
  have paid : ({ r with refreshOwed := Sparse.setD 0 r.refreshOwed channel owed } : Rim).payRefresh channel =
      { r with refreshOwed := Sparse.setD 0 r.refreshOwed channel left } := by
    have pays : (8 ≤ Sparse.getD 0 (Sparse.setD 0 r.refreshOwed channel owed) channel ∨
        ¬ ({ r with refreshOwed := Sparse.setD 0 r.refreshOwed channel owed } : Rim).busy channel = true) ↔
        8 ≤ owed ∨ r.busy channel = false := by
      rw [Sparse.getD_setD, if_pos rfl]
      exact or_congr Iff.rfl (Bool.eq_false_iff.symm : ¬ r.busy channel = true ↔ _)
    rw [Rim.payRefresh, if_congr pays rfl rfl]
    by_cases due : 8 ≤ owed ∨ r.busy channel = false
    · rw [if_pos due, Sparse.setD_setD, show left = 0 from if_pos due]
    · rw [if_neg due, show left = owed from if_neg due]
  exact (if_neg (not_not.2 good)).trans (congrArg (fun k => Host.Outcome.next (s.setRim rim k)) paid)

/-! ### Scrub (R258, R260, R261, R270, R271) -/

theorem exec_scrubOwed_behind (behind : (s.rim rim).scrubbed.length * (600 * second) < (s.time - (s.rim rim).passStart) * stackUnits)
    (late : (s.rim rim).lastScrub + second ≤ s.time) :
    exec (.scrubOwed rim) s = .next (s.setRim rim { s.rim rim with scrubOwed := true }) := by
  have owed : s.scrubBehind (s.rim rim) = true := by rw [State.scrubBehind, passTime]; exact decide_eq_true behind
  exact if_pos ⟨owed, late⟩

theorem State.scrubNoted_spec (s : State) (r : Rim) (u : Nat) : (s.scrubNoted r u).lastScrub = s.time ∧
    (u ∈ (s.scrubNoted r u).scrubbed ∨ (s.scrubNoted r u).passStart = r.passStart + 600 * second) := by
  refine ⟨rfl, ?_⟩
  have seen : u ∈ (if r.scrubbed.contains u then r.scrubbed else u :: r.scrubbed) := by
    split
    next listed => simpa using listed
    next => exact List.mem_cons_self
  by_cases whole : decide (stackUnits ≤ (if r.scrubbed.contains u then r.scrubbed else u :: r.scrubbed).length) = true
  · exact .inr (if_pos whole)
  · refine .inl ?_
    change u ∈ (if decide (stackUnits ≤ _) then [] else _)
    rw [if_neg whole]
    exact seen

theorem exec_scrub_turn {unit : BitVec 31} (symbols : Fin 73) (good : s.power = .good) (goes : (s.rim rim).paused = false)
    (turn : s.scrubTurn (s.rim rim) (channelOf unit.toNat) = true) (few : symbols.val ≤ 5) : exec (.scrub rim unit symbols) s =
      let r := s.scrubNoted (s.rim rim) unit.toNat
      if symbols.val = 0 then .next (s.setRim rim r)
      else if symbols.val ≤ 3 then .next (s.setRim rim (r.noteCorrection unit.toNat symbols s.timeUs))
      else .next ((s.setRim rim r).uncorrectable rim unit.toNat false) := by
  change execScrub rim unit symbols s = _
  rw [execScrub]
  dsimp only
  rw [if_neg (by simp [good, goes, turn])]
  refine if_congr Iff.rfl rfl (if_congr Iff.rfl rfl (if_pos few))

theorem State.scrubTurn_of (s : State) {r : Rim} {c : Nat} (turn : r.busy c = false ∨ r.scrubOwed = true ∧
    ∀ last, Sparse.get? r.scrubSlots c = some last → last + 1120 ≤ s.time) : s.scrubTurn r c = true := by
  rw [scrubTurn]
  rcases turn with idle | ⟨owed, long⟩
  · rw [idle]; rfl
  · cases slot : Sparse.get? r.scrubSlots c with
    | none => simp [owed]
    | some last => simp [owed, hundredSlots, long last slot]

/-! ### Calibration (R273) -/

theorem exec_calibration_due (due : s.windowDue rim = true ∨ s.patternless rim = true) (good : s.power = .good)
    (goes : (s.rim rim).paused = false) : exec (.calibration rim) s = .next (s.setRim rim { s.rim rim with
      halted := true, calibrating := if (s.rim rim).outstanding = [] then some s.time else none }) := by
  change execCalibration rim s = _
  rw [execCalibration]
  dsimp only
  rw [if_pos ⟨due, good, by simp [goes]⟩]
  simp only [List.isEmpty_iff]

theorem exec_forcedCalibration_late (good : s.power = .good) (goes : (s.rim rim).paused = false) (fresh : (s.rim rim).forced = none)
    (late : (s.rim rim).lastCalibration + 100 * msec ≤ s.time) : exec (.forcedCalibration rim) s =
      let t := s.setRim rim { s.rim rim with forced := some s.time }
      match s.rimOwner rim with
      | none => .next t
      | some (p, _) => .next (t.raise (t.wireOf p) (.calibration rim)) := by
  change execForcedCalibration rim s = _
  rw [execForcedCalibration]
  dsimp only
  rw [if_neg (by simp [good, goes, fresh, late])] <;> rfl

theorem exec_calibrationComplete_ended {since : Nat} (began : (s.rim rim).calibrating = some since) (long : since + 10500 ≤ s.time) :
    exec (.calibrationComplete rim) s = .next (s.endCalibration rim) := by
  change execCalibrationComplete rim s = _
  rw [execCalibrationComplete, began]
  exact if_neg (Nat.not_lt.2 long)

end

theorem State.rimOwner_setRim (s : State) (k j : Nat) (r : Rim) : (s.setRim k r).rimOwner j = s.rimOwner j := rfl

/-- The rim after its calibration (R273). -/
def Rim.afterCalibration (r : Rim) (now : Nat) : Rim :=
  Rim.drain { r with calibrating := none, forced := none, halted := false, lastCalibration := now }

theorem State.endCalibration_unowned {s : State} {k : Nat} (free : s.rimOwner k = none) :
    s.endCalibration k = s.setRim k ((s.rim k).afterCalibration s.time) := by
  have same := (s.rimOwner_setRim k k ((s.rim k).afterCalibration s.time)).trans free
  unfold endCalibration
  dsimp only
  split
  next => rfl
  next owned => exact absurd (same.symm.trans owned) nofun

theorem State.endCalibration_owned {s : State} {k p : Nat} {x : Partition} (owned : s.rimOwner k = some (p, x)) :
    s.endCalibration k = (s.setRim k ((s.rim k).afterCalibration s.time)).dropBoth p (.calibration k) := by
  have same := (s.rimOwner_setRim k k ((s.rim k).afterCalibration s.time)).trans owned
  unfold endCalibration
  dsimp only
  split
  next free => exact absurd (same.symm.trans free) nofun
  next owned' => cases same.symm.trans owned'; rfl

/-- Settles O30: a read and a scrub by their wrong symbols, refresh by what its channel owes, and each step of a calibration by whether
a partition owns the rim. -/
theorem stacksAreKept : Obligations.StacksAreKept := by
  unfold Obligations.StacksAreKept
  refine ⟨?_, ?_⟩
  · intro s rim unit symbols channel u r
    refine ⟨?_, ?_, fun good => exec_refresh_good good channel, fun behind late => exec_scrubOwed_behind behind late⟩
    · intro t held runs done
      have completes := exec_transactionComplete_found symbols held runs
      have unit_eq : t.unit = u := by simpa using List.find?_some held
      rw [State.readCompletes, unit_eq] at completes
      dsimp only at completes
      refine ⟨Rim.completed_outstanding r t, fun clean => ?_, fun few => ?_, fun more => ?_⟩
      · exact completes.trans (congrArg _ (if_pos clean))
      · rw [if_neg (by omega), if_pos few.2] at completes
        exact completes
      · rw [if_neg (by omega), if_neg (by omega), if_pos more.2] at completes
        obtain ⟨t', fault, record, unfilled⟩ := s.uncorrectable_spec rim u done t.fill
        exact ⟨t', completes.trans (congrArg _ fault), record, unfilled⟩
    · intro good goes turn scrubbed
      obtain ⟨last, read⟩ := s.scrubNoted_spec r u
      have scrubs := fun few => exec_scrub_turn symbols good goes (s.scrubTurn_of turn) few
      refine ⟨last, read, fun clean => ?_, fun few => ?_, fun more => ?_⟩
      · exact (scrubs (by omega)).trans (if_pos clean)
      · exact (scrubs (by omega)).trans ((if_neg (by omega)).trans (if_pos few.2))
      · obtain ⟨t, fault, record, -⟩ := s.uncorrectable_spec rim u scrubbed false
        exact ⟨t, (scrubs more.2).trans ((if_neg (by omega)).trans ((if_neg (by omega)).trans (congrArg _ fault))), record⟩
  · intro s rim r taken ended
    refine ⟨fun free => ⟨fun good goes => ?_, fun good goes fresh late => ?_, fun since began long => ?_⟩,
      fun p x owned => ⟨fun good goes slack => ?_, ?_, fun since began long => ?_⟩⟩
    · exact exec_calibration_due (.inr (by rw [State.patternless, free])) good goes
    · rw [exec_forcedCalibration_late good goes fresh late, free]
    · exact (exec_calibrationComplete_ended began long).trans (congrArg _ (State.endCalibration_unowned free))
    · refine exec_calibration_due ?_ good goes
      rcases slack with none | idle | ⟨q, i, pattern, index, open_, long⟩
      · exact .inr (by simp [State.patternless, owned, none])
      · exact .inr (by simp [State.patternless, owned, idle])
      · have slackAt : s.slackAt rim = true := by simp [State.slackAt, owned, pattern, index, open_]
        exact .inl (by rw [State.windowDue, slackAt, Bool.true_and]; exact decide_eq_true long)
    · intro good goes fresh late t
      rw [exec_forcedCalibration_late good goes fresh late, owned]
    · exact (exec_calibrationComplete_ended began long).trans (congrArg _ (State.endCalibration_owned owned))

end Sys2Proof.Machine
end

section
/-! PROOFS. Descriptor lists, staging checks, rim edges and bind-off. -/

namespace Sys2Proof.Machine

/-! ### Descriptor lists -/

/-- The descriptor at which the fetch sequence stands is one that `badNull` looks at. -/
theorem Engine.badNull_of_fetch {e : Engine} {d : Descriptor} {eng : Nat} (at_ : e.at? e.fetchPlace = some d)
    (null : d.kind = 0) (bad : d.allowed eng = false) : e.badNull eng = true := by
  simp [Engine.badNull, at_, null, bad]

theorem Engine.badNull_of_allowed {e : Engine} {d : Descriptor} {eng : Nat} (at_ : e.at? e.fetchPlace = some d)
    (good : d.allowed eng = true) (other : e.usePlace ≠ e.fetchPlace → ∀ g, e.at? e.usePlace = some g → g.kind ≠ 0) :
    e.badNull eng = false := by
  by_cases same : e.usePlace = e.fetchPlace
  · simp [Engine.badNull, same, at_, good]
  · cases use : e.at? e.usePlace with
    | none => simp [Engine.badNull, at_, good, use]
    | some g => simp [Engine.badNull, at_, good, use, other same g use]

/-- Past a null descriptor at which both sequences stand. -/
theorem Engine.skipNull_of_both {e : Engine} {d : Descriptor} (at_ : e.at? e.fetchPlace = some d) (null : d.kind = 0)
    (same : e.usePlace = e.fetchPlace) :
    e.skipNull = { e with fetchAt := e.fetchPlace + 1, useAt := e.usePlace + 1 } := by
  simp [Engine.skipNull, same, at_, null]

/-- Past a null descriptor at which only the fetch sequence stands. -/
theorem Engine.skipNull_of_fetch {e : Engine} {d : Descriptor} (at_ : e.at? e.fetchPlace = some d) (null : d.kind = 0)
    (other : ∀ g, e.at? e.usePlace = some g → g.kind ≠ 0) :
    e.skipNull = { e with fetchAt := e.fetchPlace + 1 } := by
  cases use : e.at? e.usePlace with
  | none => simp [Engine.skipNull, at_, null, use]
  | some g => simp [Engine.skipNull, at_, null, use, other g use]

/-- With no late pull an engine is only put back. -/
theorem State.settleLate_of_none (s : State) (w : EngSite) (none_ : w.e.late = []) : s.settleLate w = s.putEngine w := by
  have back : { w with e := { w.e with late := [], counters := { w.e.counters with
      lagSum := w.e.counters.lagSum, maxLag := w.e.counters.maxLag } } } = w := by
    rw [← none_]
  simp only [State.settleLate, none_, List.filter_nil, List.map_nil, List.foldl_nil, List.isEmpty_nil, not_true_eq_false,
    and_false, if_false]
  exact congrArg s.putEngine back

/-- Nothing of run-ahead is kept where nothing was read ahead. -/
theorem EngSite.kept_of_none {y : EngSite} (none_ : y.e.runAhead = 0) (d h : Descriptor) : y.kept d h = 0 := by
  unfold EngSite.kept
  rw [none_, Nat.zero_min]
  split <;> rfl

/-- A hank taken in at the fetch sequence's place, with nothing read ahead: the sequence goes on at its first descriptor. -/
theorem EngSite.takeHank_fetch {y : EngSite} (none_ : y.e.runAhead = 0) (hank : List Descriptor)
    (rest : List (List Descriptor)) :
    (y.takeHank y.e.fetchPlace hank rest).e.fetchAt = y.e.fetchPlace ∧
    (y.takeHank y.e.fetchPlace hank rest).e.fetchFlit = 0 ∧
    (y.takeHank y.e.fetchPlace hank rest).e.staging = y.e.staging ∧
    (y.takeHank y.e.fetchPlace hank rest).e.counters = y.e.counters := by
  unfold EngSite.takeHank
  dsimp only
  generalize (if y.e.fetchPlace = 0 then none else y.e.list[y.e.fetchPlace - 1]?) = before
  cases before with
  | none => simp [none_]
  | some d => cases hank with
    | nil => simp [none_]
    | cons h more => simp [none_, EngSite.kept_of_none none_]

/-- Settles O33: each command's guard met, with the skipping of nulls, the settling without late pulls and the taking in of a
hank stated once each. -/
theorem descriptorListsAdvance : Obligations.DescriptorListsAdvance := by
  unfold Obligations.DescriptorListsAdvance
  intro s e y found
  refine ⟨fun more => ?_, fun d at_ null => ⟨fun bad => ?_, fun good => ⟨fun same => ?_, fun differ other => ?_⟩⟩, ?_⟩
  · change execHankRead e s = _
    rw [execHankRead, found]
    exact if_pos more
  · change execNullDescriptor e s = _
    rw [execNullDescriptor, found]
    exact if_pos (Engine.badNull_of_fetch at_ null bad)
  · change execNullDescriptor e s = _
    rw [execNullDescriptor, found]
    dsimp only
    rw [Engine.badNull_of_allowed at_ good (fun h => absurd same h), Engine.skipNull_of_both at_ null same]
    rfl
  · change execNullDescriptor e s = _
    rw [execNullDescriptor, found]
    dsimp only
    rw [Engine.badNull_of_allowed at_ good (fun _ => other), Engine.skipNull_of_fetch at_ null other]
    rfl
  · intro d hank rest at_ seven hanks
    refine ⟨y.takeHank y.e.fetchPlace hank rest, ?_, rfl, fun early => s.settleLate_of_none _ early, rfl, rfl, rfl, rfl, rfl, rfl, rfl,
      fun none_ => EngSite.takeHank_fetch none_ hank rest⟩
    have at7 : ((y.e.at? y.e.fetchPlace).any (fun d => d.kind == 7)) = true := by simp [at_, seven]
    change execHankWait e s = _
    rw [execHankWait, State.takeHank, found]
    simp only [hanks, at7, if_true]

/-! ### Staging checks -/

/-- A pull check that falls due: the lead of a complete flit, or belay. -/
theorem exec_stagingPullCheck_due {s : State} {e : EngRef} {y : EngSite} (found : s.engSite e.rim e.eng = some y)
    (falls : s.checks y = true) (names : y.named false false = true) (comes : y.e.pulls < y.coming false false) :
    execStagingPullCheck e s =
      match (y.e.sure[y.e.pulls]?).bind (·.complete) with
      | some t => .next (s.putEngine { y with e := { y.e with
          pulls := y.e.pulls + 1
          counters := { y.e.counters with
            leadSum := y.e.counters.leadSum + (s.beat - t), minLead := min y.e.counters.minLead (s.beat - t) } } })
      | none => .next ((s.putEngine { y with e := { y.e with
          pulls := y.e.pulls + 1, late := y.e.late ++ [(y.e.pulled + y.e.pulls, s.beat, s.time)]
          counters := { y.e.counters with late := y.e.counters.late + 1 } } }).raise (s.wireOf y.p)
            (.staging y.k y.n)) := by
  rw [execStagingPullCheck, found]
  dsimp only
  rw [if_neg (by simp [falls, names]; omega)] <;> rfl

/-- The flit at the place found becomes complete and no other changes. -/
theorem map_zipIdx_set_at {α : Type} (f : α → α) (before : List α) (t : α) (after : List α) :
    (before ++ t :: after).zipIdx.map (fun e => if e.2 = before.length then f e.1 else e.1) = before ++ f t :: after := by
  refine List.ext_getElem (by simp) fun i h₁ h₂ => ?_
  simp only [List.getElem_map, List.getElem_zipIdx, Nat.zero_add]
  rcases Nat.lt_trichotomy i before.length with lt | rfl | gt
  · rw [if_neg (by omega), List.getElem_append_left lt, List.getElem_append_left lt]
  · simp
  · rw [if_neg (by omega), List.getElem_append_right (by omega), List.getElem_append_right (by omega)]
    obtain ⟨j, hj⟩ : ∃ j, i - before.length = j + 1 := ⟨i - before.length - 1, by omega⟩
    simp [hj]

/-- The first entry that answers lies behind those that do not. -/
theorem findIdx?_append_cons {α : Type} {p : α → Bool} {before : List α} {t : α} {after : List α}
    (none_ : ∀ b ∈ before, p b = false) (here : p t = true) :
    (before ++ t :: after).findIdx? p = some before.length := by
  have early : before.findIdx? p = none := List.findIdx?_eq_none_iff.2 none_
  simp [List.findIdx?_append, early, List.findIdx?_cons, here]

/-- The late pulls that are left once an engine's flits are settled, and what stays of the engine. -/
theorem State.settleLate_spec (s : State) (y : EngSite) :
    ∃ w : Engine, w.staging = y.e.staging ∧
      w.late = y.e.late.filter (fun l => !(y.e.sure[l.1 - y.e.pulled]?).any (fun t => t.complete.isSome)) ∧
      w.pulls = y.e.pulls ∧ w.counters.fetched = y.e.counters.fetched ∧
      s.settleLate y =
        if w.late = [] ∧ y.e.late ≠ [] then (s.putEngine { y with e := w }).dropLater y.p (.staging y.k y.n)
        else s.putEngine { y with e := w } := by
  let met (l : Nat × Nat × Nat) : Bool := (y.e.sure[l.1 - y.e.pulled]?).any (fun t => t.complete.isSome)
  let lags := (y.e.late.filter met).map (fun l => s.beat - l.2.1 + 1)
  refine ⟨{ y.e with
    late := y.e.late.filter (fun l => !met l)
    counters := { y.e.counters with
      lagSum := lags.foldl (· + ·) y.e.counters.lagSum, maxLag := lags.foldl max y.e.counters.maxLag } },
    rfl, rfl, rfl, rfl, ?_⟩
  unfold State.settleLate
  simp only [List.isEmpty_iff]
  rfl

theorem exec_stagingFlitComplete_found {s : State} {e : EngRef} {y : EngSite} (found : s.engSite e.rim e.eng = some y)
    {before after : List Staged} {t : Staged} (staging : y.e.staging = before ++ t :: after) (open_ : t.complete = none)
    (read : t.waiting = []) (landed : ∀ u ∈ t.units, y.flying u = false)
    (unready : ∀ b ∈ before, b.complete ≠ none ∨ b.waiting ≠ [] ∨ ∃ u ∈ b.units, y.flying u = true) :
    execStagingFlitComplete e s = .next (s.settleLate { y with e := { y.e with
      staging := before ++ { t with complete := some s.beat } :: after } }) := by
  have first : (before ++ t :: after).findIdx?
      (fun t => t.complete.isNone && t.waiting.isEmpty && t.units.all (fun u => !y.flying u)) = some before.length := by
    refine findIdx?_append_cons (fun b hb => ?_) (by simpa [open_, read] using landed)
    rcases unready b hb with complete | waits | ⟨u, mem, flies⟩
    · simp [Option.isNone_iff_eq_none, complete]
    · simp [waits]
    · simp only [Bool.and_eq_false_iff, List.all_eq_false]
      exact .inr ⟨u, mem, by simp [flies]⟩
  rw [execStagingFlitComplete, found]
  dsimp only
  rw [staging, first]
  dsimp only
  rw [map_zipIdx_set_at (fun t : Staged => { t with complete := some s.beat })]

/-- A late pull of an engine whose fetch sequence stands at a hank that has not come. -/
theorem exec_stagingHankTimeout_late {s : State} {e : EngRef} {y : EngSite} (found : s.engSite e.rim e.eng = some y)
    {d : Descriptor} (at_ : y.e.at? y.e.fetchPlace = some d) (seven : d.kind = 7) (none_ : y.e.hanks = [])
    (long : ∃ l ∈ y.e.late, y.q.syncTimeout * usec < s.time - l.2.2) :
    execStagingHankTimeout e s = .next ((s.engineFault y .faultHank).dropBoth y.p (.staging y.k y.n)) := by
  have late : (y.e.late.any (fun l => decide (y.q.syncTimeout * usec < s.time - l.2.2))) = true := by
    simpa using long
  rw [execStagingHankTimeout, found]
  dsimp only
  rw [at_]
  dsimp only
  rw [if_pos]
  exact ⟨late, by simp [seven, none_]⟩

theorem exec_receivePlaceCheck_write {s : State} {e : EngRef} {y : EngSite} (found : s.engSite e.rim e.eng = some y)
    (falls : s.checks y = true) (names : y.named true false = true)
    (comes : y.e.reserved + y.e.placeWait < y.coming true false) :
    execReceivePlaceCheck e false s = .next (
      if y.placesTaken < 4096 then s.putEngine { y with e := { y.e with reserved := y.e.reserved + 1 } }
      else (s.putEngine { y with e := { y.e with placeWait := y.e.placeWait + 1 } }).raise (s.wireOf y.p)
        (.place y.k y.n false)) := by
  rw [execReceivePlaceCheck, found]
  dsimp only
  rw [if_neg (by simp [falls, names]; omega), if_neg Bool.false_ne_true, writePlaces]
  split <;> rfl

theorem exec_receivePlaceCheck_hank {s : State} {e : EngRef} {y : EngSite} (found : s.engSite e.rim e.eng = some y)
    (falls : s.checks y = true) (names : y.named true true = true)
    (comes : y.e.hankReserved + y.e.hankWait < y.coming true true) :
    execReceivePlaceCheck e true s = .next (
      if y.e.hankPlaces < 4 then s.putEngine { y with e := { y.e with hankReserved := y.e.hankReserved + 1 } }
      else (s.putEngine { y with e := { y.e with hankWait := y.e.hankWait + 1 } }).raise (s.wireOf y.p)
        (.place y.k y.n true)) := by
  rw [execReceivePlaceCheck, found]
  dsimp only
  rw [if_neg (by simp [falls, names]; omega), if_pos rfl]
  split <;> rfl

theorem exec_stagingPlaceFree_write {s : State} {e : EngRef} {y : EngSite} (found : s.engSite e.rim e.eng = some y)
    (waits : 0 < y.e.placeWait) (free : y.placesTaken < 4096) :
    execStagingPlaceFree e false s =
      let t := s.putEngine { y with e := { y.e with reserved := y.e.reserved + 1, placeWait := y.e.placeWait - 1 } }
      .next (if y.e.placeWait = 1 then t.dropLater y.p (.place y.k y.n false) else t) := by
  rw [execStagingPlaceFree, found]
  dsimp only
  rw [if_neg Bool.false_ne_true, if_neg (by rw [writePlaces]; omega)]
  split <;> rfl

theorem exec_stagingPlaceFree_hank {s : State} {e : EngRef} {y : EngSite} (found : s.engSite e.rim e.eng = some y)
    (waits : 0 < y.e.hankWait) (free : y.e.hankPlaces < 4) :
    execStagingPlaceFree e true s =
      let t := s.putEngine { y with e := { y.e with hankReserved := y.e.hankReserved + 1, hankWait := y.e.hankWait - 1 } }
      .next (if y.e.hankWait = 1 then t.dropLater y.p (.place y.k y.n true) else t) := by
  rw [execStagingPlaceFree, found]
  dsimp only
  rw [if_pos rfl, if_neg (by omega)]
  split <;> rfl

/-- Settles O34: each check with its guard met; a completed flit settles the late pulls that waited for it. -/
theorem stagingPlacesAreChecked : Obligations.StagingPlacesAreChecked := by
  unfold Obligations.StagingPlacesAreChecked
  intro s e y found g
  refine ⟨fun falls names comes => ⟨fun t at_ here complete => ?_, fun open_ => ?_⟩, ?_, ?_, ?_, ?_, ?_, ?_⟩
  · refine (exec_stagingPullCheck_due found falls names comes).trans ?_
    have lead : (y.e.sure[y.e.pulls]?).bind (·.complete) = some at_ := by rw [here]; exact complete
    rw [lead]
  · refine (exec_stagingPullCheck_due found falls names comes).trans ?_
    have late : (y.e.sure[y.e.pulls]?).bind (·.complete) = none := Option.bind_eq_none_iff.2 open_
    rw [late]
  · intro before t after staging open_ read landed unready now met
    obtain ⟨w, same, late, pulls, fetched, settles⟩ := s.settleLate_spec { y with e := now }
    exact ⟨w, same, late, pulls, fetched,
      (exec_stagingFlitComplete_found found staging open_ read landed unready).trans (congrArg _ settles)⟩
  · exact fun d at_ seven none_ long => exec_stagingHankTimeout_late found at_ seven none_ long
  · exact fun falls names comes => exec_receivePlaceCheck_write found falls names comes
  · exact fun falls names comes => exec_receivePlaceCheck_hank found falls names comes
  · exact fun waits free => exec_stagingPlaceFree_write found waits free
  · exact fun waits free => exec_stagingPlaceFree_hank found waits free

/-! ### Rim edges and bind-off -/

/-- A pull of a complete flit that is not run-ahead. -/
theorem exec_rimEdgePull_complete {s : State} {rim : RimId} {port : Fin 16} {y : EngSite} {g : EdgeEntry} {f : Staged}
    {rest : List Staged} (now : s.edgeNow rim port false = some (y, g)) (staging : y.e.staging = f :: rest)
    (complete : f.complete ≠ none) (sure : y.e.runAhead ≤ rest.length) :
    execRimEdgePull rim port s =
      let z := ({ y with e := { y.e with
        staging := rest, pulled := y.e.pulled + 1, pulls := y.e.pulls - 1
        counters := { y.e.counters with
          useful := y.e.counters.useful + flitBytes, pulls := y.e.counters.pulls + 1 } } } : EngSite).noteEdge g
      .next (s.putEngine { z with x := match s.facing rim port with
        | some (c, row, side) =>
          State.enter y.x c row side (y.x.run.clock + 2) (y.x.run.beat + 2) (.plain (bytesToLanes f.data))
        | none => y.x }) := by
  rw [execRimEdgePull, now]
  dsimp only
  rw [staging]
  dsimp only
  rw [if_neg (by simp [Option.isNone_iff_eq_none, complete]; omega)] <;> rfl

/-- A site whose port has received: the arrivals of the port up to now are gone, and the port has moved its flit. -/
def EngSite.received (y : EngSite) (rim : RimId) (port : Fin 16) (g : EdgeEntry) : EngSite :=
  ({ y with x := { y.x with edge := y.x.edge.filter (fun a =>
    !((a.rim == rim.val && a.port == port.val) && decide (a.beat ≤ y.x.run.clock))) } } : EngSite).noteEdge g

/-- The flit that a port receives in this beat: the one that arrives, or a zero flit. -/
theorem received_flit_eq {edge : List EdgeArrival} {rim : RimId} {port : Fin 16} {now : Nat} {f : Flit}
    (flit : (∃ a, edge.find? (fun a => a.rim == rim.val && a.port == port.val && a.beat == now) = some a ∧ a.flit = f) ∨
      ((∀ a ∈ edge, a.rim = rim.val ∧ a.port = port.val → a.beat ≠ now) ∧ f = .zero)) :
    ((edge.find? (fun a => (a.rim == rim.val && a.port == port.val) && a.beat == now)).map (·.flit)).getD .zero = f := by
  rcases flit with ⟨a, found, rfl⟩ | ⟨none_, rfl⟩
  · rw [found]
    rfl
  · have missing : edge.find? (fun a => (a.rim == rim.val && a.port == port.val) && a.beat == now) = none := by
      simpa [List.find?_eq_none] using none_
    rw [missing]
    rfl

/-- What a receive does with its flit once the port's entry has come. -/
theorem exec_rimEdgeReceive_now {s : State} {rim : RimId} {port : Fin 16} {y : EngSite} {g : EdgeEntry} {f : Flit}
    (now : s.edgeNow rim port true = some (y, g))
    (flit : ((y.x.edge.find? (fun a => (a.rim == rim.val && a.port == port.val) && a.beat == y.x.run.clock)).map
      (·.flit)).getD .zero = f) :
    execRimEdgeReceive rim port s =
      let z := y.received rim port g
      if g.hank then
        if z.e.hankReserved = 0 ∧ 4 ≤ z.e.hankPlaces then .next s
        else if f.hankWords.any descriptorStray then .next ((s.putEngine z).engineFault z .reservedNonzero)
        else .next (s.putEngine { z with e := { z.e with
          hanks := z.e.hanks ++ [f.hankWords.map (fun v => hankDescriptor (Descriptor.ofNat v))]
          hankReserved := z.e.hankReserved - 1 } })
      else if z.e.reserved = 0 ∧ writePlaces ≤ z.placesTaken then .next s
      else .next (s.putEngine { z with e := { z.e with received := z.e.received ++ [f], reserved := z.e.reserved - 1 } }) := by
  subst flit
  rw [execRimEdgeReceive, now] <;> rfl

/-- Settles O35: the edge entries by the flit in the port, bind-off by what the engines are still owed. -/
theorem rimEdgesAndBindOff : Obligations.RimEdgesAndBindOff := by
  unfold Obligations.RimEdgesAndBindOff
  refine ⟨?_, ?_⟩
  · intro s rim port y g now moved r
    refine ⟨fun f rest entry staging complete sure => ?_, ?_⟩
    · exact ⟨_, _, exec_rimEdgePull_complete entry staging complete sure, rfl, rfl, rfl, rfl, rfl, rfl, rfl⟩
    · intro entry here f flit x
      have receives := exec_rimEdgeReceive_now entry (received_flit_eq flit)
      refine ⟨fun plain room => ?_, fun hank room => ⟨fun stray => ?_, fun tidy => ?_⟩⟩
      · refine receives.trans ((if_neg (by simp [plain])).trans (if_neg ?_))
        rintro ⟨free, full⟩
        rcases room with reserved | room
        · exact absurd free (Nat.ne_of_gt reserved)
        · exact absurd full (Nat.not_le.2 room)
      · refine receives.trans ((if_pos hank).trans ((if_neg ?_).trans (if_pos stray)))
        rintro ⟨free, full⟩
        rcases room with reserved | room
        · exact absurd free (Nat.ne_of_gt reserved)
        · exact absurd full (Nat.not_le.2 room)
      · refine receives.trans ((if_pos hank).trans ((if_neg ?_).trans (if_neg (by simp [tidy]))))
        rintro ⟨free, full⟩
        rcases room with reserved | room
        · exact absurd free (Nat.ne_of_gt reserved)
        · exact absurd full (Nat.not_le.2 room)
  · intro s rim
    refine ⟨fun y found live near last => ?_, fun p x owned holds met => ?_⟩
    · have checks : execBindOffCheck rim s =
          if y.r.ctx.engines.any (fun e => e.2.starved) then .next (s.engineFault y .faultBindOff)
          else if s.boundOff rim then .next s else .next (s.raise (s.wireOf y.p) (.bindOff rim)) := by
        rw [execBindOffCheck, found]
        dsimp only
        rw [if_neg (by simp [live, last]; omega)]
      refine ⟨fun owed => checks.trans (if_pos ?_), fun fed => checks.trans (if_neg ?_)⟩
      · simpa [Engine.starved] using owed
      · simpa [Engine.starved] using fed
    · change execBindOffRelease rim s = _
      rw [execBindOffRelease, owned]
      exact if_pos ⟨holds, met⟩

end Sys2Proof.Machine
end

section
/-! PROOFS. What reports to the host and the end of jobs leave alone; lost dies and diagnosis. -/

namespace Sys2Proof.Machine

/-! ### What reaches the host alone -/

/-- `t` is `s` but for the rings, what they hold in host memory, and the interrupts. -/
def State.HostOnly (s t : State) : Prop :=
  t = { s with rings := t.rings, vectors := t.vectors, messages := t.messages, hostMem := t.hostMem }

theorem State.HostOnly.refl (s : State) : s.HostOnly s := rfl

theorem State.HostOnly.trans {s t u : State} (h : s.HostOnly t) (g : t.HostOnly u) : s.HostOnly u := by
  rw [HostOnly, g, h]

theorem State.HostOnly.partition? {s t : State} (h : s.HostOnly t) (p : Nat) : t.partition? p = s.partition? p :=
  (congrArg (State.partition? · p) h :)

theorem State.HostOnly.rim {s t : State} (h : s.HostOnly t) (k : Nat) : t.rim k = s.rim k :=
  (congrArg (State.rim · k) h :)

theorem State.HostOnly.foldl {α : Type} {f : State → α → State} (step : ∀ t a, State.HostOnly t (f t a)) (l : List α)
    (s : State) : s.HostOnly (l.foldl f s) := by
  induction l generalizing s with
  | nil => exact .refl s
  | cons a l ih => exact (step s a).trans (ih _)

theorem State.hostOnly_setRing (s : State) (k : Nat) (r : Ring) : s.HostOnly (s.setRing k r) := rfl

theorem State.hostOnly_hostWrite (s : State) (a : Nat) (bs : List Byte) : s.HostOnly (s.hostWrite a bs) := rfl

theorem State.hostOnly_interrupt (s : State) (v : Nat) : s.HostOnly (s.interrupt v) := by
  unfold interrupt
  dsimp only
  split
  · rfl
  · split <;> rfl

theorem State.hostOnly_postEntry (s : State) (k opcode tag part ctx : Nat) (st : Status) (detail : Nat) (result : List W32) :
    s.HostOnly (s.postEntry k opcode tag part ctx st detail result) := rfl

theorem State.hostOnly_drainEvents (s : State) (k : Nat) : s.HostOnly (s.drainEvents k) := by
  unfold drainEvents
  split
  · exact .refl s
  · dsimp only
    have posted : s.HostOnly (((s.ring k).events.take (min (s.ring k).free (s.ring k).events.length)).foldl
        (fun a e => a.postEntry k 0 0xFFFF 0 0 e.status e.detail e.result)
        (s.setRing k { s.ring k with events := (s.ring k).events.drop (min (s.ring k).free (s.ring k).events.length) })) := by
      refine (s.hostOnly_setRing k _).trans (HostOnly.foldl (fun t e => ?_) _ _)
      exact t.hostOnly_postEntry k 0 0xFFFF 0 0 e.status e.detail e.result
    generalize ((s.ring k).events.take (min (s.ring k).free (s.ring k).events.length)).foldl _ _ = t at posted ⊢
    have told : s.HostOnly (if min (s.ring k).free (s.ring k).events.length = 0 then t else t.interrupt k) := by
      split
      · exact posted
      · exact posted.trans (t.hostOnly_interrupt k)
    generalize (if min (s.ring k).free (s.ring k).events.length = 0 then t else t.interrupt k) = u at told ⊢
    split
    · exact told.trans ((u.hostOnly_setRing k _).trans ((State.hostOnly_postEntry _ k 0 0xFFFF 0 0 _ 0 _).trans
        (State.hostOnly_interrupt _ k)))
    · exact told

theorem State.hostOnly_postEvent (s : State) (k : Nat) (e : RingEvent) : s.HostOnly (s.postEvent k e) := by
  unfold postEvent
  dsimp only
  split
  · exact .refl s
  · split
    · rfl
    · exact (s.hostOnly_setRing k _).trans (State.hostOnly_drainEvents _ k)

theorem State.hostOnly_postCompletion (s : State) (k : Nat) (u : Unposted) : s.HostOnly (s.postCompletion k u) := by
  unfold postCompletion
  dsimp only
  split
  · exact (s.hostOnly_setRing k _).trans ((State.hostOnly_postEntry _ k _ _ _ _ _ _ _).trans (State.hostOnly_interrupt _ k))
  · exact (s.hostOnly_setRing k _).trans (State.hostOnly_postEntry _ k _ _ _ _ _ _ _)

theorem State.hostOnly_complete (s : State) (k opcode : Nat) (e : CmdEntry) (st : Status) (detail : Nat)
    (result : List W32) : s.HostOnly (s.complete k opcode e st detail result) := by
  unfold complete
  dsimp only
  split
  · exact s.hostOnly_postCompletion k _
  · rfl

theorem State.hostOnly_drainUnposted (s : State) (k : Nat) : s.HostOnly (s.drainUnposted k) := by
  unfold drainUnposted
  refine (s.hostOnly_setRing k _).trans (HostOnly.foldl (fun t u => ?_) _ _)
  exact t.hostOnly_complete k u.opcode u.entry u.status u.detail u.result

theorem State.hostOnly_finish (s : State) (k : Nat) (a : Active) (st : Status) (detail : Nat) (result : List W32) :
    s.HostOnly (s.finish k a st detail result) := by
  unfold finish
  exact (s.hostOnly_setRing k _).trans (State.hostOnly_complete _ k _ _ st detail result)

theorem State.hostOnly_finishAll (s : State) (l : List (Nat × Active)) (st : Status) (detail : Nat) (words : List W32) :
    s.HostOnly (l.foldl (fun t e => t.finish e.1 e.2 st detail words) s) := by
  refine HostOnly.foldl (fun t e => ?_) l s
  exact t.hostOnly_finish e.1 e.2 st detail words

theorem State.hostOnly_endWaiting (s : State) (st : Status) (by_ : Option (Nat × Nat)) (f : Nat → Nat → CmdEntry → Bool) :
    s.HostOnly (s.endWaiting st by_ f) := by
  unfold endWaiting
  refine HostOnly.foldl (fun t w => ?_) _ s
  exact (t.hostOnly_setRing w.1 _).trans (State.hostOnly_complete _ w.1 _ _ st 0 [])

theorem State.hostOnly_endActive (s : State) (st : Status) (f : Nat → Nat → CmdEntry → Bool) :
    s.HostOnly (s.endActive st f) := by
  unfold endActive
  refine HostOnly.foldl (fun t e => ?_) _ s
  exact t.hostOnly_finish e.1 e.2 st 0 []

theorem State.hostOnly_endCommands (s : State) (p : Nat) (st : Status) (by_ : Option (Nat × Nat)) :
    s.HostOnly (s.endCommands p st by_) := by
  unfold endCommands
  exact (s.hostOnly_endWaiting st by_ _).trans (State.hostOnly_endActive _ st _)

/-! ### What the end of a job reaches -/

/-- `t` is `s` but for the partitions, the rims, the belay wires and what reaches the host. -/
def State.JobsOnly (s t : State) : Prop :=
  t = { s with rings := t.rings, vectors := t.vectors, messages := t.messages, hostMem := t.hostMem
               wires := t.wires, partitions := t.partitions, rims := t.rims }

theorem State.JobsOnly.refl (s : State) : s.JobsOnly s := rfl

theorem State.JobsOnly.trans {s t u : State} (h : s.JobsOnly t) (g : t.JobsOnly u) : s.JobsOnly u := by
  rw [JobsOnly, g, h]

theorem State.HostOnly.jobsOnly {s t : State} (h : s.HostOnly t) : s.JobsOnly t := by
  rw [JobsOnly, h]

theorem State.WiresOnly.jobsOnly {s t : State} (h : s.WiresOnly t) : s.JobsOnly t := by
  rw [JobsOnly, h]

theorem State.JobsOnly.foldl {α : Type} {f : State → α → State} (step : ∀ t a, State.JobsOnly t (f t a)) (l : List α)
    (s : State) : s.JobsOnly (l.foldl f s) := by
  induction l generalizing s with
  | nil => exact .refl s
  | cons a l ih => exact (step s a).trans (ih _)

theorem State.jobsOnly_setPartition (s : State) (p : Nat) (x : Partition) : s.JobsOnly (s.setPartition p x) := rfl

theorem State.jobsOnly_setRim (s : State) (k : Nat) (r : Rim) : s.JobsOnly (s.setRim k r) := rfl

theorem State.jobsOnly_clearRims (s : State) (x : Partition) : s.JobsOnly (s.clearRims x) := by
  unfold clearRims
  refine JobsOnly.foldl (fun t k => ?_) _ s
  exact t.jobsOnly_setRim k _

theorem State.jobsOnly_closeCommands (s : State) (p c : Nat) (st : Status) (detail : Nat) :
    s.JobsOnly (s.closeCommands p c st detail) := by
  unfold closeCommands
  split
  · exact .refl s
  · split
    · exact .refl s
    · dsimp only
      refine JobsOnly.trans ?_ (State.hostOnly_finishAll _ _ .killed 0 []).jobsOnly
      refine JobsOnly.trans ?_ (State.hostOnly_finishAll _ _ st detail _).jobsOnly
      split
      · exact (s.jobsOnly_setPartition p _).trans (State.hostOnly_setRing _ _ _).jobsOnly
      · exact s.jobsOnly_setPartition p _

/-- Where the running context's job ends the partition's work is taken down with it. -/
theorem State.jobsOnly_unload (s : State) (p c : Nat) (x : Partition) (clear : Bool) :
    s.JobsOnly (if x.running = some c then
        if clear then ((s.dropAll p x).clearRims x).setPartition p x.cleared
        else (s.dropAll p x).setPartition p { x with run := { x.run with phase := .idle, holds := [] } }
      else s.setPartition p x) := by
  split
  · split
    · exact (s.wiresOnly_dropAll p x).jobsOnly.trans
        ((State.jobsOnly_clearRims _ x).trans (State.jobsOnly_setPartition _ p _))
    · exact (s.wiresOnly_dropAll p x).jobsOnly.trans (State.jobsOnly_setPartition _ p _)
  · exact s.jobsOnly_setPartition p x

theorem State.jobsOnly_endJob (s : State) (p c : Nat) (how : JobEnd) (st : Status) (detail : Nat) (clear : Bool) :
    s.JobsOnly (s.endJob p c how st detail clear) := by
  unfold endJob
  split
  · exact .refl s
  next x _ =>
  split
  · exact .refl s
  split
  · exact s.jobsOnly_closeCommands p c st detail
  dsimp only
  have closed := (s.jobsOnly_setPartition p (x.count c how.counter 1)).trans (State.jobsOnly_closeCommands _ p c st detail)
  generalize (s.setPartition p (x.count c how.counter 1)).closeCommands p c st detail = t at closed ⊢
  split
  · exact closed
  split
  · exact closed
  exact closed.trans (t.jobsOnly_unload p c _ clear)

theorem State.jobsOnly_killJobs (s : State) (p : Nat) (x : Partition) (st : Status) : s.JobsOnly (s.killJobs p x st) := by
  unfold killJobs
  refine JobsOnly.foldl (fun t e => ?_) _ s
  exact t.jobsOnly_endJob p e.1 .killed st 0 false

theorem State.jobsOnly_stopPartition (s : State) (p : Nat) (x : Partition) (st : Status) (by_ : Option (Nat × Nat)) :
    s.JobsOnly (s.stopPartition p x st by_) := by
  unfold stopPartition holdLeases
  exact ((s.jobsOnly_setPartition p _).trans (State.jobsOnly_killJobs _ p x st)).trans (State.hostOnly_endCommands _ p st by_).jobsOnly

theorem State.jobsOnly_beginTeardown (s : State) (p : Nat) : s.JobsOnly (s.beginTeardown p) := by
  unfold beginTeardown
  split
  · exact .refl s
  · exact ((s.wiresOnly_dropAll p _).jobsOnly.trans (State.jobsOnly_setPartition _ p _)).trans
      (State.wiresOnly_raise _ p _).jobsOnly

/-! ### Heartbeats and lost dies -/

/-- What a map that lists a function over keys holds at a key. -/
theorem Sparse.get?_map_keys {α : Type} (f : Nat → α) (l : List Nat) (n : Nat) :
    Sparse.get? (l.map (fun n => (n, f n))) n = if n ∈ l then some (f n) else none := by
  induction l with
  | nil => rfl
  | cons m l ih =>
    unfold Sparse.get? at ih ⊢
    by_cases same : m = n
    · simp [same]
    · simpa [same, Ne.symm same] using ih

theorem retiredIn_retire (s : State) (n g c : Nat) :
    ((s.retire n).retiredIn g).getLsbD c =
      ((s.retiredIn g).getLsbD c || decide (g = (skeinOf n).1 ∧ c = (skeinOf n).2 ∧ c < 18)) := by
  have read : (s.retire n).retiredIn g =
      if g = (skeinOf n).1 then s.retiredIn (skeinOf n).1 ||| (1#18 <<< (skeinOf n).2) else s.retiredIn g :=
    Sparse.getD_set _ _ _ _ _
  rw [read]
  by_cases here : g = (skeinOf n).1
  · subst here
    rw [if_pos rfl, BitVec.getLsbD_or, BitVec.getLsbD_shiftLeft]
    congr 1
    by_cases same : c = (skeinOf n).2
    · subst same
      simp
    · have one : (1#18).getLsbD (c - (skeinOf n).2) = decide (c - (skeinOf n).2 = 0) := by
        rw [show (1#18) = BitVec.ofNat 18 1 from rfl]
        simp
      simp only [one, true_and, same, false_and, decide_false]
      by_cases lt : c < (skeinOf n).2
      · simp [lt]
      · simp
        omega
  · rw [if_neg here]
    simp [here]

/-! ### Diagnosis -/

/-- `t` is `s` but for the spare record, which retires no fewer skeins. -/
def State.Retires (s t : State) : Prop :=
  t = { s with spares := t.spares } ∧
    ∀ g c, (s.retiredIn g).getLsbD c = true → (t.retiredIn g).getLsbD c = true

theorem State.Retires.refl (s : State) : s.Retires s := ⟨rfl, fun _ _ h => h⟩

theorem State.Retires.trans {s t u : State} (h : s.Retires t) (g : t.Retires u) : s.Retires u := by
  obtain ⟨h, more⟩ := h
  obtain ⟨g, yet⟩ := g
  exact ⟨by rw [g, h], fun a c bit => yet a c (more a c bit)⟩

theorem State.Retires.foldl {α : Type} {f : State → α → State} (step : ∀ t a, State.Retires t (f t a)) (l : List α)
    (s : State) : s.Retires (l.foldl f s) := by
  induction l generalizing s with
  | nil => exact .refl s
  | cons a l ih => exact (step s a).trans (ih _)

theorem State.retires_retire (s : State) (n : Nat) : s.Retires (s.retire n) :=
  ⟨rfl, fun g c bit => by rw [retiredIn_retire, bit, Bool.true_or]⟩

theorem State.retires_failDie (s : State) (n : Nat) : s.Retires (s.failDie n) := by
  unfold failDie
  split
  · exact s.retires_retire n
  · split
    · exact ⟨rfl, fun _ _ h => h⟩
    · exact .refl s

theorem State.retires_noteRepeat (s : State) (n : Nat) : s.Retires (s.noteRepeat n) := by
  unfold noteRepeat
  extract_lets again
  split
  · exact s.retires_retire n
  · exact ⟨rfl, fun _ _ h => h⟩

theorem State.retires_loseLink (s : State) (a b : Nat) : s.Retires (s.loseLink a b) := by
  unfold loseLink
  extract_lets skein
  split
  · split
    · exact s.retires_retire a
    · split
      · exact s.retires_retire b
      · exact s.retires_retire (max a b)
  split
  · exact s.retires_retire a
  split
  · exact s.retires_retire b
  split
  · exact s.retires_failDie b
  split
  · exact s.retires_failDie a
  · exact .refl s

/-- A skein among the dies that fail is retired. -/
theorem retired_of_failDie {s : State} {l : List Nat} {n : Nat} (mem : n ∈ l) (skein : Part.fitsSkein s.part n = true) :
    ((l.foldl (fun t n => t.failDie n) s).retiredIn (skeinOf n).1).getLsbD (skeinOf n).2 = true := by
  induction l generalizing s with
  | nil => cases mem
  | cons m l ih =>
    rw [List.foldl_cons]
    rcases List.mem_cons.1 mem with rfl | later
    · have column : (skeinOf n).2 < 18 := Nat.mod_lt _ (by decide)
      refine (State.Retires.foldl (fun t n => t.retires_failDie n) l _).2 _ _ ?_
      rw [State.failDie, if_pos skein, retiredIn_retire]
      simp [column]
    · refine ih later ?_
      rw [(s.retires_failDie m).1]
      exact skein

/-- What diagnosis makes of the spare record: none is taken back, and every skein among the sources that fails is retired. -/
theorem State.diagnose_spec (s : State) (failed : List Nat) :
    s.Retires (s.diagnose failed) ∧
      ∀ e ∈ s.diagSources, ∀ n, n ∈ sourceEnds e → n ∈ failed → Part.fitsSkein s.part n = true →
        ((s.diagnose failed).retiredIn (skeinOf n).1).getLsbD (skeinOf n).2 = true := by
  unfold diagnose
  extract_lets bad links repeats t u
  have first : s.Retires t := Retires.foldl (fun t n => t.retires_failDie n) _ s
  have second : t.Retires u := Retires.foldl (fun t n => t.retires_noteRepeat n) _ t
  have third : u.Retires ((links.filter (fun l => !bad l.1 && !bad l.2)).foldl (fun t l => t.loseLink l.1 l.2) u) :=
    Retires.foldl (fun t (l : Nat × Nat) => t.retires_loseLink l.1 l.2) _ u
  refine ⟨(first.trans second).trans third, fun e mem n end_ fails skein => (second.trans third).2 _ _ ?_⟩
  exact retired_of_failDie (List.mem_filter.2 ⟨List.mem_flatMap.2 ⟨e, mem, end_⟩, List.elem_eq_true_of_mem fails⟩) skein

/-- The mesh as derived: nothing else changes. -/
theorem State.remesh_spec (s : State) :
    s.remesh = { s with meshW := s.remesh.meshW, meshH := s.remesh.meshH, row0 := s.remesh.row0 } ∧
    (s.deriveMesh = none → s.remesh.meshW = 0 ∧ s.remesh.meshH = 0) ∧
    ∀ h r, s.deriveMesh = some (h, r) → s.remesh.meshW = 16 ∧ s.remesh.meshH = h ∧ s.remesh.row0 = r := by
  unfold remesh
  cases derived : s.deriveMesh with
  | none => exact ⟨rfl, fun _ => ⟨rfl, rfl⟩, fun _ _ h => nomatch h⟩
  | some e =>
    obtain ⟨h, r⟩ := e
    refine ⟨rfl, fun none_ => absurd none_ (Option.some_ne_none _), fun h r same => ?_⟩
    cases same
    exact ⟨rfl, rfl, rfl⟩

/-- The end of a diagnosis, before the partitions are told of the new mesh. -/
def State.diagnosed (s : State) (failed : List Nat) : State :=
  let t := (s.diagnose failed).remesh
  { t with
    diag := false, diagSources := [], meshValid := true, heartbeats := []
    spares := { t.spares with
      remaps := if t.spares.retired != s.spares.retired || t.spares.rimLost != s.spares.rimLost then t.spares.remaps + 1
                else t.spares.remaps } }

theorem exec_diagnosis_due {s : State} (due : s.diag = true) (failed : List Node) :
    ∃ u, execDiagnosis failed s = .next u ∧ (s.diagnosed failed).JobsOnly u := by
  refine ⟨_, if_neg (not_not.2 due), ?_⟩
  refine State.JobsOnly.foldl (fun u e => ?_) _ _
  split
  · exact .refl u
  · split
    · exact u.jobsOnly_setPartition e.1 _
    · exact (u.jobsOnly_stopPartition e.1 e.2 .noPartition none).trans (State.jobsOnly_beginTeardown _ e.1)

/-- Settles O36: heartbeats key by key, die loss by what the die is, and diagnosis by what it makes of the spare record, which the
end of the partitions' jobs leaves alone. -/
theorem lostDiesAreReplaced : Obligations.LostDiesAreReplaced := by
  unfold Obligations.LostDiesAreReplaced
  intro s
  refine ⟨fun silent ready => ⟨_, if_neg (not_not.2 ready), rfl, fun n low => ?_⟩, fun n cause ready missed => ?_, ?_⟩
  · rw [Sparse.getD, Sparse.get?_map_keys (fun n => min 3 (Sparse.getD 0 s.heartbeats n + 1))]
    have member : n ∈ (List.range 320).filter
          (fun n => silent.contains n && (Part.fitsSkein s.part n || Part.fitsRim s.part n)) ↔
        n ∈ silent ∧ (Part.fitsSkein s.part n = true ∨ Part.fitsRim s.part n = true) := by
      simp [low]
    simp only [member]
    split <;> rfl
  · have lost : ¬ (s.stage ≠ .ready ∨
        ¬ (cause != .heartbeats || decide (3 ≤ Sparse.getD 0 s.heartbeats n)) = true) := by
      rw [not_or, not_not, not_not]
      refine ⟨ready, ?_⟩
      by_cases beats : cause = .heartbeats
      · simp [missed beats]
      · simp [beats]
    intro skein
    refine ⟨fun rim there => ?_, fun rimless fits there => ⟨fun serves => ?_, fun spare => ⟨s.retire n, ?_, rfl, ?_⟩⟩⟩
    · refine (if_neg lost).trans ((if_pos rim).trans (if_neg ?_))
      rw [there]
      exact Bool.false_ne_true
    · exact (if_neg lost).trans ((if_neg (by simp [rimless])).trans
        ((if_neg (not_or.2 ⟨not_not.2 fits, (Bool.eq_false_iff.1 there)⟩)).trans (if_pos serves)))
    · exact (if_neg lost).trans ((if_neg (by simp [rimless])).trans
        ((if_neg (not_or.2 ⟨not_not.2 fits, (Bool.eq_false_iff.1 there)⟩)).trans (if_neg (by simp [spare]))))
    · exact fun g c => retiredIn_retire s n g c
  · intro failed due
    obtain ⟨u, runs, only⟩ := exec_diagnosis_due due failed
    obtain ⟨⟨frame, kept⟩, retired⟩ := s.diagnose_spec failed
    obtain ⟨mesh, empty, whole⟩ := (s.diagnose failed).remesh_spec
    have spares : (s.diagnose failed).remesh.spares = (s.diagnose failed).spares := by rw [mesh]
    have retiredIn (g : Nat) : u.retiredIn g = (s.diagnose failed).retiredIn g :=
      (congrArg (State.retiredIn · g) only :).trans (congrArg (fun z : Spares => Sparse.getD 0 z.retired g) spares :)
    have part : u.part = (s.diagnose failed).part := (congrArg State.part only :).trans (congrArg State.part mesh :)
    have derive : u.deriveMesh = (s.diagnose failed).deriveMesh := by
      unfold State.deriveMesh State.groupServes
      simp only [retiredIn, part]
    have meshW : u.meshW = (s.diagnose failed).remesh.meshW := (congrArg State.meshW only :)
    have meshH : u.meshH = (s.diagnose failed).remesh.meshH := (congrArg State.meshH only :)
    have row0 : u.row0 = (s.diagnose failed).remesh.row0 := (congrArg State.row0 only :)
    have fault : u.hwFault = s.hwFault :=
      ((congrArg State.hwFault only :).trans (congrArg State.hwFault mesh :)).trans (congrArg State.hwFault frame :)
    have node : u.hwNode = s.hwNode :=
      ((congrArg State.hwNode only :).trans (congrArg State.hwNode mesh :)).trans (congrArg State.hwNode frame :)
    refine ⟨u, runs, (congrArg State.diag only :), (congrArg State.diagSources only :),
      (congrArg State.meshValid only :), (congrArg State.heartbeats only :), fault, node, ?_, ?_, ?_, ?_⟩
    · rw [derive, meshW, meshH]
      exact empty
    · rw [derive, meshW, meshH, row0]
      exact whole
    · intro g c
      rw [retiredIn]
      exact kept g c
    · intro e mem n named fails skein
      rw [retiredIn]
      refine retired e mem n ?_ fails skein
      unfold sourceEnds
      split
      next link => rcases named with rfl | ⟨-, rfl⟩ <;> simp
      next plain => rcases named with rfl | ⟨link, -⟩
                    · simp
                    · exact absurd link plain

end Sys2Proof.Machine
end

section
/-! PROOFS. Supply, the terms of the power limit, and temperatures. -/

namespace Sys2Proof.Machine

/-! ### Power comes and goes -/

/-- Without power-good, the contacts of the link and of the I3C target are high-impedance. -/
theorem State.contact_silent {s : State} (off : s.power ≠ .good) (c : Contact)
    (named : c = .tx ∨ c = .rx ∨ c = .refclk ∨ c = .scl ∨ c = .sda) : s.contact c = .highZ := by
  have dark : (s.power == .good) = false := beq_false_of_ne off
  rcases named with rfl | rfl | rfl | rfl | rfl <;> simp [State.contact, dark]

/-- What every loss of die power leaves of the module. -/
def State.Off (s t : State) : Prop :=
  t.partitions = [] ∧ t.rims = [] ∧ t.rings = [] ∧ t.stage = .reset ∧ t.session = none ∧
  t.linkUp = false ∧ t.envelope = s.part.floorW ∧ t.part = s.part ∧ t.firmware = s.firmware ∧
  t.activeSlot = s.activeSlot ∧ t.keyRevoked = s.keyRevoked ∧ t.minSvn = s.minSvn ∧ t.bootCount = s.bootCount ∧
  t.spares = s.spares ∧ t.hostMem = s.hostMem ∧ t.pending = s.pending

theorem State.off_unpowered (s : State) (how : Power) : s.Off (s.unpowered how) :=
  ⟨rfl, rfl, rfl, rfl, rfl, rfl, rfl, rfl, rfl, rfl, rfl, rfl, rfl, rfl, rfl, rfl⟩

/-- Settles O37: each event is the loss of die power, with what the event itself sets. -/
theorem powerComesAndGoes : Obligations.PowerComesAndGoes := by
  unfold Obligations.PowerComesAndGoes
  intro s off silent
  have unpowered (how : Power) : off (s.unpowered how) := s.off_unpowered how
  refine ⟨fun from_ released => ?_, fun good => ?_, ?_, fun good => ?_, fun dark there => ?_, fun held emergency => ?_,
    fun held other => ?_⟩
  · refine ⟨_, if_neg ?_, unpowered .good, rfl, rfl, rfl, rfl⟩
    rw [released]
    rintro (⟨waits, out, removed⟩ | held)
    · rcases from_ with h | h | h
      · exact waits h
      · exact out h
      · exact removed h
    · cases held
  · exact ⟨_, if_pos (.inl good), unpowered .inputOut, State.contact_silent (by simp [State.unpowered]), rfl, rfl⟩
  · exact ⟨_, rfl, unpowered .removed, State.contact_silent (by simp [State.unpowered]), rfl, rfl⟩
  · exact ⟨_, if_pos good, unpowered .emergency, State.contact_silent (by simp [State.unpowered]), rfl, rfl, rfl⟩
  · exact if_neg dark
  · exact ⟨_, (if_neg (not_not.2 held)).trans (if_pos emergency), unpowered .good, rfl, rfl, rfl⟩
  · exact (if_neg (not_not.2 held)).trans (if_neg other)

/-! ### The terms of the power limit -/

/-- The bits of a set named by a list of numbers. -/
theorem getLsbD_foldl_or_shift (l : List Nat) (v : BitVec 5) (i : Nat) (small : i < 5) :
    (l.foldl (fun v i => v ||| (1#5 <<< i)) v).getLsbD i = (v.getLsbD i || decide (i ∈ l)) := by
  induction l generalizing v with
  | nil => simp
  | cons j l ih =>
    rw [List.foldl_cons, ih, BitVec.getLsbD_or, BitVec.getLsbD_shiftLeft]
    by_cases same : i = j
    · subst same
      simp [small]
    · have bit : (1#5).getLsbD (i - j) = decide (i - j = 0) := by simp
      rw [bit]
      rcases Nat.lt_or_gt_of_ne same with lt | gt
      · simp [lt, same]
      · simp [show i - j ≠ 0 by omega, same]

/-- The smallest of a list and a first value is at most each, and is one of them. -/
theorem foldl_min_spec (l : List Nat) (a : Nat) :
    (∀ w ∈ a :: l, l.foldl min a ≤ w) ∧ l.foldl min a ∈ a :: l := by
  induction l generalizing a with
  | nil => simp
  | cons b l ih =>
    obtain ⟨least, mem⟩ := ih (min a b)
    rw [List.foldl_cons]
    have first := least (min a b) List.mem_cons_self
    refine ⟨fun w h => ?_, ?_⟩
    · rcases List.mem_cons.1 h with rfl | h
      · exact first.trans (Nat.min_le_left _ _)
      · rcases List.mem_cons.1 h with rfl | h
        · exact first.trans (Nat.min_le_right _ _)
        · exact least w (List.mem_cons_of_mem _ h)
    · rcases List.mem_cons.1 mem with same | mem
      · rw [same]
        rcases Nat.le_total a b with le | le
        · simp [Nat.min_eq_left le]
        · simp [Nat.min_eq_right le]
      · simp [mem]

theorem State.mem_limitTerms (s : State) (i w : Nat) : (i, w) ∈ s.limitTerms ↔
    ((i = 0 ∧ w = s.envelope) ∨ (i = 1 ∧ w = 2200 * s.convertersOk) ∨
      (i = 2 ∧ s.vin ≠ 0 ∧ w = s.vin * s.part.maxAmps / 100) ∨ (i = 3 ∧ w = s.coolantLimit) ∨
      (i = 4 ∧ s.throt = true ∧ w = s.part.floorW)) := by
  unfold State.limitTerms
  by_cases dark : s.vin = 0 <;> by_cases slow : s.throt = true <;> simp [dark, slow]

/-- The limit is the smallest term. -/
theorem State.relimit_plim_spec (s : State) :
    (∀ i w, (i, w) ∈ s.limitTerms → s.relimit.plim ≤ w) ∧ ∃ i, (i, s.relimit.plim) ∈ s.limitTerms := by
  obtain ⟨least, mem⟩ := foldl_min_spec (s.limitTerms.map (·.2)) s.envelope
  have first : (0, s.envelope) ∈ s.limitTerms := (s.mem_limitTerms _ _).2 (.inl ⟨rfl, rfl⟩)
  refine ⟨fun i w h => least w (List.mem_cons_of_mem _ (List.mem_map.2 ⟨(i, w), h, rfl⟩)), ?_⟩
  rcases List.mem_cons.1 mem with same | mem
  · exact ⟨0, by rw [show s.relimit.plim = s.envelope from same]; exact first⟩
  · obtain ⟨⟨i, w⟩, h, same⟩ := List.mem_map.1 mem
    exact ⟨i, by rw [show s.relimit.plim = w from same.symm]; exact h⟩

theorem State.relimit_cause_bit (s : State) (i : Nat) (small : i < 5) :
    s.relimit.cause.getLsbD i = true ↔ (i, s.relimit.plim) ∈ s.limitTerms := by
  refine (Bool.eq_iff_iff.1 (getLsbD_foldl_or_shift _ 0 i small)).trans ?_
  rw [show (0 : BitVec 5).getLsbD i = false by simp, Bool.false_or, decide_eq_true_iff]
  constructor
  · intro h
    obtain ⟨⟨j, w⟩, mem, same⟩ := List.mem_map.1 h
    obtain ⟨mem, equal⟩ := List.mem_filter.1 mem
    rw [← show w = s.relimit.plim from beq_iff_eq.1 equal, ← show j = i from same]
    exact mem
  · intro h
    exact List.mem_map.2 ⟨_, List.mem_filter.2 ⟨h, beq_self_eq_true _⟩, rfl⟩

/-- What a map whose listed values change holds at a key. -/
theorem Sparse.get?_mapVals {α : Type} (f : Nat → α → α) (m : SMap α) (k : Nat) :
    Sparse.get? (Sparse.mapVals f m) k = (Sparse.get? m k).map (f k) := by
  induction m with
  | nil => rfl
  | cons e m ih =>
    unfold Sparse.get? Sparse.mapVals at ih ⊢
    by_cases same : e.1 = k
    · simp [same]
    · simpa [same] using ih

/-- Settles O38: the limit and its causes by membership in the list of terms, and the events by their guards. -/
theorem termsLimitPower : Obligations.TermsLimitPower := by
  unfold Obligations.TermsLimitPower
  refine ⟨?_, fun s => ⟨fun i lt => if_neg (Nat.not_le.2 lt), fun good up free => ?_, fun held late => ?_,
    fun held early => if_pos (.inr early)⟩⟩
  · intro s t term
    obtain ⟨least, i, attained⟩ := s.relimit_plim_spec
    exact ⟨fun i w h => least i w ((s.mem_limitTerms i w).2 h), ⟨i, _, (s.mem_limitTerms i _).1 attained, rfl⟩,
      fun i small => (s.relimit_cause_bit i small).trans (s.mem_limitTerms i _)⟩
  · refine ⟨_, if_neg (by simp [good, up, free]), rfl, rfl, ?_, rfl, fun p x there => ?_⟩
    · refine (State.relimit_plim_spec _).1 4 _ ((State.mem_limitTerms _ 4 _).2 ?_)
      exact .inr (.inr (.inr (.inr ⟨rfl, rfl, rfl⟩)))
    · exact (Sparse.get?_mapVals (fun _ (x : Partition) => { x with credit := min x.credit 0 }) s.partitions p).trans
        (congrArg (Option.map _) there)
  · refine ⟨_, if_neg (by simp [held]; omega), rfl, rfl, rfl, ?_⟩
    cases s.storedEnvelope <;> rfl

/-! ### Temperatures -/

theorem State.rehot_rims (s : State) (p : Nat) (hot : Bool) : (s.rehot p hot).rims = s.rims := by
  unfold State.rehot
  split <;> rfl

theorem State.rehot_junctions (s : State) (p : Nat) (hot : Bool) : (s.rehot p hot).junctions = s.junctions := by
  unfold State.rehot
  split <;> rfl

/-- A reading at or above its threshold makes the partition hot. -/
theorem State.rehot_hot {s : State} {p : Nat} {x : Partition} (there : s.partition? p = some x) :
    ∃ y, (s.rehot p true).partition? p = some y ∧ y.hot = true := by
  refine ⟨{ x with hot := true || (x.hot && !s.cooled x) }, ?_, rfl⟩
  rw [State.rehot, there]
  exact (State.partition?_setPartition _ _ _ _).trans (if_pos rfl)

/-- The partition of the die at a node is one of the state. -/
theorem State.partition?_of_dieAtNode {s : State} {n p d : Nat} (found : s.dieAtNode n = some (p, d)) :
    ∃ x, s.partition? p = some x := by
  unfold State.dieAtNode at found
  obtain ⟨e, mem, here⟩ := List.exists_of_findSome?_eq_some found
  obtain ⟨d', -, same⟩ := Option.map_eq_some_iff.1 here
  have key : e.1 = p := congrArg Prod.fst same
  cases listed : s.partitions.find? (fun e => e.1 == p) with
  | none => exact absurd (List.find?_eq_none.1 listed e mem) (by simp [key])
  | some g => exact ⟨g.2, by rw [State.partition?, Sparse.get?, listed]; rfl⟩

/-- What follows a reading of a stack below its trip, before a fault: the rim's thermal step, the partition's hot hold, the limit. -/
def State.stackRead (s : State) (rim : Nat) (r : Rim) (t : Int) : State :=
  (match (s.setRim rim r).rimOwner rim with
    | some (p, _) => (s.setRim rim r).rehot p (decide (celsius 103 ≤ t))
    | none => s.setRim rim r).relimit

theorem State.stackRead_rim (s : State) (rim k : Nat) (r : Rim) (t : Int) :
    (s.stackRead rim r t).rim k = if k = rim then r else s.rim k := by
  have rims : (s.stackRead rim r t).rims = (s.setRim rim r).rims := by
    unfold State.stackRead
    split
    · exact State.rehot_rims _ _ _
    · rfl
  have read : (s.stackRead rim r t).rim k = (s.setRim rim r).rim k := congrArg (fun m => Sparse.getD Rim.reset m k) rims
  exact read.trans (State.rim_setRim _ _ _ _)

theorem exec_stackTemperatureSample_trip {s : State} (good : s.power = .good) {rim : RimId} (there : s.part.hasRim rim = true)
    {sensor : Int} (hot : celsius 110 ≤ stackReading sensor) : execStackTemperatureSample rim sensor s = .next s.trip :=
  (if_neg (by simp [good, there])).trans (if_pos hot)

theorem exec_stackTemperatureSample_stop {s : State} (good : s.power = .good) {rim : RimId} (there : s.part.hasRim rim = true)
    {sensor : Int} (below : stackReading sensor < celsius 110) (hot : celsius 105 ≤ stackReading sensor)
    (runs : (s.rim rim).thermal ≠ .stopped) :
    execStackTemperatureSample rim sensor s =
      .next ((s.stackRead rim { (s.rim rim).thermalStep (stackReading sensor) with
        thermal := .stopped, outstanding := [], writes := [] } (stackReading sensor)).hardFault .hwStackTemp (rimNode rim) 0) := by
  have stop : (decide (celsius 105 ≤ stackReading sensor) && (s.rim rim).thermal != .stopped) = true := by
    simp [hot, runs]
  rw [execStackTemperatureSample, if_neg (by simp [good, there])]
  dsimp only
  rw [if_neg (by omega), stop] <;> rfl

theorem exec_stackTemperatureSample_cool {s : State} (good : s.power = .good) {rim : RimId} (there : s.part.hasRim rim = true)
    {sensor : Int} (cool : stackReading sensor < celsius 105) :
    execStackTemperatureSample rim sensor s =
      .next (s.stackRead rim ((s.rim rim).thermalStep (stackReading sensor)) (stackReading sensor)) := by
  have goes : (decide (celsius 105 ≤ stackReading sensor) && (s.rim rim).thermal != .stopped) = false := by
    simp [cool]
  rw [execStackTemperatureSample, if_neg (by simp [good, there])]
  dsimp only
  rw [if_neg (by unfold celsius at *; omega), goes] <;> rfl

/-- Settles O39: by the thresholds; a sample below its trip only writes what it says of the rim, the partition and the limit. -/
theorem temperaturesAct : Obligations.TemperaturesAct := by
  unfold Obligations.TemperaturesAct
  intro s good tripped
  have trips {o : Out} (trip : o = .next s.trip) : tripped o := ⟨_, trip, rfl, rfl, rfl, rfl, rfl⟩
  refine ⟨fun rim sensor there => ?_, fun n junction => ⟨fun hot => ?_, fun cool => ?_⟩,
    fun inlet outlet => ⟨fun hot => ?_, fun cool => ?_⟩, fun i degrees there => ⟨fun hot => ?_, fun cool => ?_⟩⟩
  · intro reading
    refine ⟨fun hot => ?_, fun hot below runs => ?_, fun cool => ?_⟩
    · exact trips (exec_stackTemperatureSample_trip good there (sensor := sensor) hot)
    · refine ⟨_, exec_stackTemperatureSample_stop good there below hot runs, ?_⟩
      rw [State.stackRead_rim, if_pos rfl]
      exact ⟨rfl, rfl, rfl⟩
    · refine ⟨_, exec_stackTemperatureSample_cool good there cool, ?_⟩
      rw [State.stackRead_rim, if_pos rfl]
      refine ⟨rfl, rfl, fun k other => ?_, fun runs warm => ?_, fun none_ warm below => ?_, fun none_ below => ?_⟩
      · rw [State.stackRead_rim, if_neg other]
      · change 1600 ≤ stackReading sensor at warm
        simp [Rim.thermalStep, runs, celsius, warm]
      · change 1520 ≤ stackReading sensor at warm
        change stackReading sensor < 1600 at below
        have cap : ¬ 1600 ≤ stackReading sensor := Int.not_le.2 below
        simp [Rim.thermalStep, none_, celsius, warm, cap]
      · change stackReading sensor < 1520 at below
        have cap50 : ¬ 1600 ≤ stackReading sensor := by omega
        have cap75 : ¬ 1520 ≤ stackReading sensor := Int.not_le.2 below
        simp [Rim.thermalStep, none_, celsius, cap50, cap75]
  · exact trips ((if_neg (not_not.2 good)).trans (if_pos hot))
  · have read : execDieTemperatureSample n junction s =
        match s.dieAtNode n with
        | none => .next { s with junctions := Sparse.set s.junctions n junction }
        | some (p, _) => .next (State.rehot { s with junctions := Sparse.set s.junctions n junction } p
            (decide (celsius 105 ≤ junction))).relimit :=
      (if_neg (not_not.2 good)).trans (if_neg (Int.not_le.2 cool))
    cases found : s.dieAtNode n with
    | none =>
      rw [found] at read
      exact ⟨_, read, (Sparse.get?_set _ _ _ _).trans (if_pos rfl), rfl, fun p d h => nomatch h⟩
    | some e =>
      obtain ⟨p, d⟩ := e
      rw [found] at read
      refine ⟨_, read, ?_, State.rehot_rims _ _ _, fun p' d' same hot => ?_⟩
      · exact (congrArg (Sparse.get? · n) (State.rehot_junctions _ _ _)).trans
          ((Sparse.get?_set _ _ _ _).trans (if_pos rfl))
      · cases same
        obtain ⟨x, here⟩ := State.partition?_of_dieAtNode found
        rw [show decide (celsius 105 ≤ junction) = true from decide_eq_true hot]
        exact State.rehot_hot here
  · exact trips ((if_neg (not_not.2 good)).trans (if_pos hot))
  · exact (if_neg (not_not.2 good)).trans (if_neg (Int.not_le.2 cool))
  · exact trips (if_pos ⟨good, there, hot⟩)
  · exact if_neg (fun h => absurd h.2.2 (Int.not_le.2 cool))

end Sys2Proof.Machine
end

section
/-! PROOFS. Completions, watched lines, ring start, and the BAR0 window. -/

namespace Sys2Proof.Machine

/-! ### Host memory and completions -/

/-- The bytes just written read back. -/
theorem State.hostBytes_hostWrite_same (s : State) (a : Nat) (bs : List Byte) :
    (s.hostWrite a bs).hostBytes a bs.length = bs := by
  refine List.ext_getElem (by simp [State.hostBytes]) fun i h₁ h₂ => ?_
  have inside : a ≤ a + i ∧ a + i < a + bs.length := by omega
  simp only [State.hostBytes, List.getElem_map, List.getElem_range]
  rw [State.hostByte_hostWrite, if_pos inside, Nat.add_sub_cancel_left, List.getD_eq_getElem]

/-- Bytes that a write does not reach. -/
theorem State.hostBytes_hostWrite_apart (s : State) {a b n : Nat} {bs : List Byte}
    (apart : a + bs.length ≤ b ∨ b + n ≤ a) : (s.hostWrite a bs).hostBytes b n = s.hostBytes b n := by
  refine List.map_congr_left fun i mem => ?_
  have lt := List.mem_range.1 mem
  rw [State.hostByte_hostWrite, if_neg (by omega)]

theorem length_completionBytes (opcode tag part ctx phase : Nat) (st : Status) (detail : Nat) (result : List W32) :
    (completionBytes opcode tag part ctx phase st detail result).length = 64 := by
  have words : ((List.range 12).flatMap (fun i => leBytes 4 (result.getD i 0).toNat)).length = 48 := by
    rw [List.length_flatMap, List.sum_eq_card_nsmul _ 4 (by simp [leBytes_length])]
    simp
  simp only [completionBytes, List.length_append, leBytes_length, words]

theorem State.interrupt_rings (s : State) (v : Nat) : (s.interrupt v).rings = s.rings := by
  unfold State.interrupt
  dsimp only
  split
  · rfl
  · split <;> rfl

theorem State.interrupt_hostMem (s : State) (v : Nat) : (s.interrupt v).hostMem = s.hostMem := by
  unfold State.interrupt
  dsimp only
  split
  · rfl
  · split <;> rfl

/-- Posting leaves the rings and host memory as the entry itself does, whether an interrupt follows or not. -/
theorem State.postCompletion_spec (s : State) (k : Nat) (u : Unposted) :
    let t := (s.setRing k { s.ring k with reserved := (s.ring k).reserved - 1 }).postEntry k u.opcode u.entry.tag.toNat
      u.entry.part.toNat u.entry.ctx.toNat u.status u.detail u.result
    (s.postCompletion k u).rings = t.rings ∧ (s.postCompletion k u).hostMem = t.hostMem := by
  unfold State.postCompletion
  dsimp only
  split
  · exact ⟨State.interrupt_rings _ _, State.interrupt_hostMem _ _⟩
  · exact ⟨rfl, rfl⟩

theorem State.ring_congr {s t : State} (same : s.rings = t.rings) (k : Nat) : s.ring k = t.ring k :=
  congrArg (Sparse.getD Ring.idle · k) same

theorem State.hostByte_congr {s t : State} (same : s.hostMem = t.hostMem) (a : Nat) : s.hostByte a = t.hostByte a :=
  congrArg (fun m => (Sparse.get? m a).getD (Config.hostByte a)) same

theorem State.hostBytes_congr {s t : State} (same : s.hostMem = t.hostMem) (a n : Nat) : s.hostBytes a n = t.hostBytes a n :=
  List.map_congr_left fun _ _ => State.hostByte_congr same _

/-- What one entry leaves in host memory and of the rings. -/
theorem State.postEntry_spec (s : State) (k opcode tag part ctx : Nat) (st : Status) (detail : Nat) (result : List W32) :
    let r := s.ring k
    let at_ := r.cpl + 64 * (r.cplProd.toNat % r.size)
    let bytes := completionBytes opcode tag part ctx ((r.cplProd.toNat / r.size + 1) % 2) st detail result
    let t := s.postEntry k opcode tag part ctx st detail result
    t.ring k = { r with cplProd := r.cplProd + 1 } ∧ (∀ j, j ≠ k → t.ring j = s.ring j) ∧
    (∀ i, i < 64 → r.ctrl + 76 ≤ at_ + i ∨ at_ + i < r.ctrl + 72 → t.hostByte (at_ + i) = bytes.getD i 0) ∧
    t.hostBytes (r.ctrl + 72) 4 = leBytes 4 (r.cplProd + 1).toNat ∧
    (∀ a, ¬ (at_ ≤ a ∧ a < at_ + 64) → ¬ (r.ctrl + 72 ≤ a ∧ a < r.ctrl + 76) → t.hostByte a = s.hostByte a) := by
  intro r at_ bytes t
  have memory (b : Nat) : t.hostByte b =
      if r.ctrl + 72 ≤ b ∧ b < r.ctrl + 72 + 4 then (leBytes 4 (r.cplProd + 1).toNat).getD (b - (r.ctrl + 72)) 0
      else if at_ ≤ b ∧ b < at_ + 64 then bytes.getD (b - at_) 0 else s.hostByte b := by
    have outer := State.hostByte_hostWrite (s.hostWrite at_ bytes) (r.ctrl + 72) (leBytes 4 (r.cplProd + 1).toNat) b
    rw [State.hostByte_hostWrite s, leBytes_length, length_completionBytes] at outer
    exact outer
  have rings (j : Nat) : t.ring j = if j = k then { r with cplProd := r.cplProd + 1 } else s.ring j :=
    State.ring_setRing ((s.hostWrite at_ bytes).hostWrite (r.ctrl + 72) (leBytes 4 (r.cplProd + 1).toNat)) k j _
  refine ⟨(rings k).trans (if_pos rfl), fun j other => (rings j).trans (if_neg other), fun i lt apart => ?_, ?_,
    fun a outside off => ?_⟩
  · rw [memory, if_neg (by omega), if_pos (by omega), Nat.add_sub_cancel_left]
  · have written := State.hostBytes_hostWrite_same (s.hostWrite at_ bytes) (r.ctrl + 72) (leBytes 4 (r.cplProd + 1).toNat)
    rw [leBytes_length] at written
    exact written
  · rw [memory, if_neg (by omega), if_neg outside]

/-! ### Watched lines -/

/-- The ring `r` after `i` more commands are picked up: `c i` is the command at the place of the `i`-th. -/
def Ring.after (r : Ring) (c : Nat → Picked) (i : Nat) : Ring :=
  { r with
    picked := r.picked ++ (List.range i).map c, reserved := r.reserved + i, seen := r.seen + i
    cmdCons := r.cmdCons + BitVec.ofNat 32 i }

/-- The command that ring `r` has at its `i`-th place from here, as `t` shows host memory and the contexts. -/
def State.waitingAt (t : State) (r : Ring) (i : Nat) : Picked :=
  let e := Picked.ofBytes (t.hostBytes (r.cmd + 64 * ((r.cmdCons + BitVec.ofNat 32 i).toNat % r.size)) 64) (r.seen + i)
  { e with late := t.pickedLate e }

/-- `u` is `t` with `i` commands of ring `k` picked up: the other rings stand, host memory changes only where `CMD_CONS` is shown. -/
structure State.PickedUp (t : State) (k i : Nat) (u : State) : Prop where
  ring : u.ring k = (t.ring k).after (t.waitingAt (t.ring k)) i
  others : ∀ j, j ≠ k → u.ring j = t.ring j
  partitions : u.partitions = t.partitions
  memory : ∀ a, ¬ ((t.ring k).ctrl + 64 ≤ a ∧ a < (t.ring k).ctrl + 68) → u.hostByte a = t.hostByte a
  shown : 0 < i → u.hostBytes ((t.ring k).ctrl + 64) 4 = leBytes 4 (u.ring k).cmdCons.toNat

theorem State.PickedUp.zero (t : State) (k : Nat) : t.PickedUp k 0 t where
  ring := by simp [Ring.after]
  others := fun _ _ => rfl
  partitions := rfl
  memory := fun _ _ => rfl
  shown := fun h => absurd h (Nat.lt_irrefl 0)

theorem Ring.after_size (r : Ring) (c : Nat → Picked) (i : Nat) : (r.after c i).size = r.size := rfl

/-- Each pickup takes one free completion entry. -/
theorem Ring.free_after (r : Ring) (c : Nat → Picked) (i : Nat) : (r.after c i).free = r.free - i := by
  unfold Ring.free
  rw [Ring.after_size]
  dsimp only [Ring.after]
  by_cases full : r.size < (r.cplProd - r.cplCons).toNat
  · rw [if_pos full, if_pos full, Nat.zero_sub]
  · rw [if_neg full, if_neg full, Nat.sub_sub _ _ i, Nat.sub_sub]

theorem State.pickedLate_congr {s t : State} (same : s.partitions = t.partitions) (c : Picked) :
    s.pickedLate c = t.pickedLate c := by
  unfold State.pickedLate State.partition?
  rw [same]

theorem State.waitingAt_congr {s t : State} (partitions : s.partitions = t.partitions) (memory : s.hostMem = t.hostMem)
    (r : Ring) : s.waitingAt r = t.waitingAt r := by
  funext i
  unfold State.waitingAt
  dsimp only
  rw [State.hostBytes_congr memory, State.pickedLate_congr partitions]

/-- A ring with nothing to pick up, or no completion entry free, picks nothing up. -/
theorem State.pickOne_of_idle {s : State} {k : Nat}
    (idle : (s.ring k).state ≠ .running ∨ (s.ring k).cmdCons = (s.ring k).cmdProd ∨ (s.ring k).free = 0) : s.pickOne k = s :=
  if_pos idle

/-- How many commands of a ring may be picked up: those that wait, as far as completion entries are free. -/
def Ring.pickable (r : Ring) : Nat := min (r.cmdProd - r.cmdCons).toNat r.free

theorem Ring.cmdCons_add_eq_iff (r : Ring) {i : Nat} (le : i ≤ (r.cmdProd - r.cmdCons).toNat) :
    r.cmdCons + BitVec.ofNat 32 i = r.cmdProd ↔ i = (r.cmdProd - r.cmdCons).toNat := by
  have small : i < 2 ^ 32 := Nat.lt_of_le_of_lt le (BitVec.isLt _)
  constructor
  · intro same
    rw [← same, BitVec.add_comm, BitVec.add_sub_cancel, BitVec.toNat_ofNat, Nat.mod_eq_of_lt small]
  · rintro rfl
    rw [BitVec.ofNat_toNat, BitVec.setWidth_eq, BitVec.add_comm, BitVec.sub_add_cancel]

/-- The bytes of the command ring lie apart from where `CMD_CONS` is shown, so the commands that wait read as before. -/
theorem State.PickedUp.hostBytes {t u : State} {k i : Nat} (h : t.PickedUp k i u)
    (apart : (t.ring k).ctrl + 68 ≤ (t.ring k).cmd ∨ (t.ring k).cmd + 64 * (t.ring k).size ≤ (t.ring k).ctrl + 64) (n : Nat) :
    u.hostBytes ((t.ring k).cmd + 64 * (n % (t.ring k).size)) 64 =
      t.hostBytes ((t.ring k).cmd + 64 * (n % (t.ring k).size)) 64 := by
  refine List.map_congr_left fun j mem => ?_
  have lt := List.mem_range.1 mem
  have inside : n % (t.ring k).size < (t.ring k).size := Nat.mod_lt _ (Nat.pow_pos (by decide))
  exact h.memory _ (by omega)

/-- One turn at ring `k` picks up its next command while one may be. -/
theorem State.PickedUp.pickOne {t u : State} {k i : Nat} (h : t.PickedUp k i u) (running : (t.ring k).state = .running)
    (apart : (t.ring k).ctrl + 68 ≤ (t.ring k).cmd ∨ (t.ring k).cmd + 64 * (t.ring k).size ≤ (t.ring k).ctrl + 64)
    (more : i < (t.ring k).pickable) : t.PickedUp k (i + 1) (u.pickOne k) := by
  have waits : i < ((t.ring k).cmdProd - (t.ring k).cmdCons).toNat := Nat.lt_of_lt_of_le more (Nat.min_le_left _ _)
  have room : i < (t.ring k).free := Nat.lt_of_lt_of_le more (Nat.min_le_right _ _)
  have goes : ¬ ((u.ring k).state ≠ .running ∨ (u.ring k).cmdCons = (u.ring k).cmdProd ∨ (u.ring k).free = 0) := by
    rw [h.ring, Ring.free_after]
    rintro (stopped | none_ | full)
    · exact stopped running
    · exact absurd (((t.ring k).cmdCons_add_eq_iff (Nat.le_of_lt waits)).1 none_) (Nat.ne_of_lt waits)
    · omega
  have command : Picked.ofBytes (u.hostBytes ((u.ring k).cmd + 64 * ((u.ring k).cmdCons.toNat % (u.ring k).size)) 64)
        (u.ring k).seen =
      Picked.ofBytes (t.hostBytes ((t.ring k).cmd + 64 *
        (((t.ring k).cmdCons + BitVec.ofNat 32 i).toNat % (t.ring k).size)) 64) ((t.ring k).seen + i) := by
    rw [h.ring]
    exact congrArg (Picked.ofBytes · _) (h.hostBytes apart _)
  have picked : (u.ring k).picked ++ [{ Picked.ofBytes (u.hostBytes ((u.ring k).cmd + 64 *
        ((u.ring k).cmdCons.toNat % (u.ring k).size)) 64) (u.ring k).seen with
        late := u.pickedLate (Picked.ofBytes (u.hostBytes ((u.ring k).cmd + 64 *
          ((u.ring k).cmdCons.toNat % (u.ring k).size)) 64) (u.ring k).seen) }] =
      (t.ring k).picked ++ (List.range (i + 1)).map (t.waitingAt (t.ring k)) := by
    rw [command, State.pickedLate_congr h.partitions, h.ring, List.range_succ, List.map_append, ← List.append_assoc]
    rfl
  have next : (u.ring k).cmdCons + 1 = (t.ring k).cmdCons + BitVec.ofNat 32 (i + 1) := by
    rw [h.ring, BitVec.ofNat_add, ← BitVec.add_assoc]
    rfl
  have does : u.pickOne k = (u.setRing k ((t.ring k).after (t.waitingAt (t.ring k)) (i + 1))).showCons k := by
    unfold State.pickOne
    dsimp only
    rw [if_neg goes, picked, next]
    refine congrArg (fun r => (u.setRing k r).showCons k) ?_
    rw [h.ring]
    rfl
  have shows : u.pickOne k = (u.setRing k ((t.ring k).after (t.waitingAt (t.ring k)) (i + 1))).hostWrite
      ((t.ring k).ctrl + 64) (leBytes 4 ((t.ring k).cmdCons + BitVec.ofNat 32 (i + 1)).toNat) := by
    rw [does, State.showCons, State.ring_setRing, if_pos rfl]
    rfl
  have rings (j : Nat) : (u.pickOne k).ring j =
      if j = k then (t.ring k).after (t.waitingAt (t.ring k)) (i + 1) else u.ring j := by
    rw [shows]
    exact State.ring_setRing u k j _
  refine ⟨(rings k).trans (if_pos rfl), fun j other => ((rings j).trans (if_neg other)).trans (h.others j other), ?_,
    fun a outside => ?_, fun _ => ?_⟩
  · rw [shows]
    exact h.partitions
  · rw [shows, State.hostByte_hostWrite, leBytes_length, if_neg (by omega)]
    exact h.memory a outside
  · have written := State.hostBytes_hostWrite_same (u.setRing k ((t.ring k).after (t.waitingAt (t.ring k)) (i + 1)))
      ((t.ring k).ctrl + 64) (leBytes 4 ((t.ring k).cmdCons + BitVec.ofNat 32 (i + 1)).toNat)
    rw [leBytes_length, ← shows] at written
    rw [written, rings k, if_pos rfl]
    rfl

/-- One turn at any ring, the others having nothing to pick up: never more than may be picked up, and none is lost. -/
theorem State.PickedUp.pickAny {t u : State} {k i : Nat} (h : t.PickedUp k i u) (running : (t.ring k).state = .running)
    (apart : (t.ring k).ctrl + 68 ≤ (t.ring k).cmd ∨ (t.ring k).cmd + 64 * (t.ring k).size ≤ (t.ring k).ctrl + 64)
    (idle : ∀ j, j ≠ k → (t.ring j).state ≠ .running ∨ (t.ring j).cmdCons = (t.ring j).cmdProd ∨ (t.ring j).free = 0)
    (le : i ≤ (t.ring k).pickable) (j : Nat) :
    t.PickedUp k (if j = k then min (i + 1) (t.ring k).pickable else i) (u.pickOne j) := by
  by_cases here : j = k
  · subst here
    rw [if_pos rfl]
    by_cases more : i < (t.ring j).pickable
    · rw [Nat.min_eq_left more]
      exact h.pickOne running apart more
    · have all : i = (t.ring j).pickable := by omega
      rw [Nat.min_eq_right (by omega), ← all, State.pickOne_of_idle]
      · exact h
      · rw [h.ring, Ring.free_after]
        have reached : i = (t.ring j).free ∨ i = ((t.ring j).cmdProd - (t.ring j).cmdCons).toNat := by
          unfold Ring.pickable at all
          omega
        rcases reached with full | none_
        · exact .inr (.inr (by omega))
        · exact .inr (.inl (((t.ring j).cmdCons_add_eq_iff (Nat.le_of_eq none_)).2 none_))
  · rw [if_neg here, State.pickOne_of_idle]
    · exact h
    · rw [h.others j here]
      exact idle j here

/-- A turn of every ring: ring `k`, which is among them, goes at least one command on while it may. -/
theorem State.PickedUp.pickAll {t u : State} {k i : Nat} (h : t.PickedUp k i u) (running : (t.ring k).state = .running)
    (apart : (t.ring k).ctrl + 68 ≤ (t.ring k).cmd ∨ (t.ring k).cmd + 64 * (t.ring k).size ≤ (t.ring k).ctrl + 64)
    (idle : ∀ j, j ≠ k → (t.ring j).state ≠ .running ∨ (t.ring j).cmdCons = (t.ring j).cmdProd ∨ (t.ring j).free = 0)
    (le : i ≤ (t.ring k).pickable) (rings : SMap Ring) :
    ∃ i', i ≤ i' ∧ i' ≤ (t.ring k).pickable ∧ (k ∈ rings.map (·.1) → min (i + 1) (t.ring k).pickable ≤ i') ∧
      t.PickedUp k i' (rings.foldl (fun t e => t.pickOne e.1) u) := by
  induction rings generalizing i u with
  | nil => exact ⟨i, Nat.le_refl _, le, fun mem => absurd mem List.not_mem_nil, h⟩
  | cons e rings ih =>
    have here := h.pickAny running apart idle le e.1
    obtain ⟨i', more, below, turned, done⟩ := ih here (by split <;> omega)
    refine ⟨i', ?_, below, fun mem => ?_, done⟩
    · split at more <;> omega
    · by_cases same : e.1 = k
      · rw [if_pos same] at more
        exact more
      · rw [if_neg same] at turned
        exact turned ((List.mem_cons.1 mem).resolve_left (Ne.symm same))

theorem Sparse.mem_of_get?_eq_some {α : Type} {m : SMap α} {k : Nat} {v : α} (listed : Sparse.get? m k = some v) :
    (k, v) ∈ m := by
  obtain ⟨e, found, value⟩ := Option.map_eq_some_iff.1 listed
  have key : e.1 = k := by simpa using List.find?_some found
  rw [← key, ← value]
  exact List.mem_of_find?_eq_some found

/-- A running ring is listed. -/
theorem State.ring_mem_of_running {s : State} {k : Nat} (running : (s.ring k).state = .running) :
    (k, s.ring k) ∈ s.rings := by
  cases listed : Sparse.get? s.rings k with
  | none =>
    have idle : s.ring k = Ring.idle := by rw [State.ring, Sparse.getD, listed]; rfl
    rw [idle] at running
    cases running
  | some r =>
    have here : s.ring k = r := by rw [State.ring, Sparse.getD, listed]; rfl
    rw [here]
    exact Sparse.mem_of_get?_eq_some listed

/-- Turns bring in every command that may be picked up. -/
theorem State.PickedUp.pickUp {t u : State} {k i : Nat} (h : t.PickedUp k i u) (running : (t.ring k).state = .running)
    (apart : (t.ring k).ctrl + 68 ≤ (t.ring k).cmd ∨ (t.ring k).cmd + 64 * (t.ring k).size ≤ (t.ring k).ctrl + 64)
    (idle : ∀ j, j ≠ k → (t.ring j).state ≠ .running ∨ (t.ring j).cmdCons = (t.ring j).cmdProd ∨ (t.ring j).free = 0)
    (le : i ≤ (t.ring k).pickable) (turns : Nat) :
    ∃ i', i' ≤ (t.ring k).pickable ∧ min (i + turns) (t.ring k).pickable ≤ i' ∧ t.PickedUp k i' (u.pickUp turns) := by
  induction turns generalizing i u with
  | zero => exact ⟨i, le, by omega, h⟩
  | succ turns ih =>
    obtain ⟨j, -, below, turned, done⟩ := h.pickAll running apart idle le u.rings
    have listed : k ∈ u.rings.map (·.1) :=
      List.mem_map.2 ⟨_, State.ring_mem_of_running (by rw [h.ring]; exact running), rfl⟩
    have further := turned listed
    obtain ⟨i', below', all, done'⟩ := ih done below
    exact ⟨i', below', by omega, done'⟩

/-- The largest of a list and a first value is no less than either. -/
theorem le_foldl_max (l : List Nat) (a : Nat) : a ≤ l.foldl max a ∧ ∀ n ∈ l, n ≤ l.foldl max a := by
  induction l generalizing a with
  | nil => simp
  | cons b l ih =>
    obtain ⟨first, each⟩ := ih (max a b)
    refine ⟨(Nat.le_max_left a b).trans first, fun n mem => ?_⟩
    rcases List.mem_cons.1 mem with rfl | mem
    · exact (Nat.le_max_right a n).trans first
    · exact each n mem

/-- No ring waits for longer than the longest. -/
theorem State.le_mostWaiting {s : State} {k : Nat} {r : Ring} (mem : (k, r) ∈ s.rings) :
    (r.cmdProd - r.cmdCons).toNat ≤ s.mostWaiting := by
  exact (le_foldl_max _ 0).2 _ (List.mem_map.2 ⟨_, mem, rfl⟩)

/-- Every command that may be picked up is. -/
theorem State.pickUp_all (t : State) {k : Nat} (running : (t.ring k).state = .running)
    (apart : (t.ring k).ctrl + 68 ≤ (t.ring k).cmd ∨ (t.ring k).cmd + 64 * (t.ring k).size ≤ (t.ring k).ctrl + 64)
    (idle : ∀ j, j ≠ k → (t.ring j).state ≠ .running ∨ (t.ring j).cmdCons = (t.ring j).cmdProd ∨ (t.ring j).free = 0) :
    t.PickedUp k (t.ring k).pickable (t.pickUp t.mostWaiting) := by
  obtain ⟨i, below, all, done⟩ := (State.PickedUp.zero t k).pickUp running apart idle (Nat.zero_le _) t.mostWaiting
  have most := State.le_mostWaiting (State.ring_mem_of_running running)
  have exact_ : i = (t.ring k).pickable := by
    have few : (t.ring k).pickable ≤ ((t.ring k).cmdProd - (t.ring k).cmdCons).toNat := Nat.min_le_left _ _
    omega
  rw [← exact_]
  exact done

/-! ### What reading a watched line does -/

/-- With no events nothing is posted. -/
theorem State.drainEvents_of_none {s : State} {k : Nat} (events : (s.ring k).events = []) (lost : (s.ring k).lost = 0) :
    (s.drainEvents k).ring k = s.ring k ∧ (s.drainEvents k).hostMem = s.hostMem := by
  unfold State.drainEvents
  split
  · exact ⟨rfl, rfl⟩
  · have back : ({ s.ring k with events := [] } : Ring) = s.ring k := by rw [← events]
    have same : (s.setRing k (s.ring k)).ring k = s.ring k := (State.ring_setRing s k k _).trans (if_pos rfl)
    dsimp only
    rw [events, List.length_nil, Nat.min_zero, List.take_nil, List.drop_nil, List.foldl_nil, if_pos rfl, back, same,
      if_neg (by simp [lost])]
    exact ⟨same, rfl⟩

theorem State.interrupt_ring (s : State) (v k : Nat) : (s.interrupt v).ring k = s.ring k :=
  State.ring_congr (s.interrupt_rings v) k

/-- Posting events leaves the commands picked up. -/
theorem State.drainEvents_picked (s : State) (k : Nat) : ((s.drainEvents k).ring k).picked = (s.ring k).picked := by
  have entry (t : State) (st : Status) (detail : Nat) (result : List W32) :
      ((t.postEntry k 0 0xFFFF 0 0 st detail result).ring k).picked = (t.ring k).picked :=
    (congrArg Ring.picked (t.postEntry_spec k 0 0xFFFF 0 0 st detail result).1 :)
  have entries (l : List RingEvent) (t : State) :
      ((l.foldl (fun a e => a.postEntry k 0 0xFFFF 0 0 e.status e.detail e.result) t).ring k).picked = (t.ring k).picked := by
    induction l generalizing t with
    | nil => rfl
    | cons e l ih => exact (ih _).trans (entry t e.status e.detail e.result)
  have set_ (t : State) (r : Ring) (same : r.picked = (t.ring k).picked) :
      ((t.setRing k r).ring k).picked = (t.ring k).picked := by
    rw [State.ring_setRing, if_pos rfl, same]
  unfold State.drainEvents
  split
  · rfl
  · dsimp only
    generalize posted : ((s.ring k).events.take (min (s.ring k).free (s.ring k).events.length)).foldl _ _ = t
    have kept : (t.ring k).picked = (s.ring k).picked := by
      rw [← posted, entries, set_ s { s.ring k with
        events := (s.ring k).events.drop (min (s.ring k).free (s.ring k).events.length) } rfl]
    generalize told : (if min (s.ring k).free (s.ring k).events.length = 0 then t else t.interrupt k) = u
    have kept' : (u.ring k).picked = (s.ring k).picked := by
      rw [← told]
      split
      · exact kept
      · rw [State.interrupt_ring, kept]
    split
    · rw [State.interrupt_ring, entry, set_ u { u.ring k with lost := 0 } rfl, kept']
    · exact kept'

theorem State.postEvent_picked (s : State) (k : Nat) (e : RingEvent) : ((s.postEvent k e).ring k).picked = (s.ring k).picked := by
  unfold State.postEvent
  dsimp only
  split
  · rfl
  · split
    · rw [State.ring_setRing, if_pos rfl]
    · rw [State.drainEvents_picked, State.ring_setRing, if_pos rfl]

/-- The ring as its watched line shows it, before anything is picked up. -/
def State.watched (t : State) (k : Nat) (prod cons : W32) : State :=
  let t := (t.setRing k { t.ring k with cplCons := cons }).setRing k { t.ring k with cplCons := cons }
  t.setRing k { t.ring k with cmdProd := prod }

theorem State.watched_ring (t : State) (k j : Nat) (prod cons : W32) :
    (t.watched k prod cons).ring j = if j = k then { t.ring k with cplCons := cons, cmdProd := prod } else t.ring j := by
  unfold State.watched
  dsimp only
  rw [State.ring_setRing, State.ring_setRing, if_pos rfl, State.ring_setRing, State.ring_setRing]
  split <;> rfl

/-- Reading the watched line of a running ring with nothing of its own waiting to be posted. -/
theorem State.readWatched_eq {t : State} {k : Nat} (running : (t.ring k).state = .running) (answers : t.answers = true)
    (posted : (t.ring k).unposted = []) :
    let prod := BitVec.ofNat 32 (leNat (t.hostBytes (t.ring k).ctrl 4))
    let cons := BitVec.ofNat 32 (leNat (t.hostBytes ((t.ring k).ctrl + 8) 4))
    t.readWatched k =
      if (t.ring k).size < (prod - (t.ring k).cmdCons).toNat then
        let u := ((t.setRing k { t.ring k with cplCons := cons }).setRing k { t.ring k with cplCons := cons }).postEvent k
          ⟨.ringOverrun, 0, []⟩
        u.setRing k { u.ring k with state := .overrun }
      else ((t.watched k prod cons).pickUp (t.watched k prod cons).mostWaiting).drainEvents k := by
  intro prod cons
  have drained : (t.setRing k { t.ring k with cplCons := cons }).drainUnposted k =
      (t.setRing k { t.ring k with cplCons := cons }).setRing k { t.ring k with cplCons := cons } := by
    have here : (t.setRing k { t.ring k with cplCons := cons }).ring k = { t.ring k with cplCons := cons } :=
      (State.ring_setRing t k k _).trans (if_pos rfl)
    have back : ({ t.ring k with cplCons := cons, unposted := [] } : Ring) = { t.ring k with cplCons := cons } := by
      rw [← posted]
    unfold State.drainUnposted
    rw [here]
    dsimp only
    rw [posted, List.foldl_nil, back]
  have goes : ¬ ((t.ring k).state ≠ .running ∨ ¬ t.answers = true) := by simp [running, answers]
  have here : ((t.setRing k { t.ring k with cplCons := cons }).setRing k { t.ring k with cplCons := cons }).ring k =
      { t.ring k with cplCons := cons } := (State.ring_setRing _ k k _).trans (if_pos rfl)
  unfold State.readWatched State.watched
  dsimp only
  rw [if_neg goes, drained, here]

/-- A watched line with more commands than the ring holds stops the ring. -/
theorem State.readWatched_overrun {t : State} {k : Nat} (running : (t.ring k).state = .running) (answers : t.answers = true)
    (posted : (t.ring k).unposted = [])
    (over_ : (t.ring k).size <
      (BitVec.ofNat 32 (leNat (t.hostBytes (t.ring k).ctrl 4)) - (t.ring k).cmdCons).toNat) :
    ((t.readWatched k).ring k).state = .overrun ∧ ((t.readWatched k).ring k).picked = (t.ring k).picked := by
  rw [State.readWatched_eq running answers posted, if_pos over_]
  dsimp only
  rw [State.ring_setRing, if_pos rfl]
  refine ⟨rfl, ?_⟩
  rw [State.postEvent_picked, State.ring_setRing, if_pos rfl]

/-- A watched line within the ring's size: every command that may be picked up is. -/
theorem State.readWatched_pickedUp {t : State} {k : Nat} (running : (t.ring k).state = .running) (answers : t.answers = true)
    (posted : (t.ring k).unposted = []) (events : (t.ring k).events = []) (lost : (t.ring k).lost = 0)
    (idle : ∀ j, j ≠ k → (t.ring j).state ≠ .running ∨ (t.ring j).cmdCons = (t.ring j).cmdProd ∨ (t.ring j).free = 0)
    (apart : (t.ring k).ctrl + 68 ≤ (t.ring k).cmd ∨ (t.ring k).cmd + 64 * (t.ring k).size ≤ (t.ring k).ctrl + 64)
    (fits : (BitVec.ofNat 32 (leNat (t.hostBytes (t.ring k).ctrl 4)) - (t.ring k).cmdCons).toNat ≤ (t.ring k).size) :
    let prod := BitVec.ofNat 32 (leNat (t.hostBytes (t.ring k).ctrl 4))
    let cons := BitVec.ofNat 32 (leNat (t.hostBytes ((t.ring k).ctrl + 8) 4))
    let r : Ring := { t.ring k with cplCons := cons, cmdProd := prod }
    (t.readWatched k).ring k = r.after (t.waitingAt r) r.pickable ∧
    (0 < r.pickable → (t.readWatched k).hostBytes ((t.ring k).ctrl + 64) 4 =
      leBytes 4 ((t.readWatched k).ring k).cmdCons.toNat) := by
  intro prod cons r
  have ring (j : Nat) : (t.watched k prod cons).ring j = if j = k then r else t.ring j := t.watched_ring k j prod cons
  have mine : (t.watched k prod cons).ring k = r := (ring k).trans (if_pos rfl)
  have done : (t.watched k prod cons).PickedUp k ((t.watched k prod cons).ring k).pickable
      ((t.watched k prod cons).pickUp (t.watched k prod cons).mostWaiting) := by
    refine State.pickUp_all _ ?_ ?_ fun j other => ?_
    · rw [mine]
      exact running
    · rw [mine]
      exact apart
    · rw [ring, if_neg other]
      exact idle j other
  rw [State.readWatched_eq running answers posted, if_neg (Nat.not_lt.2 fits)]
  generalize (t.watched k prod cons).pickUp (t.watched k prod cons).mostWaiting = u at done
  have picked : u.ring k = r.after (t.waitingAt r) r.pickable := by
    rw [done.ring, mine, State.waitingAt_congr (s := t.watched k prod cons) (t := t) rfl rfl]
  obtain ⟨same, memory⟩ := State.drainEvents_of_none (s := u) (k := k) (by rw [picked]; exact events) (by rw [picked]; exact lost)
  refine ⟨same.trans picked, fun some_ => ?_⟩
  rw [same, State.hostBytes_congr memory]
  have shown := done.shown (by rw [mine]; exact some_)
  rw [mine] at shown
  exact shown

/-! ### Ring start and settlement -/

theorem exec_ringEnable_start {s : State} (answers : s.answers = true) (stopped : (s.ring 0).state ≠ .running)
    (legal : ringLegal (s.ring 0).ctrl (s.ring 0).cmd (s.ring 0).cpl (s.ring 0).sizeLog2 = true) :
    ∃ t, execRingEnable s = .next t ∧ t.ring 0 = { s.ring 0 with
      state := .running, cmdCons := 0, cmdProd := 0, cplProd := 0, cplCons := 0 } ∧
      t.hostBytes ((s.ring 0).ctrl + 64) 12 = List.replicate 12 0 := by
  have goes : ¬ (¬ s.answers = true ∨ (s.ring 0).state = .running) := by simp [answers, stopped]
  refine ⟨_, congrArg Host.Outcome.next ((if_neg goes).trans (if_pos legal)), ?_, ?_⟩
  · exact (State.ring_setRing s 0 0 _).trans (if_pos rfl)
  · have zeros : (List.replicate 4 0 ++ List.replicate 4 0 ++ List.replicate 4 0 : List Byte) = List.replicate 12 0 := by
      rw [List.replicate_append_replicate, List.replicate_append_replicate]
    unfold State.startRing
    dsimp only
    rw [zeros]
    have written := fun u : State => u.hostBytes_hostWrite_same ((s.ring 0).ctrl + 64) (List.replicate 12 0)
    rw [List.length_replicate] at written
    exact written _

/-- Settles O41: a completion by what its entry writes, a watched line by the commands picked up turn by turn, and the rest by their
guards. -/
theorem ringsAreServed : Obligations.RingsAreServed := by
  unfold Obligations.RingsAreServed
  refine ⟨?_, fun s => ⟨?_, ?_, ?_, ?_⟩⟩
  · intro s k opcode e st detail result r at_ bytes
    refine ⟨fun room served => ⟨_, rfl, ?_⟩, fun held => if_neg ?_⟩
    · have posts : s.complete k opcode e st detail result = s.postCompletion k ⟨opcode, e, st, detail, result⟩ :=
        if_pos ⟨room, by simp [served]⟩
      obtain ⟨rings, memory⟩ := s.postCompletion_spec k ⟨opcode, e, st, detail, result⟩
      have frame := s.hostOnly_postCompletion k ⟨opcode, e, st, detail, result⟩
      have mine : (s.setRing k { s.ring k with reserved := (s.ring k).reserved - 1 }).ring k =
          { s.ring k with reserved := (s.ring k).reserved - 1 } := (State.ring_setRing s k k _).trans (if_pos rfl)
      obtain ⟨ring, others, entry, index, rest⟩ :=
        (s.setRing k { s.ring k with reserved := (s.ring k).reserved - 1 }).postEntry_spec k opcode e.tag.toNat e.part.toNat
          e.ctx.toNat st detail result
      rw [mine] at ring entry index rest
      rw [posts]
      have here := (State.ring_congr rings k).trans ring
      refine ⟨(congrArg Ring.cplProd here :), (congrArg Ring.reserved here :), (congrArg Ring.unposted here :), fun i lt apart => ?_, ?_,
        fun a outside off => ?_, fun j other => ?_, ?_, ?_⟩
      · exact (State.hostByte_congr memory _).trans (entry i lt apart)
      · exact (State.hostBytes_congr memory _ _).trans index
      · exact (State.hostByte_congr memory _).trans (rest a outside off)
      · exact (State.ring_congr rings j).trans ((others j other).trans ((State.ring_setRing s k j _).trans (if_neg other)))
      · exact (congrArg State.partitions frame :)
      · exact (congrArg State.rims frame :)
    · rintro ⟨room, served⟩
      rcases held with full | muted
      · rw [show (s.ring k).hasRoom = false from full] at room
        cases room
      · exact served muted
  · intro ring writes k t r prod cons waiting running answers posted events lost idle apart entry
    refine ⟨fun fits => ?_, fun over_ => ⟨_, rfl, State.readWatched_overrun running answers posted over_⟩⟩
    obtain ⟨picked, shown⟩ := State.readWatched_pickedUp running answers posted events lost idle apart fits
    refine ⟨_, _, rfl, rfl, ?_⟩
    have here : ((t.readWatched k).ring k) = _ := picked
    rw [here]
    exact ⟨running, rfl, rfl, rfl, rfl, rfl, fun some_ => (shown some_).trans (by rw [picked])⟩
  · intro answers stopped r
    refine ⟨fun legal => exec_ringEnable_start answers stopped legal, fun illegal => ?_⟩
    have goes : ¬ (¬ s.answers = true ∨ (s.ring 0).state = .running) := by simp [answers, stopped]
    exact congrArg Host.Outcome.next ((if_neg goes).trans (if_neg (Bool.eq_false_iff.1 illegal)))
  · intro vector since held late t
    change execMsiXCoalesceExpiry vector s = _
    rw [execMsiXCoalesceExpiry]
    dsimp only
    rw [held]
    exact if_neg (Nat.not_lt.2 late)
  · intro up good t
    exact if_neg (by simp [up, good])

end Sys2Proof.Machine
end

section
/-! PROOFS. The BAR0 window, cast-on and resets, and the I3C target. -/

namespace Sys2Proof.Machine

/-! ### Bytes of a number whose dword is replaced -/

theorem getLsbD_byte (n k i : Nat) : (BitVec.ofNat 8 (n / 256 ^ k)).getLsbD i = (decide (i < 8) && n.testBit (8 * k + i)) := by
  rw [BitVec.getLsbD_ofNat, show 256 = 2 ^ 8 from rfl, ← pow_mul, Nat.testBit_div_two_pow, Nat.add_comm]

/-- Numbers with the same eight bits there have the same byte. -/
theorem byte_congr {m n j k : Nat} (same : ∀ i, i < 8 → m.testBit (8 * j + i) = n.testBit (8 * k + i)) :
    BitVec.ofNat 8 (m / 256 ^ j) = BitVec.ofNat 8 (n / 256 ^ k) := by
  refine BitVec.eq_of_getLsbD_eq fun i lt => ?_
  rw [getLsbD_byte, getLsbD_byte, same i lt]

theorem regroup (lo word hi a b : Nat) : lo + word * a + hi * (a * b) = a * (b * hi + word) + lo := by ring

theorem testBit_setDword (v o x i : Nat) : (setDword v o x).testBit i =
    if i < 8 * o then v.testBit i else if i < 8 * o + 32 then x.testBit (i - 8 * o) else v.testBit i := by
  have low : v % 2 ^ (8 * o) < 2 ^ (8 * o) := Nat.mod_lt _ (Nat.two_pow_pos _)
  have word : x % 2 ^ 32 < 2 ^ 32 := Nat.mod_lt _ (Nat.two_pow_pos _)
  have form : setDword v o x = 2 ^ (8 * o) * (2 ^ 32 * (v / 2 ^ (8 * o + 32)) + x % 2 ^ 32) + v % 2 ^ (8 * o) := by
    unfold setDword
    dsimp only
    rw [pow_add 2 (8 * o) 32]
    exact regroup _ _ _ _ _
  rw [form, Nat.testBit_two_pow_mul_add _ low]
  split
  next lt => simp [Nat.testBit_mod_two_pow, lt]
  next ge =>
    rw [Nat.testBit_two_pow_mul_add _ word]
    by_cases inside : i < 8 * o + 32
    · rw [if_pos (by omega), if_pos inside, Nat.testBit_mod_two_pow, decide_eq_true (by omega), Bool.true_and]
    · rw [if_neg (by omega), if_neg inside, Nat.testBit_div_two_pow]
      exact congrArg v.testBit (by omega)

/-- A byte of a number whose dword at byte `o` is replaced. -/
theorem byte_setDword (v o x k : Nat) : BitVec.ofNat 8 (setDword v o x / 256 ^ k) =
    if o ≤ k ∧ k < o + 4 then BitVec.ofNat 8 (x / 256 ^ (k - o)) else BitVec.ofNat 8 (v / 256 ^ k) := by
  split
  next inside =>
    refine byte_congr fun i lt => ?_
    rw [testBit_setDword, if_neg (by omega), if_pos (by omega)]
    exact congrArg x.testBit (by omega)
  next outside =>
    refine byte_congr fun i lt => ?_
    rw [testBit_setDword]
    by_cases below : 8 * k + i < 8 * o
    · rw [if_pos below]
    · rw [if_neg below, if_neg (by omega)]

/-- A byte of a number's low 32 bits. -/
theorem byte_mod_dword (v k : Nat) (lt : k < 4) : BitVec.ofNat 8 (v % 2 ^ 32 / 256 ^ k) = BitVec.ofNat 8 (v / 256 ^ k) :=
  byte_congr fun i small => by rw [Nat.testBit_mod_two_pow, decide_eq_true (by omega), Bool.true_and]

/-- A byte of a number's high 32 bits. -/
theorem byte_div_dword (v k : Nat) : BitVec.ofNat 8 (v / 2 ^ 32 / 256 ^ k) = BitVec.ofNat 8 (v / 256 ^ (k + 4)) :=
  byte_congr fun i _ => by
    rw [Nat.testBit_div_two_pow]
    exact congrArg v.testBit (by omega)

/-! ### The bytes of the windows -/

/-- The admin ring's area, from its ring. -/
def Ring.window (r : Ring) : List Byte :=
  leBytes 8 r.ctrl ++ leBytes 8 r.cmd ++ leBytes 8 r.cpl ++ leBytes 4 r.sizeLog2 ++ leBytes 4 0 ++ leBytes 4 r.state.code

/-- A byte of BAR0 after a ring changes: only the admin ring's area shows it. -/
theorem State.bar0Byte_setRing (s : State) (r : Ring) (live : s.stage ≠ .failed) (a : Nat) :
    (s.setRing 0 r).bar0Byte a = if 0x200 ≤ a ∧ a < 0x300 then r.window.getD (a - 0x200) 0 else s.bar0Byte a := by
  have area : (s.setRing 0 r).ringBytes = r.window := by
    unfold State.ringBytes
    rw [State.ring_setRing, if_pos rfl]
    rfl
  unfold State.bar0Byte
  by_cases inside : 0x200 ≤ a ∧ a < 0x300
  · rw [if_pos inside, if_neg (by omega), if_neg (by omega), if_pos inside.2, area]
    exact if_neg live
  · rw [if_neg inside]
    by_cases ident : a < 0x100
    · rw [if_pos ident, if_pos ident]
      rfl
    · rw [if_neg ident, if_neg ident]
      by_cases feat : a < 0x200
      · rw [if_pos feat, if_pos feat]
        rfl
      · rw [if_neg feat, if_neg feat, if_neg (show ¬ a < 0x300 by omega), if_neg (show ¬ a < 0x300 by omega)]
        rfl

/-- A byte of BAR0 after an entry of the MSI-X table changes, its pending bit not. -/
theorem State.bar0Byte_setVector (s : State) (v : Nat) (x : Vectors) (live : s.stage ≠ .failed)
    (pending : x.pending = (s.vector v).pending) (a : Nat) :
    (s.setVector v x).bar0Byte a = if 0x1000 ≤ a ∧ a < 0x1110 ∧ (a - 0x1000) / 16 = v then
      (vectorBytes x).getD ((a - 0x1000) % 16) 0 else s.bar0Byte a := by
  have bits (i : Nat) : ((s.setVector v x).vector i).pending = (s.vector i).pending := by
    rw [State.vector_setVector]
    split
    next same => rw [same, pending]
    next => rfl
  unfold State.bar0Byte
  by_cases low : a < 0x400
  · rw [if_neg (show ¬ (0x1000 ≤ a ∧ a < 0x1110 ∧ (a - 0x1000) / 16 = v) by omega)]
    by_cases ident : a < 0x100
    · rw [if_pos ident, if_pos ident]
      rfl
    rw [if_neg ident, if_neg ident]
    by_cases feat : a < 0x200
    · rw [if_pos feat, if_pos feat]
      rfl
    rw [if_neg feat, if_neg feat]
    by_cases ring : a < 0x300
    · rw [if_pos ring, if_pos ring]
      rfl
    rw [if_neg ring, if_neg ring, if_pos low, if_pos low]
    rfl
  · have stage : (s.setVector v x).stage ≠ .failed := live
    simp only [show ¬ a < 0x100 by omega, show ¬ a < 0x200 by omega, show ¬ a < 0x300 by omega, low, stage, live, if_false,
      bits]
    by_cases here : 0x1000 ≤ a ∧ a < 0x1110 ∧ (a - 0x1000) / 16 = v
    · rw [if_pos here, if_pos (show 0x1000 ≤ a ∧ a < 0x1110 from ⟨here.1, here.2.1⟩), State.vector_setVector, if_pos here.2.2]
    · rw [if_neg here]
      by_cases table : 0x1000 ≤ a ∧ a < 0x1110
      · rw [if_pos table, if_pos table, State.vector_setVector, if_neg (fun same => here ⟨table.1, table.2, same⟩)]
      · rw [if_neg table, if_neg table]
        rfl

/-! ### Writes of the window -/

/-- The three bases of a ring, as numbered doublewords. -/
def Ring.base (r : Ring) (i : Nat) : Nat := if i = 0 then r.ctrl else if i = 1 then r.cmd else r.cpl

/-- A ring with a base replaced. -/
def Ring.withBase (r : Ring) (i v : Nat) : Ring :=
  if i = 0 then { r with ctrl := v } else if i = 1 then { r with cmd := v } else { r with cpl := v }

/-- The first 24 bytes of the admin ring's area are its bases; the rest shows its size and state. -/
theorem Ring.window_getD (r : Ring) (k : Nat) : r.window.getD k 0 =
    if k < 24 then BitVec.ofNat 8 (r.base (k / 8) / 256 ^ (k % 8))
    else (leBytes 4 r.sizeLog2 ++ leBytes 4 0 ++ leBytes 4 r.state.code).getD (k - 24) 0 := by
  have form : r.window = leBytes 8 r.ctrl ++ (leBytes 8 r.cmd ++ (leBytes 8 r.cpl ++
      (leBytes 4 r.sizeLog2 ++ leBytes 4 0 ++ leBytes 4 r.state.code))) := by
    simp only [Ring.window, List.append_assoc]
  rw [form]
  unfold Ring.base
  by_cases first : k < 8
  · rw [List.getD_append _ _ _ _ (by rw [leBytes_length]; exact first), getD_leBytes 8 _ first, if_pos (by omega),
      if_pos (by omega), Nat.mod_eq_of_lt first]
  rw [List.getD_append_right _ _ _ _ (by rw [leBytes_length]; omega), leBytes_length]
  by_cases second : k < 16
  · rw [List.getD_append _ _ _ _ (by rw [leBytes_length]; omega), getD_leBytes 8 _ (by omega), if_pos (by omega),
      if_neg (by omega), if_pos (by omega), show k % 8 = k - 8 by omega]
  rw [List.getD_append_right _ _ _ _ (by rw [leBytes_length]; omega), leBytes_length]
  by_cases third : k < 24
  · rw [List.getD_append _ _ _ _ (by rw [leBytes_length]; omega), getD_leBytes 8 _ (by omega), if_pos third,
      if_neg (by omega), if_neg (by omega), show k % 8 = k - 8 - 8 by omega]
  · rw [List.getD_append_right _ _ _ _ (by rw [leBytes_length]; omega), leBytes_length, if_neg third,
      show k - 8 - 8 - 8 = k - 24 by omega]

theorem Ring.base_withBase (r : Ring) (i v j : Nat) (small : i < 3) (small' : j < 3) :
    (r.withBase i v).base j = if j = i then v else r.base j := by
  unfold Ring.withBase Ring.base
  rcases (by omega : i = 0 ∨ i = 1 ∨ i = 2) with rfl | rfl | rfl <;>
    rcases (by omega : j = 0 ∨ j = 1 ∨ j = 2) with rfl | rfl | rfl <;> rfl

theorem Ring.withBase_rest (r : Ring) (i v : Nat) :
    (r.withBase i v).sizeLog2 = r.sizeLog2 ∧ (r.withBase i v).state = r.state := by
  unfold Ring.withBase
  split
  · exact ⟨rfl, rfl⟩
  · split <;> exact ⟨rfl, rfl⟩

/-- A dword written to a base of the admin ring while it does not run. -/
theorem State.writeDword_base {s : State} {o : Nat} (stopped : (s.ring 0).state ≠ .running) (low : 0x200 ≤ o)
    (high : o < 0x218) (x : Nat) : s.writeDword o x =
      s.setRing 0 ((s.ring 0).withBase ((o - 0x200) / 8) (setDword ((s.ring 0).base ((o - 0x200) / 8)) ((o - 0x200) % 8) x)) := by
  unfold State.writeDword Ring.withBase Ring.base
  dsimp only
  simp only [if_neg stopped]
  by_cases first : o < 0x208
  · rw [if_pos ⟨low, first⟩, show (o - 0x200) / 8 = 0 by omega, show (o - 0x200) % 8 = o - 0x200 by omega]
    rfl
  rw [if_neg (fun h => first h.2)]
  by_cases second : o < 0x210
  · rw [if_pos ⟨by omega, second⟩, show (o - 0x200) / 8 = 1 by omega, show (o - 0x200) % 8 = o - 0x208 by omega]
    rfl
  · rw [if_neg (fun h => second h.2), if_pos ⟨by omega, high⟩, show (o - 0x200) / 8 = 2 by omega,
      show (o - 0x200) % 8 = o - 0x210 by omega]
    rfl

/-- Such a write reads back, and no other byte of BAR0 changes. -/
theorem State.bar0Byte_writeDword_base {s : State} {o : Nat} (live : s.stage ≠ .failed)
    (stopped : (s.ring 0).state ≠ .running) (low : 0x200 ≤ o) (high : o < 0x218) (aligned : o % 4 = 0) (x a : Nat) :
    (s.writeDword o x).bar0Byte a =
      if o ≤ a ∧ a < o + 4 then BitVec.ofNat 8 (x / 256 ^ (a - o)) else s.bar0Byte a := by
  have before : s.bar0Byte a = if 0x200 ≤ a ∧ a < 0x300 then (s.ring 0).window.getD (a - 0x200) 0 else s.bar0Byte a := by
    split
    next inside =>
      unfold State.bar0Byte
      rw [if_neg (by omega), if_neg (by omega), if_pos inside.2]
      exact if_neg live
    next => rfl
  rw [State.writeDword_base stopped low high, State.bar0Byte_setRing s _ live, before]
  obtain ⟨size, state⟩ := (s.ring 0).withBase_rest ((o - 0x200) / 8)
    (setDword ((s.ring 0).base ((o - 0x200) / 8)) ((o - 0x200) % 8) x)
  by_cases inside : 0x200 ≤ a ∧ a < 0x300
  · rw [if_pos inside, if_pos inside, Ring.window_getD, Ring.window_getD]
    by_cases bases : a - 0x200 < 24
    · rw [if_pos bases, if_pos bases, Ring.base_withBase _ _ _ _ (by omega) (by omega)]
      by_cases same : (a - 0x200) / 8 = (o - 0x200) / 8
      · rw [if_pos same, byte_setDword, same]
        by_cases word : o ≤ a ∧ a < o + 4
        · rw [if_pos (by omega), if_pos word, show (a - 0x200) % 8 - (o - 0x200) % 8 = a - o by omega]
        · rw [if_neg (by omega), if_neg word]
      · rw [if_neg same, if_neg (by omega)]
    · rw [if_neg bases, if_neg bases, if_neg (by omega), size, state]
  · rw [if_neg inside, if_neg inside, if_neg (by omega)]

theorem State.writeDword_base_keeps {s : State} {o : Nat} (stopped : (s.ring 0).state ≠ .running) (low : 0x200 ≤ o)
    (high : o < 0x218) (x : Nat) :
    (s.writeDword o x).stage = s.stage ∧ ((s.writeDword o x).ring 0).state ≠ .running := by
  rw [State.writeDword_base stopped low high]
  refine ⟨rfl, ?_⟩
  rw [State.ring_setRing, if_pos rfl, (Ring.withBase_rest _ _ _).2]
  exact stopped

/-- A byte of an entry of the MSI-X table. -/
theorem vectorBytes_getD (v : Vectors) (k : Nat) (lt : k < 12) : (vectorBytes v).getD k 0 =
    if k < 8 then BitVec.ofNat 8 (v.address.toNat / 256 ^ k) else BitVec.ofNat 8 (v.data.toNat / 256 ^ (k - 8)) := by
  unfold vectorBytes
  rw [List.append_assoc]
  by_cases first : k < 8
  · rw [List.getD_append _ _ _ _ (by rw [leBytes_length]; exact first), getD_leBytes 8 _ first, if_pos first]
  · rw [List.getD_append_right _ _ _ _ (by rw [leBytes_length]; omega), leBytes_length,
      List.getD_append _ _ _ _ (by rw [leBytes_length]; omega), getD_leBytes 4 _ (by omega), if_neg first]

theorem vectorBytes_getD_mask (v : Vectors) (k : Nat) (ge : 12 ≤ k) :
    (vectorBytes v).getD k 0 = (leBytes 4 (if v.masked then 1 else 0)).getD (k - 12) 0 := by
  unfold vectorBytes
  rw [List.getD_append_right _ _ _ _ (by simp [leBytes_length]; omega)]
  simp [leBytes_length]

/-- A byte of a word cut to its width. -/
theorem byte_mod_two_pow (v n k : Nat) (inside : 8 * k + 8 ≤ n) :
    BitVec.ofNat 8 (v % 2 ^ n / 256 ^ k) = BitVec.ofNat 8 (v / 256 ^ k) :=
  byte_congr fun i small => by rw [Nat.testBit_mod_two_pow, decide_eq_true (by omega), Bool.true_and]

/-- A vector with the dword at byte `k` of its entry replaced. -/
def Vectors.withDword (v : Vectors) (k x : Nat) : Vectors :=
  if k < 8 then { v with address := BitVec.ofNat 64 (setDword v.address.toNat k x) } else { v with data := BitVec.ofNat 32 x }

theorem State.writeDword_vector {s : State} {o : Nat} (low : 0x1000 ≤ o) (high : o < 0x1110) (field : o % 16 < 12)
    (aligned : o % 4 = 0) (x : Nat) : s.writeDword o x =
      s.setVector ((o - 0x1000) / 16) ((s.vector ((o - 0x1000) / 16)).withDword (o % 16) x) := by
  unfold State.writeDword Vectors.withDword
  dsimp only
  rw [if_neg (by omega), if_neg (by omega), if_neg (by omega), if_neg (by omega), if_neg (by omega), if_pos ⟨low, high⟩]
  rcases (by omega : o % 16 = 0 ∨ o % 16 = 4 ∨ o % 16 = 8) with at_ | at_ | at_
  · rw [show (o - 0x1000) % 16 / 4 = 0 by omega, at_, if_pos (by omega)]
    rfl
  · rw [show (o - 0x1000) % 16 / 4 = 1 by omega, at_, if_pos (by omega)]
    rfl
  · rw [show (o - 0x1000) % 16 / 4 = 2 by omega, at_, if_neg (by omega)]
    rfl

/-- A dword written to an address or data field of the MSI-X table reads back, and no other byte of BAR0 changes. -/
theorem State.bar0Byte_writeDword_vector {s : State} {o : Nat} (live : s.stage ≠ .failed) (low : 0x1000 ≤ o)
    (high : o < 0x1110) (field : o % 16 < 12) (aligned : o % 4 = 0) (x a : Nat) :
    (s.writeDword o x).bar0Byte a =
      if o ≤ a ∧ a < o + 4 then BitVec.ofNat 8 (x / 256 ^ (a - o)) else s.bar0Byte a := by
  have before : s.bar0Byte a = if 0x1000 ≤ a ∧ a < 0x1110 then
      (vectorBytes (s.vector ((a - 0x1000) / 16))).getD ((a - 0x1000) % 16) 0 else s.bar0Byte a := by
    split
    next inside =>
      unfold State.bar0Byte
      rw [if_neg (by omega), if_neg (by omega), if_neg (by omega), if_neg (by omega), if_neg live, if_pos inside]
    next => rfl
  rw [State.writeDword_vector low high field aligned]
  have pending : ((s.vector ((o - 0x1000) / 16)).withDword (o % 16) x).pending =
      (s.vector ((o - 0x1000) / 16)).pending := by
    unfold Vectors.withDword
    split <;> rfl
  rw [State.bar0Byte_setVector s _ _ live pending, before]
  by_cases inside : 0x1000 ≤ a ∧ a < 0x1110
  · rw [if_pos inside]
    by_cases same : (a - 0x1000) / 16 = (o - 0x1000) / 16
    · rw [if_pos ⟨inside.1, inside.2, same⟩, same]
      by_cases masks : 12 ≤ (a - 0x1000) % 16
      · rw [vectorBytes_getD_mask _ _ masks, vectorBytes_getD_mask _ _ masks,
          if_neg (show ¬ (o ≤ a ∧ a < o + 4) by omega)]
        unfold Vectors.withDword
        split <;> rfl
      · rw [vectorBytes_getD _ _ (by omega), vectorBytes_getD _ _ (by omega)]
        unfold Vectors.withDword
        by_cases address : o % 16 < 8
        · rw [if_pos address]
          by_cases here : (a - 0x1000) % 16 < 8
          · rw [if_pos here, if_pos here, BitVec.toNat_ofNat, byte_mod_two_pow _ 64 _ (by omega), byte_setDword]
            by_cases word : o ≤ a ∧ a < o + 4
            · rw [if_pos (by omega), if_pos word, show (a - 0x1000) % 16 - o % 16 = a - o by omega]
            · rw [if_neg (by omega), if_neg word]
          · rw [if_neg here, if_neg here, if_neg (by omega)]
        · rw [if_neg address]
          by_cases here : (a - 0x1000) % 16 < 8
          · rw [if_pos here, if_pos here, if_neg (by omega)]
          · rw [if_neg here, if_neg here, BitVec.toNat_ofNat, byte_mod_two_pow _ 32 _ (by omega), if_pos (by omega),
              show (a - 0x1000) % 16 - 8 = a - o by omega]
    · rw [if_neg (fun h => same h.2.2), if_neg (by omega)]
  · rw [if_neg inside, if_neg (fun h => inside ⟨h.1, h.2.1⟩), if_neg (by omega)]

/-- The module answers only at stages 2 to 4. -/
theorem State.live_of_answers {s : State} (answers : s.answers = true) : s.stage ≠ .failed := by
  intro failed
  unfold State.answers at answers
  rw [failed] at answers
  simp at answers

theorem exec_bar0Write_aligned {s : State} {offset : BitVec 16} {wide : Bool} (answers : s.answers = true)
    (aligned : offset.toNat % (if wide then 8 else 4) = 0) (value : W64) :
    execBar0Write offset wide value s = .next (if wide then
      (s.writeDword offset.toNat (value.toNat % 2 ^ 32)).writeDword (offset.toNat + 4) (value.toNat / 2 ^ 32)
      else s.writeDword offset.toNat (value.toNat % 2 ^ 32)) := by
  rw [execBar0Write]
  dsimp only
  rw [if_neg (by rw [answers, aligned]; simp)]

/-- The first bytes of the snapshot: its sequence number and the time. -/
theorem snapBytes_getD (s : State) (seq : W32) :
    (∀ i, i < 4 → (s.snapBytes seq).getD i 0 = BitVec.ofNat 8 (seq.toNat / 256 ^ i)) ∧
    (∀ i, i < 8 → (s.snapBytes seq).getD (8 + i) 0 = BitVec.ofNat 8 (s.timeUs / 256 ^ i)) ∧
    16 ≤ (s.snapBytes seq).length := by
  unfold State.snapBytes
  extract_lets part mask
  simp only [List.append_assoc]
  refine ⟨fun i lt => ?_, fun i lt => ?_, ?_⟩
  · rw [List.getD_append _ _ _ _ (by rw [leBytes_length]; exact lt), getD_leBytes 4 _ lt]
  · rw [List.getD_append_right _ _ _ _ (by rw [leBytes_length]; omega), leBytes_length,
      List.getD_append_right _ _ _ _ (by rw [leBytes_length]; omega), leBytes_length,
      List.getD_append_right _ _ _ _ (by rw [leBytes_length]; omega), leBytes_length,
      List.getD_append _ _ _ _ (by rw [leBytes_length]; omega), show 8 + i - 4 - 2 - 2 = i by omega, getD_leBytes 8 _ lt]
  · simp only [List.length_append, leBytes_length]
    omega

theorem State.bar0Byte_snap (s : State) (live : s.stage ≠ .failed) (i : Nat) (lt : i < 0x2000) :
    s.bar0Byte (0x8000 + i) = Mem.read s.snap i := by
  unfold State.bar0Byte
  rw [if_neg (by omega), if_neg (by omega), if_neg (by omega), if_neg (by omega), if_neg live, if_neg (by omega),
    if_neg (by omega), if_pos (by omega), Nat.add_sub_cancel_left]

/-- Settles O42: an aligned write is one or two dwords, each of which reads back alone. -/
theorem windowWritesReadBack : Obligations.WindowWritesReadBack := by
  unfold Obligations.WindowWritesReadBack
  intro s
  refine ⟨?_, fun ready => ?_⟩
  · intro offset wide value o n answers
    have live := State.live_of_answers answers
    refine ⟨fun odd => if_pos (.inr odd), fun aligned place => ⟨_, exec_bar0Write_aligned answers aligned value, fun a => ?_⟩⟩
    rcases place with ⟨low, high, stopped⟩ | ⟨narrow, low, high, field⟩
    · have four : o % 4 = 0 := by
        cases wide with
        | true => exact (by have h : o % 8 = 0 := aligned; omega)
        | false => exact aligned
      have n_ge : 4 ≤ n := by
        cases wide with
        | true => exact (by decide : 4 ≤ 8)
        | false => exact Nat.le_refl 4
      have first := State.bar0Byte_writeDword_base live stopped low (by omega) four (value.toNat % 2 ^ 32) a
      cases wide with
      | false =>
        rw [if_neg Bool.false_ne_true]
        refine first.trans ?_
        change _ = if o ≤ a ∧ a < o + 4 then _ else _
        split
        next inside => exact byte_mod_dword _ _ (by omega)
        next => rfl
      | true =>
        have wide_ : o + 8 ≤ 0x218 := high
        obtain ⟨stage, stays⟩ := State.writeDword_base_keeps stopped low (by omega) (value.toNat % 2 ^ 32)
        rw [if_pos rfl]
        refine (State.bar0Byte_writeDword_base (by rw [stage]; exact live) stays (by omega) (by omega) (by omega)
          (value.toNat / 2 ^ 32) a).trans ?_
        rw [first]
        change _ = if o ≤ a ∧ a < o + 8 then _ else _
        by_cases upper : o + 4 ≤ a ∧ a < o + 4 + 4
        · rw [if_pos upper, if_pos (by omega), byte_div_dword, show a - (o + 4) + 4 = a - o by omega]
        · rw [if_neg upper]
          by_cases lower : o ≤ a ∧ a < o + 4
          · rw [if_pos lower, if_pos (by omega), byte_mod_dword _ _ (by omega)]
          · rw [if_neg lower, if_neg (by omega)]
    · subst narrow
      rw [if_neg Bool.false_ne_true]
      refine (State.bar0Byte_writeDword_vector live low high field aligned (value.toNat % 2 ^ 32) a).trans ?_
      change _ = if o ≤ a ∧ a < o + 4 then _ else _
      split
      next inside => exact byte_mod_dword _ _ (by omega)
      next => rfl
  · obtain ⟨seq, time, long⟩ := snapBytes_getD s (s.snapSeq + 2)
    let t : State := { s with snapSeq := s.snapSeq + 2, snap := Mem.writeBytes [] 0 (s.snapBytes (s.snapSeq + 2)) }
    have live : t.stage ≠ .failed := by
      rw [show t.stage = .ready from ready]
      decide
    have shown (i : Nat) (lt : i < 16) : t.bar0Byte (0x8000 + i) = (s.snapBytes (s.snapSeq + 2)).getD i 0 := by
      rw [State.bar0Byte_snap t live i (by omega)]
      refine (Mem.read_writeBytes [] 0 _ i).trans ?_
      rw [if_pos (by omega), Nat.sub_zero]
    refine ⟨t, if_neg (not_not.2 ready), rfl, rfl, fun i lt => ?_, fun i lt => ?_⟩
    · exact (shown i (by omega)).trans (seq i lt)
    · rw [show 0x8008 + i = 0x8000 + (8 + i) by omega]
      exact (shown (8 + i) (by omega)).trans (time i lt)

end Sys2Proof.Machine
end

section
/-! PROOFS. Cast-on, resets, the events of the IDE stream, and the I3C target. -/

namespace Sys2Proof.Machine

/-! ### What a reset loses -/

/-- What is lost and what stays when the module's working state is cleared. -/
def State.Lost (s t : State) : Prop :=
  t.partitions = [] ∧ t.rings = [] ∧ t.vectors = [] ∧ t.session = none ∧
  (∀ k, t.rim k = { Rim.reset with temperature := (s.rim k).temperature }) ∧ t.features = 0 ∧ t.linkUp = false ∧
  t.envelope = s.part.floorW ∧ t.firmware = s.firmware ∧ t.spares = s.spares ∧
  t.activeSlot = s.activeSlot ∧ t.minSvn = s.minSvn ∧ t.time = s.time ∧ t.power = s.power

theorem State.cleared_rim (s : State) (k : Nat) : s.cleared.rim k = { Rim.reset with temperature := (s.rim k).temperature } := by
  have read : s.cleared.rim k =
      Sparse.getD Rim.reset (Sparse.mapVals (fun _ r => { Rim.reset with temperature := r.temperature }) s.rims) k := rfl
  rw [read, Sparse.getD, Sparse.get?_mapVals]
  unfold State.rim Sparse.getD
  cases Sparse.get? s.rims k <;> rfl

theorem State.lost_cleared (s : State) : s.Lost s.cleared :=
  ⟨rfl, rfl, rfl, rfl, s.cleared_rim, rfl, rfl, rfl, rfl, rfl, rfl, rfl, rfl, rfl⟩

/-! ### Cast-on -/

/-- What cast-on makes of the module, by the image that verifies. -/
theorem exec_castOn_reset {s : State} (good : s.power = .good) (reset : s.stage = .reset) :
    execCastOn s =
      let t : State := { s.cleared with perst := false, bootCount := s.bootCount + 1 }
      .next (State.relimit (if s.fwVerifies (s.slotImage s.activeSlot) then
          { t with stage := .rom, runningImage := fwBytes (s.slotImage s.activeSlot) }
        else if s.fwVerifies (s.slotImage (1 - s.activeSlot)) then
          { t with stage := .rom, runningImage := fwBytes (s.slotImage (1 - s.activeSlot)), fallback := true }
        else { t with stage := .failed })) :=
  if_neg (by simp [good, reset])

/-- The module at stage 4: what cast-on leaves of the spare record and the mesh, and rims as stage 3 leaves them. -/
theorem exec_castOnReady_due {s : State} (trained : s.stage = .link ∨ s.stage = .background) (failed : List Node) :
    execCastOnReady failed s =
      let t := (failed.foldl (fun t n => t.failDie n) s).remesh
      .next { t with
        stage := .ready, meshValid := true, minSvn := max t.minSvn (fwSvn t.runningImage)
        rims := ((List.range 16).filter t.part.hasRim).map (fun k => (k, t.freshRim k)) } :=
  if_neg (fun h => trained.elim h.1 h.2)

/-- Settles O43: cast-on by the image that verifies, resets by what clearing loses, the rest by their guards. -/
theorem castOnRuns : Obligations.CastOnRuns := by
  unfold Obligations.CastOnRuns
  intro s lost
  have cleared : lost s.cleared := s.lost_cleared
  refine ⟨?_, fun rate narrow rom => if_pos rom, ?_, fun good => ?_, fun good up => ?_, fun ide secure => ?_, fun k now => ?_,
    fun k old late => ?_⟩
  · intro good reset image runs
    have starts := exec_castOn_reset good reset
    dsimp only at starts
    refine ⟨fun (active : s.fwVerifies (s.slotImage s.activeSlot) = true) => ?_,
      fun (active : s.fwVerifies (s.slotImage s.activeSlot) = false)
        (other : s.fwVerifies (s.slotImage (1 - s.activeSlot)) = true) => ?_,
      fun (active : s.fwVerifies (s.slotImage s.activeSlot) = false)
        (other : s.fwVerifies (s.slotImage (1 - s.activeSlot)) = false) => ?_⟩
    · rw [if_pos active] at starts
      exact ⟨_, starts, cleared, rfl, rfl, rfl, rfl, rfl⟩
    · rw [if_neg (Bool.eq_false_iff.1 active), if_pos other] at starts
      exact ⟨_, starts, cleared, rfl, rfl, rfl, rfl, rfl⟩
    · rw [if_neg (Bool.eq_false_iff.1 active), if_neg (Bool.eq_false_iff.1 other)] at starts
      exact ⟨_, starts, cleared, rfl, rfl⟩
  · intro failed trained
    obtain ⟨frame, -⟩ : s.Retires (failed.foldl (fun t n => t.failDie n) s) :=
      State.Retires.foldl (fun t n => t.retires_failDie n) failed s
    obtain ⟨mesh, -, whole⟩ := (failed.foldl (fun t n => t.failDie n) s).remesh_spec
    have svn : max (failed.foldl (fun t n => t.failDie n) s).remesh.minSvn
        (fwSvn (failed.foldl (fun t n => t.failDie n) s).remesh.runningImage) = max s.minSvn (fwSvn s.runningImage) := by
      rw [mesh, frame]
    have parts : (failed.foldl (fun t n => t.failDie n) s).remesh.partitions = s.partitions := by rw [mesh, frame]
    have part : (failed.foldl (fun t n => t.failDie n) s).remesh.part = s.part := by rw [mesh, frame]
    have spares : (failed.foldl (fun t n => t.failDie n) s).remesh.spares = (failed.foldl (fun t n => t.failDie n) s).spares := by
      rw [mesh]
    have derive : (failed.foldl (fun t n => t.failDie n) s).remesh.deriveMesh =
        (failed.foldl (fun t n => t.failDie n) s).deriveMesh := by
      rw [mesh]
      rfl
    refine ⟨_, exec_castOnReady_due trained failed, rfl, rfl, svn, parts, fun h r derived => ?_, fun n mem skein => ?_,
      fun k fitted => ?_⟩
    · exact whole h r (derive.symm.trans derived)
    · have retired := retired_of_failDie (s := s) mem skein
      exact (congrArg (fun z : Spares => (Sparse.getD 0 z.retired (skeinOf n).1).getLsbD (skeinOf n).2) spares).trans retired
    · generalize (failed.foldl (fun t n => t.failDie n) s).remesh = t at part
      have listed : k.val ∈ (List.range 16).filter t.part.hasRim := by
        rw [part]
        exact List.mem_filter.2 ⟨List.mem_range.2 k.isLt, fitted⟩
      have read : Sparse.getD Rim.reset (((List.range 16).filter t.part.hasRim).map (fun k => (k, t.freshRim k))) k.val =
          t.freshRim k := by
        rw [Sparse.getD, Sparse.get?_map_keys, if_pos listed]
        rfl
      exact ⟨congrArg Rim.key read, congrArg Rim.stack read, congrArg Rim.cache read⟩
  · have powered : ¬ s.power = .removed := by rw [good]; decide
    exact ⟨_, (if_neg powered).trans (if_neg (not_not.2 good)), cleared, rfl, rfl⟩
  · exact ⟨_, if_neg (by simp [good, up]), cleared, rfl, rfl⟩
  · exact if_pos ⟨ide, secure⟩
  · change execIdeTxKeySwitch s = _
    rw [execIdeTxKeySwitch, now]
    dsimp only
    split
    next already => rw [← already]
    next => rfl
  · have expires : execIdeOldKeyExpiry s =
        .next { s with ide := { s.ide with old := none, keys := Sparse.erase s.ide.keys k } } := by
      rw [execIdeOldKeyExpiry, old]
      exact if_neg (Nat.not_lt.2 late)
    exact ⟨_, expires, rfl, rfl, rfl, fun j => Sparse.get?_erase _ _ _⟩

/-! ### The I3C target -/

theorem State.i3cLive_iff (s : State) : s.i3cLive = true ↔ s.i3cReady = true ∧ s.i3cAddress ≠ none := by
  unfold State.i3cLive
  rw [Bool.and_eq_true, Option.isSome_iff_ne_none]

/-- A directed read is answered at the target's dynamic address, and not acknowledged without one. -/
theorem State.i3cGet_spec (s : State) (bs : List Byte) :
    ∃ t, s.i3cGet bs = .next t ∧
      (s.i3cReady = true ∧ s.i3cAddress ≠ none → t = { s with i3cAck := true, i3cAnswer := bs }) ∧
      (¬ (s.i3cReady = true ∧ s.i3cAddress ≠ none) → t = { s with i3cAck := false, i3cAnswer := [] }) :=
  ⟨_, rfl, fun live => if_pos (s.i3cLive_iff.2 live), fun dead => if_neg (fun h => dead (s.i3cLive_iff.1 h))⟩

/-- The provisional ID fits in its 48 bits. -/
theorem State.provisionalId_lt (s : State) : s.provisionalId < 256 ^ 6 := by
  have code : s.part.code ≤ 0x100 := by cases s.part <;> decide
  have serial : s.serial.toNat % 2 ^ 16 < 2 ^ 16 := Nat.mod_lt _ (by decide)
  unfold State.provisionalId
  omega

theorem length_management (s : State) : s.management.length = 128 := by
  have rims : ((List.range 16).flatMap (fun k => if s.part.hasRim k then signedBytes 2 (s.rim k).temperature
      else zeroBytes 2)).length = 32 := by
    rw [List.length_flatMap, List.sum_eq_card_nsmul _ 2]
    · simp
    · intro n mem
      obtain ⟨k, -, rfl⟩ := List.mem_map.1 mem
      split <;> simp [signedBytes, zeroBytes, leBytes_length]
  unfold State.management
  extract_lets b
  simp only [List.length_append, leBytes_length, signedBytes, zeroBytes, List.length_replicate] at rims ⊢
  rw [rims]

/-- Settles O44: each command by whether the target is ready and holds an address. -/
theorem targetAnswersCommands : Obligations.TargetAnswersCommands := by
  unfold Obligations.TargetAnswersCommands
  refine ⟨?_, ?_⟩
  · intro s a nack takes live gives
    have takesAddress (command : Instr) (does : exec command s =
        if s.i3cReady ∧ s.i3cAddress.isNone then .next { s.i3cReturn [] with i3cAddress := some a } else .next s.i3cNack) :
        takes command := by
      by_cases free : s.i3cReady = true ∧ s.i3cAddress = none
      · refine ⟨_, does.trans (if_pos ⟨free.1, by rw [free.2]; rfl⟩), ?_⟩
        rw [if_pos free]
        rfl
      · refine ⟨_, does.trans (if_neg fun h => free ⟨h.1, Option.isNone_iff_eq_none.1 h.2⟩), ?_⟩
        rw [if_neg free]
        rfl
    refine ⟨fun good late => if_pos ⟨good, late⟩, takesAddress _ rfl, takesAddress _ rfl, fun ready => if_pos ready,
      fun held => if_pos (s.i3cLive_iff.2 held), s.i3cGet_spec _, s.i3cGet_spec _, s.i3cGet_spec _, s.i3cGet_spec _,
      ⟨(leBytes 6 s.provisionalId).reverse, s.i3cGet_spec _, ?_, ?_⟩, fun held => ?_, fun action => ⟨_, rfl, ?_, ?_⟩⟩
    · rw [List.reverse_reverse, leNat_leBytes]
      exact Nat.mod_eq_of_lt s.provisionalId_lt
    · rw [List.length_reverse, leBytes_length]
    · obtain ⟨t, gets, answers, -⟩ := (s.freeBytes 2).2.i3cGet_spec (s.freeBytes 2).1
      have answer := answers held
      refine ⟨t, gets, by rw [answer], ?_, ?_⟩
      · rw [answer]
        simp [State.freeBytes]
      · rw [answer]
        rfl
    · exact fun held zero => if_pos ⟨s.i3cLive_iff.2 held, zero⟩
    · intro dead
      refine if_neg fun h => ?_
      rcases dead with dead | other
      · exact dead (s.i3cLive_iff.1 h.1)
      · exact other h.2
  · intro s ready held
    have live := s.i3cLive_iff.2 ⟨ready, held⟩
    refine ⟨fun b rest => ?_, fun count => ?_, length_management s⟩
    · refine (if_pos live).trans ?_
      rw [show decide (rest = []) = rest.isEmpty by cases rest <;> rfl]
      rfl
    · obtain ⟨t, gets, answers, -⟩ := s.i3cGet_spec
        ((List.range count).map (fun i => s.management.getD ((s.i3cOffset.toNat + i) % 128) 0))
      have answer := answers ⟨ready, held⟩
      refine ⟨t, gets, by rw [answer], ?_, fun i lt => ?_⟩
      · rw [answer]
        simp
      · rw [answer]
        simp [lt]

end Sys2Proof.Machine
end

section
/-! PROOFS. The gate of the ring commands, and the general commands. -/

namespace Sys2Proof.Machine

/-! ### The gate -/

/-- What a command does before it takes effect: nothing before it is picked up and its turn has come, a refusal, or a wait. -/
def State.Gated (s : State) (q : Request) (c : Picked) (opcode : Nat) (o : Out) : Prop :=
  (s.picked? q opcode = none → o = .next s) ∧
  (s.picked? q opcode = some c → (s.ring (ringNumber q.ring)).mayStart s.holdsBack c = false → o = .next s) ∧
  (s.picked? q opcode = some c → (s.ring (ringNumber q.ring)).mayStart s.holdsBack c = true →
    (∀ st, s.refusal q opcode = some st → o = .next (s.answer q opcode c st 0 [])) ∧
    (s.refusal q opcode = none → s.holdsBack opcode = true → o = .next s) ∧
    (∀ st, s.refusal q opcode = none → s.holdsBack opcode = false → s.lacking q opcode = some st →
      o = .next (s.answer q opcode c st 0 [])))

/-- The gate answers before it looks at the command's own check. -/
theorem State.gate_spec (s : State) (q : Request) (c : Picked) (opcode : Nat) (check : Option Status) :
    (s.picked? q opcode = none → s.gate q opcode check = .waits) ∧
    (s.picked? q opcode = some c → (s.ring (ringNumber q.ring)).mayStart s.holdsBack c = false →
      s.gate q opcode check = .waits) ∧
    (s.picked? q opcode = some c → (s.ring (ringNumber q.ring)).mayStart s.holdsBack c = true →
      (∀ st, s.refusal q opcode = some st → s.gate q opcode check = .refused c st) ∧
      (s.refusal q opcode = none → s.holdsBack opcode = true → s.gate q opcode check = .waits) ∧
      (∀ st, s.refusal q opcode = none → s.holdsBack opcode = false → s.lacking q opcode = some st →
        s.gate q opcode check = .refused c st)) := by
  refine ⟨fun missing => ?_, fun picked early => ?_, fun picked turn => ⟨fun st refused => ?_, fun formed held => ?_,
    fun st formed free lacks => ?_⟩⟩
  · simp [State.gate, missing]
  · simp [State.gate, picked, early]
  · simp [State.gate, picked, turn, refused]
  · simp [State.gate, picked, turn, formed, held]
  · simp [State.gate, picked, turn, formed, free, lacks]

/-- A command whose outcome is the gate's, but for what it does when it runs, is gated. -/
theorem State.gated_of_gate {s : State} {q : Request} {c : Picked} {opcode : Nat} {check : Option Status} {o : Out}
    (waits : s.gate q opcode check = .waits → o = .next s)
    (refused : ∀ st, s.gate q opcode check = .refused c st → o = .next (s.answer q opcode c st 0 [])) :
    s.Gated q c opcode o := by
  obtain ⟨missing, early, due⟩ := s.gate_spec q c opcode check
  refine ⟨fun h => waits (missing h), fun h g => waits (early h g), fun h g => ?_⟩
  obtain ⟨bad, held, lacks⟩ := due h g
  exact ⟨fun st r => refused st (bad st r), fun r f => waits (held r f), fun st r f l => refused st (lacks st r f l)⟩

theorem State.gated_serve {s : State} {q : Request} {c : Picked} {opcode : Nat} {check : Option Status}
    {run : Picked → State → State} {o : Out} (does : o = s.serve q opcode check run) : s.Gated q c opcode o := by
  refine State.gated_of_gate (check := check) (fun waits => ?_) (fun st refused => ?_)
  · rw [does, State.serve, waits]
  · rw [does, State.serve, refused]

theorem State.gated_serveWhen {s : State} {q : Request} {c : Picked} {opcode : Nat} {check : Option Status} {ready : Bool}
    {run : Picked → State → State} {o : Out} (does : o = s.serveWhen q opcode check ready run) : s.Gated q c opcode o := by
  refine State.gated_of_gate (check := check) (fun waits => ?_) (fun st refused => ?_)
  · rw [does, State.serveWhen, waits]
  · rw [does, State.serveWhen, refused]

/-- Settles O45: every command of the rings is served through the one gate. -/
theorem ringCommandsAreGated : Obligations.RingCommandsAreGated := by
  unfold Obligations.RingCommandsAreGated
  intro s q c
  have gated : ∀ e ∈ [(0x0001, Instr.nop q), (0x0002, .negotiate q), (0x0010, .partitionCreate q), (0x0011, .partitionDestroy q),
        (0x0012, .ringCreate q), (0x0013, .setEnvelope q), (0x0018, .readStatus q), (0x0020, .sessionOpen q), (0x0021, .attest q),
        (0x0022, .ideKey q), (0x0023, .fwUpdate q), (0x0024, .debugUnlock q), (0x0100, .contextCreate q),
        (0x0101, .contextDestroy q), (0x0102, .contextWindow q), (0x0110, .loadPattern q), (0x0111, .unloadPattern q),
        (0x0112, .runSteps q), (0x0113, .stackWrite q), (0x0114, .stackRead q), (0x0115, .checkpoint q), (0x0116, .restore q),
        (0x0120, .seqAdmit q), (0x0121, .seqSwapWindow q), (0x0122, .seqRead q), (0x0130, .readCounters q),
        (0x0131, .readPerf q)], s.Gated q c e.1 (exec e.2 s) := by
    simp only [List.forall_mem_cons]
    change s.Gated q c _ (execNop q s) ∧ s.Gated q c _ (execNegotiate q s) ∧ s.Gated q c _ (execPartitionCreate q s) ∧ s.Gated q
      c _ (execPartitionDestroy q s) ∧ s.Gated q c _ (execRingCreate q s) ∧ s.Gated q c _ (execSetEnvelope q s) ∧ s.Gated q
      c _ (execReadStatus q s) ∧ s.Gated q c _ (execSessionOpen q s) ∧ s.Gated q c _ (execAttest q s) ∧ s.Gated q c _
      (execIdeKey q s) ∧ s.Gated q c _ (execFwUpdate q s) ∧ s.Gated q c _ (execDebugUnlock q s) ∧ s.Gated q c _
      (execContextCreate q s) ∧ s.Gated q c _ (execContextDestroy q s) ∧ s.Gated q c _ (execContextWindow q s) ∧ s.Gated q c
      _ (execLoadPattern q s) ∧ s.Gated q c _ (execUnloadPattern q s) ∧ s.Gated q c _ (execRunSteps q s) ∧ s.Gated q c _
      (execStackWrite q s) ∧ s.Gated q c _ (execStackRead q s) ∧ s.Gated q c _ (execCheckpoint q s) ∧ s.Gated q c _
      (execRestore q s) ∧ s.Gated q c _ (execSeqAdmit q s) ∧ s.Gated q c _ (execSeqSwapWindow q s) ∧ s.Gated q c _
      (execSeqRead q s) ∧ s.Gated q c _ (execReadCounters q s) ∧ s.Gated q c _ (execReadPerf q s) ∧ _
    unfold execNop execNegotiate execPartitionCreate execPartitionDestroy execRingCreate execSetEnvelope
      execReadStatus execSessionOpen execAttest execIdeKey execFwUpdate execDebugUnlock execContextCreate execContextDestroy
      execContextWindow execLoadPattern execUnloadPattern execRunSteps execStackWrite execStackRead execCheckpoint
      execRestore execSeqAdmit execSeqSwapWindow execSeqRead execReadCounters execReadPerf
    refine ⟨State.gated_serve rfl, State.gated_serve rfl, State.gated_serve rfl, State.gated_serve rfl, State.gated_serve
      rfl, State.gated_serve rfl, State.gated_serve rfl, State.gated_serve rfl, State.gated_serve rfl, ?_⟩
    refine ⟨State.gated_serve rfl, State.gated_serve rfl, State.gated_serve rfl, State.gated_serve rfl, State.gated_serve
      rfl, State.gated_serve rfl, State.gated_serve rfl, State.gated_serve rfl, State.gated_serve rfl, ?_⟩
    exact ⟨State.gated_serveWhen rfl, State.gated_serveWhen rfl, State.gated_serve rfl, State.gated_serveWhen rfl,
      State.gated_serve rfl, State.gated_serve rfl, State.gated_serve rfl, State.gated_serve rfl, State.gated_serve rfl,
      List.forall_mem_nil _⟩
  exact gated

/-! ### The host link -/

/-- `t` is `s` but for the partitions and the shares of the host link. -/
def State.LinkOnly (s t : State) : Prop := t = { s with partitions := t.partitions, hubIn := t.hubIn, hubOut := t.hubOut }

theorem State.LinkOnly.refl (s : State) : s.LinkOnly s := rfl

theorem State.LinkOnly.trans {s t u : State} (h : s.LinkOnly t) (g : t.LinkOnly u) : s.LinkOnly u := by
  rw [LinkOnly, g, h]

theorem State.LinkOnly.foldl {α : Type} {f : State → α → State} (step : ∀ t a, State.LinkOnly t (f t a)) (l : List α)
    (s : State) : s.LinkOnly (l.foldl f s) := by
  induction l generalizing s with
  | nil => exact .refl s
  | cons a l ih => exact (step s a).trans (ih _)

theorem State.linkOnly_setPartition (s : State) (p : Nat) (x : Partition) : s.LinkOnly (s.setPartition p x) := rfl

/-- What the hub serves changes only the shares of the link. -/
theorem State.linkOnly_hubServe {s u : State} {p units : Nat} {out : Bool} (serves : s.hubServe p out units = some u) :
    s.LinkOnly u := by
  unfold State.hubServe at serves
  split at serves
  · cases serves
  split at serves
  · cases serves
    exact .refl s
  dsimp only at serves
  split at serves
  · cases serves
    exact s.linkOnly_setPartition p _
  split at serves
  · cases serves
  next turn lines _ =>
    injection serves with serves
    rw [← serves]
    refine LinkOnly.trans (LinkOnly.trans ?_ (LinkOnly.foldl (fun t l => ?_) lines _)) (State.linkOnly_setPartition _ p _)
    · split <;> rfl
    · split
      · split
        · exact .refl t
        · exact t.linkOnly_setPartition _ _
      · exact .refl t

/-! ### The general commands -/

theorem refuseIf_true {b : Bool} (h : b = true) (st : Status) : refuseIf b st = some st := if_pos h

theorem refuseIf_false {b : Bool} (h : b = false) (st : Status) : refuseIf b st = none := if_neg (by simp [h])

/-- The features that the module supports are 0 to 14 and 16. -/
theorem getLsbD_supported (i : Nat) : supported.getLsbD i = decide (i ≤ 14 ∨ i = 16) := by
  by_cases low : i < 17
  · have all : ∀ i : Fin 17, supported.getLsbD i = decide (i.val ≤ 14 ∨ i.val = 16) := by decide
    exact all ⟨i, low⟩
  · have small : supported.toNat < 2 ^ i := Nat.lt_of_lt_of_le (by decide : supported.toNat < 2 ^ 17)
      (Nat.pow_le_pow_right (by decide) (by omega))
    rw [decide_eq_false (by omega)]
    exact Nat.testBit_lt_two_pow small

section
variable {s : State} {q : Request} {c : Picked}

theorem exec_negotiate_refused (h : Accepts s q 0x0002 c) {st : Status} (refused : s.negotiateCheck q.entry = some st) :
    exec (.negotiate q) s = .next (s.answer q 0x0002 c st 0 []) := by
  change execNegotiate q s = _
  rw [execNegotiate, refused, h.serve_refused]

theorem exec_negotiate_runs (h : Accepts s q 0x0002 c) (clear : s.negotiateCheck q.entry = none) :
    exec (.negotiate q) s = .next (State.done { s.unpick (ringNumber q.ring) c with features := offered q.entry &&& supported }
      q 0x0002 .ok (words 8 (offered q.entry &&& supported).toNat)) := by
  change execNegotiate q s = _
  rw [execNegotiate, clear, h.serve_runs]

theorem exec_ringCreate_runs (h : Accepts s q 0x0012 c) (clear : s.ringCreateCheck q.entry = none) :
    exec (.ringCreate q) s = .next (State.done ((s.unpick (ringNumber q.ring) c).startRing (q.entry.part.toNat + 1)
      (paramPair q.entry 0) (paramPair q.entry 2) (paramPair q.entry 4) (paramAt q.entry 6)) q 0x0012 .ok []) := by
  change execRingCreate q s = _
  rw [execRingCreate, clear, h.serve_runs]

theorem exec_badOpcodeCommand_turn {opcode : BitVec 16} (unknown : opcode.toNat ∉ knownOpcodes)
    (picked : s.picked? q opcode.toNat = some c) (turn : (s.ring (ringNumber q.ring)).mayStart s.holdsBack c = true) :
    exec (.badOpcodeCommand q opcode) s = .next (s.answer q opcode.toNat c .badOpcode 0 []) := by
  change execBadOpcodeCommand q opcode s = _
  rw [execBadOpcodeCommand, if_neg (by simpa using unknown), picked]
  exact if_pos turn

end

/-- The transfer of a tag that only one command in progress carries. -/
theorem findSome?_transfer {l : List Active} {a : Active} {tag : BitVec 16} {st : Status} {detail : Nat} {result : List W32}
    (mem : a ∈ l) (named : a.entry.tag = tag) (how : a.progress = .transfer st detail result)
    (only : ∀ b ∈ l, b.entry.tag = tag → b = a) :
    l.findSome? (fun a => match a.progress with
      | .transfer st detail result => if a.entry.tag = tag then some (a, st, detail, result) else none
      | _ => none) = some (a, st, detail, result) := by
  induction l with
  | nil => cases mem
  | cons b l ih =>
    rw [List.findSome?_cons]
    by_cases here : b.entry.tag = tag
    · rw [only b List.mem_cons_self here, how]
      simp [named]
    · have other : a ≠ b := fun h => here (h ▸ named)
      have skipped : (match b.progress with
          | .transfer st detail result => if b.entry.tag = tag then some (b, st, detail, result) else none
          | _ => none) = none := by
        split
        · exact if_neg here
        · rfl
      rw [skipped]
      exact ih ((List.mem_cons.1 mem).resolve_left other) (fun b' m => only b' (List.mem_cons_of_mem _ m))

/-- The end of a host transfer, by what the hub serves. -/
theorem exec_hostTransferComplete_found {s : State} {ring : RingId} {tag : BitVec 16} {a : Active} {st : Status} {detail : Nat}
    {result : List W32} (mem : a ∈ (s.ring (ringNumber ring)).active) (named : a.entry.tag = tag)
    (how : a.progress = .transfer st detail result)
    (only : ∀ b ∈ (s.ring (ringNumber ring)).active, b.entry.tag = tag → b = a) :
    exec (.hostTransferComplete ring tag) s =
      match s.hubServe a.entry.part.toNat (a.opcode == 0x0114) ((a.entry.len.toNat + 4095) / 4096) with
      | none => .next s
      | some u => .next (u.finish (ringNumber ring) a st detail result) := by
  have found := findSome?_transfer mem named how only
  have units : a.hostUnits = some (a.opcode == 0x0114, (a.entry.len.toNat + 4095) / 4096) := by
    rw [Active.hostUnits, how]
    rfl
  change execHostTransferComplete ring tag s = _
  unfold execHostTransferComplete
  dsimp only
  split
  next none_ => cases none_.symm.trans found
  next a' st' detail' result' some_ =>
    cases some_.symm.trans found
    rw [units] <;> rfl

/-- Settles O46: each command by the gate and its own check; a host transfer by what the hub serves. -/
theorem generalCommandsComplete : Obligations.GeneralCommandsComplete := by
  unfold Obligations.GeneralCommandsComplete
  intro s q c k t e
  refine ⟨fun h => ?_, fun opcode unknown picked turn => exec_badOpcodeCommand_turn unknown picked turn,
    fun h => ⟨fun core mx empty => ?_, fun lacks => ?_, fun core mx some_ => ?_⟩, fun h stopped legal => ?_, ?_⟩
  · change execNop q s = _
    rw [execNop, h.serve_runs]
    rfl
  · have clear : s.negotiateCheck q.entry = none := by
      rw [State.negotiateCheck, if_neg (by rw [show (offered q.entry).getLsbD 0 = true from core,
        show (offered q.entry).getLsbD 16 = true from mx]; simp), empty]
      rfl
    refine ⟨_, exec_negotiate_runs h clear, fun i lt => ?_⟩
    rw [BitVec.getLsbD_and, getLsbD_supported i]
  · refine exec_negotiate_refused h (if_pos ?_)
    rcases lacks with lacks | lacks
    · exact .inl (by rw [show (offered q.entry).getLsbD 0 = false from lacks]; exact Bool.false_ne_true)
    · exact .inr (by rw [show (offered q.entry).getLsbD 16 = false from lacks]; exact Bool.false_ne_true)
  · refine exec_negotiate_refused h ?_
    rw [State.negotiateCheck, if_neg (by rw [show (offered q.entry).getLsbD 0 = true from core,
      show (offered q.entry).getLsbD 16 = true from mx]; simp)]
    exact refuseIf_true (by simpa using some_) .busy
  · have clear : s.ringCreateCheck q.entry = none := by
      rw [State.ringCreateCheck, if_neg stopped]
      exact refuseIf_false (by rw [show ringLegal (paramPair q.entry 0) (paramPair q.entry 2) (paramPair q.entry 4)
        (paramAt q.entry 6) = true from legal]; rfl) .badParam
    exact ⟨_, exec_ringCreate_runs h clear, (State.ring_setRing t _ _ _).trans (if_pos rfl), rfl⟩
  · intro tag a st detail result mem named how only out serves
    have ends := exec_hostTransferComplete_found mem named how only
    refine ⟨fun u served => ⟨(congrArg State.rings (State.linkOnly_hubServe served) :), ends.trans ?_⟩,
      fun unserved => ends.trans ?_, fun insecure => ?_, fun secure gone => ?_, fun secure alone => ?_⟩
    · rw [show s.hubServe a.entry.part.toNat (a.opcode == 0x0114) ((a.entry.len.toNat + 4095) / 4096) = some u from served]
    · rw [show s.hubServe a.entry.part.toNat (a.opcode == 0x0114) ((a.entry.len.toNat + 4095) / 4096) = none from unserved]
    · exact if_pos insecure
    · change State.hubServe _ _ _ _ = _
      rw [State.hubServe, if_neg (by simp [secure]), gone]
    · exact State.hubServe_alone s _ _ _ secure alone

end Sys2Proof.Machine
end

section
/-! PROOFS. Reports, and the management of partitions and contexts. -/

namespace Sys2Proof.Machine

/-! ### Reports -/

section
variable {s : State} {q : Request} {c : Picked}

theorem exec_readStatus_runs (h : Accepts s q 0x0018 c) (known : paramAt q.entry 0 ≤ 3)
    (fits : (s.statusRecord q.ring (paramAt q.entry 0)).length ≤ q.entry.len.toNat) :
    exec (.readStatus q) s = .next (State.done ((s.unpick (ringNumber q.ring) c).hostWrite q.entry.addr.toNat
      (s.statusRecord q.ring (paramAt q.entry 0))) q 0x0018 .ok
      [BitVec.ofNat 32 (s.statusRecord q.ring (paramAt q.entry 0)).length]) := by
  change execReadStatus q s = _
  rw [execReadStatus]
  rw [refuseIf_false (by simp [known, fits]), h.serve_runs]
  rfl

theorem exec_readStatus_refused (h : Accepts s q 0x0018 c)
    (bad : 3 < paramAt q.entry 0 ∨ q.entry.len.toNat < (s.statusRecord q.ring (paramAt q.entry 0)).length) :
    exec (.readStatus q) s = .next (s.answer q 0x0018 c .badParam 0 []) := by
  change execReadStatus q s = _
  rw [execReadStatus]
  rw [refuseIf_true (by simpa using bad), h.serve_refused]

theorem exec_readCounters_refused (h : Accepts s q 0x0130 c) {st : Status} (refused : s.readCountersCheck q.entry = some st) :
    exec (.readCounters q) s = .next (s.answer q 0x0130 c st 0 []) := by
  change execReadCounters q s = _
  rw [execReadCounters]
  rw [refused, h.serve_refused]

theorem exec_readCounters_runs (h : Accepts s q 0x0130 c) (known : paramAt q.entry 0 ≤ 2) {rs : List (List Byte)}
    (asked : s.askedRecords q.entry = some rs) (fits : 96 * rs.length ≤ q.entry.len.toNat) :
    exec (.readCounters q) s = .next (State.done ((s.unpick (ringNumber q.ring) c).hostWrite q.entry.addr.toNat rs.flatten)
      q 0x0130 .ok [BitVec.ofNat 32 rs.length]) := by
  have clear : s.readCountersCheck q.entry = none := by
    rw [State.readCountersCheck, if_neg (by omega), asked]
    exact refuseIf_false (by simp [fits]) .badParam
  change execReadCounters q s = _
  rw [execReadCounters]
  rw [clear, asked, h.serve_runs]
  rfl

theorem exec_readPerf_none (h : Accepts s q 0x0131 c) (none_ : s.perf q.entry = none) :
    exec (.readPerf q) s = .next (s.answer q 0x0131 c .badParam 0 []) := by
  change execReadPerf q s = _
  rw [execReadPerf]
  rw [none_]
  exact h.serve_refused _ .badParam

theorem exec_readPerf_runs (h : Accepts s q 0x0131 c) {bs : List Byte} (found : s.perf q.entry = some bs)
    (fits : bs.length ≤ q.entry.len.toNat) :
    exec (.readPerf q) s =
      .next (State.done ((s.unpick (ringNumber q.ring) c).hostWrite q.entry.addr.toNat bs) q 0x0131 .ok []) := by
  change execReadPerf q s = _
  rw [execReadPerf]
  rw [found]
  dsimp only
  rw [refuseIf_false (by simp [fits]), h.serve_runs]
  rfl

theorem exec_attest_runs (h : Accepts s q 0x0021 c) (fits : 9216 ≤ q.entry.len.toNat) :
    exec (.attest q) s = .next (State.done ((s.unpick (ringNumber q.ring) c).hostWrite q.entry.addr.toNat
      ((s.attestation q.entry).take q.entry.len.toNat)) q 0x0021 .ok
      [BitVec.ofNat 32 ((s.attestation q.entry).take q.entry.len.toNat).length]) := by
  change execAttest q s = _
  rw [execAttest]
  rw [refuseIf_false (by simp [fits]), h.serve_runs]
  rfl

end

/-- The records asked for of a partition. -/
theorem State.askedRecords_of_live {s : State} {e : CmdEntry} {x : Partition} (live : s.live? e.part.toNat = some x) :
    s.askedRecords e = x.records (paramAt e 0) e.ctx.toNat := by
  rw [State.askedRecords, live]
  rfl

/-- What `READ_PERF` asks for of a partition. -/
theorem State.perf_of_live {s : State} {e : CmdEntry} {x : Partition} (live : s.live? e.part.toNat = some x) :
    s.perf e = match paramAt e 0 with
      | 0 => if paramAt e 1 < x.size then some (x.die (paramAt e 1)).conflictBytes else none
      | 1 => (x.stackRims[paramAt e 1]?).map (fun k => (s.rim k).counterBytes)
      | _ => none := by
  rw [State.perf, live] <;> rfl

/-- Settles O48: each report by its selector, written and completed when it fits the buffer. -/
theorem reportsAreWritten : Obligations.ReportsAreWritten := by
  unfold Obligations.ReportsAreWritten
  intro s q c t e
  refine ⟨fun h => ?_, fun x h live => ?_, fun x h live => ?_, fun h fits => exec_attest_runs h fits⟩
  · intro bs
    exact ⟨fun known fits => exec_readStatus_runs h known fits, fun bad => exec_readStatus_refused h bad⟩
  · intro answers
    have asked : s.askedRecords q.entry = x.records (paramAt q.entry 0) q.entry.ctx.toNat := State.askedRecords_of_live live
    have run (rs : List (List Byte)) (known : paramAt q.entry 0 ≤ 2)
        (records : x.records (paramAt q.entry 0) q.entry.ctx.toNat = some rs) : answers rs :=
      fun fits => exec_readCounters_runs h known (asked.trans records) fits
    refine ⟨fun (own : paramAt q.entry 0 = 0) => ?_, fun v (one : paramAt q.entry 0 = 1) there => ?_,
      fun (all : paramAt q.entry 0 = 2) => ?_, fun (one : paramAt q.entry 0 = 1) gone => ?_⟩
    · exact run _ (by omega) (by rw [own]; rfl)
    · refine run _ (by omega) ?_
      rw [one]
      exact congrArg (Option.map (fun v : Context => [counterRecord q.entry.ctx.toNat v.counters])) there
    · exact run _ (by omega) (by rw [all]; rfl)
    · refine exec_readCounters_refused h ?_
      have none_ : s.askedRecords q.entry = none := by
        rw [asked, one]
        exact congrArg (Option.map (fun v : Context => [counterRecord q.entry.ctx.toNat v.counters])) gone
      rw [State.readCountersCheck, if_neg (by omega), none_]
  · intro answers
    have perf := State.perf_of_live live
    refine ⟨fun (zero : paramAt q.entry 0 = 0) inside => ?_, fun k (one : paramAt q.entry 0 = 1) there => ?_,
      fun (other : 2 ≤ paramAt q.entry 0) => ?_⟩
    · refine fun fits => exec_readPerf_runs h ?_ fits
      change paramAt q.entry 1 < x.size at inside
      rw [perf, zero]
      exact if_pos inside
    · refine fun fits => exec_readPerf_runs h ?_ fits
      rw [perf, one]
      exact congrArg (Option.map (fun k => (s.rim k).counterBytes)) there
    · refine exec_readPerf_none h ?_
      rw [perf]
      split
      next zero =>
        change paramAt q.entry 0 = 0 at zero
        omega
      next one =>
        change paramAt q.entry 0 = 1 at one
        omega
      next => rfl

end Sys2Proof.Machine
end

section
/-! PROOFS. What the end of a job makes of its partition, and the management of partitions and contexts. -/

namespace Sys2Proof.Machine

/-! ### The end of a job, of the partition alone -/

theorem Partition.context?_count (x : Partition) (c i n m : Nat) :
    (x.count c i n).context? m = if m = c then (x.context? c).map (fun v => { v with counters := addCounter v.counters i n })
      else x.context? m := by
  unfold Partition.count
  dsimp only
  cases found : Partition.context? { x with counters := addCounter x.counters i n } c with
  | none =>
    dsimp only
    split
    next same =>
      rw [same, show x.context? c = none from found]
      exact found
    next => rfl
  | some v =>
    dsimp only
    rw [Partition.context?_setContext, show x.context? c = some v from found]
    rfl

/-- A context whose commands are closed. -/
def Context.closed (v : Context) : Context := { v with steps := none, heldSeq := [] }

/-- A context whose job has ended. -/
def Context.ended (v : Context) (how : JobEnd) (clear : Bool) (now : Nat) : Context :=
  if v.pattern.isNone then v.closed
  else { v with
    counters := addCounter v.counters how.counter 1, steps := none, heldSeq := [], pattern := none, seq := .empty
    blockedSince := now, saved := if clear then none else v.saved }

/-- A partition after the job of context `c` has ended. -/
def Partition.jobEnded (x : Partition) (c : Nat) (how : JobEnd) (clear : Bool) (now : Nat) : Partition :=
  match x.context? c with
  | none => x
  | some v =>
    if v.pattern.isNone then x.setContext c v.closed
    else
      let y := (((x.count c how.counter 1).setContext c
        ({ v with counters := addCounter v.counters how.counter 1 } : Context).closed)).setContext c (v.ended how clear now)
      if x.running = some c then
        if clear then y.cleared else { y with run := { y.run with phase := .idle, holds := [] } }
      else y

/-- What stands of a partition through the end of a job: its place, its shares, and what concerns its teardown. -/
structure Partition.Same (x y : Partition) : Prop where
  running : y.running = x.running
  heldLeases : y.heldLeases = x.heldLeases
  destroyer : y.destroyer = x.destroyer
  teardown : y.teardown = x.teardown
  stackMask : y.stackMask = x.stackMask
  evicting : y.evicting = x.evicting

theorem Partition.Same.refl (x : Partition) : x.Same x := ⟨rfl, rfl, rfl, rfl, rfl, rfl⟩

theorem Partition.Same.trans {x y z : Partition} (h : x.Same y) (g : y.Same z) : x.Same z :=
  ⟨g.running.trans h.running, g.heldLeases.trans h.heldLeases, g.destroyer.trans h.destroyer, g.teardown.trans h.teardown,
    g.stackMask.trans h.stackMask, g.evicting.trans h.evicting⟩

theorem Partition.same_count (x : Partition) (c i n : Nat) : x.Same (x.count c i n) := by
  unfold Partition.count
  dsimp only
  split <;> exact ⟨rfl, rfl, rfl, rfl, rfl, rfl⟩

theorem Partition.same_setContext (x : Partition) (c : Nat) (v : Context) : x.Same (x.setContext c v) :=
  ⟨rfl, rfl, rfl, rfl, rfl, rfl⟩

theorem Partition.same_jobEnded (x : Partition) (c : Nat) (how : JobEnd) (clear : Bool) (now : Nat) :
    x.Same (x.jobEnded c how clear now) := by
  unfold Partition.jobEnded
  split
  · exact .refl x
  next v _ =>
    split
    · exact x.same_setContext c _
    · dsimp only
      have kept := ((x.same_count c how.counter 1).trans (Partition.same_setContext _ c
        ({ v with counters := addCounter v.counters how.counter 1 } : Context).closed)).trans
        (Partition.same_setContext _ c (v.ended how clear now))
      obtain ⟨a, b, d, e, f, g⟩ := kept
      split
      · split <;> exact ⟨a, b, d, e, f, g⟩
      · exact ⟨a, b, d, e, f, g⟩

/-- Each context after the end of a job: the job's own has ended, the others stand. -/
theorem Partition.context?_jobEnded (x : Partition) (c : Nat) (how : JobEnd) (clear : Bool) (now m : Nat) :
    (x.jobEnded c how clear now).context? m =
      if m = c then (x.context? c).map (·.ended how clear now) else x.context? m := by
  unfold Partition.jobEnded
  cases found : x.context? c with
  | none =>
    dsimp only
    split
    next same => rw [same, found]; rfl
    next => rfl
  | some v =>
    dsimp only
    by_cases idle : v.pattern.isNone = true
    · rw [if_pos idle, Partition.context?_setContext, Option.map_some, Context.ended, if_pos idle]
    · rw [if_neg idle]
      have contexts : (((x.count c how.counter 1).setContext c
          ({ v with counters := addCounter v.counters how.counter 1 } : Context).closed).setContext c
            (v.ended how clear now)).context? m = if m = c then some (v.ended how clear now) else x.context? m := by
        rw [Partition.context?_setContext, Partition.context?_setContext, Partition.context?_count]
        split <;> rfl
      rw [Option.map_some, ← contexts]
      split
      · split <;> rfl
      · rfl

/-- A context whose job has ended has no pattern and no step commanded. -/
theorem Context.ended_spec (v : Context) (how : JobEnd) (clear : Bool) (now : Nat) :
    (v.ended how clear now).pattern = none ∧ (v.ended how clear now).steps = none := by
  unfold Context.ended
  split
  next idle => exact ⟨Option.isNone_iff_eq_none.1 idle, rfl⟩
  next => exact ⟨rfl, rfl⟩

/-! ### The end of a job, of the state -/

theorem State.closeCommands_partition? (s : State) (p c : Nat) (st : Status) (detail r : Nat) :
    (s.closeCommands p c st detail).partition? r =
      if r = p then (s.partition? p).map (fun x => match x.context? c with
        | none => x
        | some v => x.setContext c v.closed) else s.partition? r := by
  unfold State.closeCommands
  cases found : s.partition? p with
  | none =>
    dsimp only
    split
    next same => rw [same, found]; rfl
    next => rfl
  | some x =>
    dsimp only
    cases there : x.context? c with
    | none =>
      dsimp only
      split
      next same => rw [same, found, Option.map_some, there]
      next => rfl
    | some v =>
      dsimp only
      rw [(State.hostOnly_finishAll _ _ _ _ _).partition?, (State.hostOnly_finishAll _ _ _ _ _).partition?]
      have set_ : (s.setPartition p (x.setContext c v.closed)).partition? r =
          if r = p then (some x).map (fun x => match x.context? c with
            | none => x
            | some v => x.setContext c v.closed) else s.partition? r := by
        rw [State.partition?_setPartition, Option.map_some, there]
      rw [← set_]
      split <;> rfl

theorem State.clearRims_partition? (s : State) (x : Partition) (r : Nat) : (s.clearRims x).partition? r = s.partition? r := by
  unfold State.clearRims
  generalize x.stackRims = l
  induction l generalizing s with
  | nil => rfl
  | cons k l ih => exact (ih _).trans rfl

/-- Where the running context's job ends the partition stands as its work is taken down. -/
theorem State.unload_partition? (s : State) (p c : Nat) (x : Partition) (clear : Bool) (r : Nat) :
    (if x.running = some c then
        if clear then ((s.dropAll p x).clearRims x).setPartition p x.cleared
        else (s.dropAll p x).setPartition p { x with run := { x.run with phase := .idle, holds := [] } }
      else s.setPartition p x).partition? r =
      if r = p then some (if x.running = some c then
        if clear then x.cleared else { x with run := { x.run with phase := .idle, holds := [] } } else x)
      else s.partition? r := by
  have dropped : (s.dropAll p x).partition? r = s.partition? r := (s.wiresOnly_dropAll p x).partition? r
  split
  · split
    · rw [State.partition?_setPartition, State.clearRims_partition?, dropped]
    · rw [State.partition?_setPartition, dropped]
  · rw [State.partition?_setPartition]

/-- The end of a job reaches its own partition alone. -/
theorem State.endJob_partition? (s : State) (p c : Nat) (how : JobEnd) (st : Status) (detail : Nat) (clear : Bool) (r : Nat) :
    (s.endJob p c how st detail clear).partition? r =
      if r = p then (s.partition? p).map (·.jobEnded c how clear s.time) else s.partition? r := by
  unfold State.endJob
  cases found : s.partition? p with
  | none =>
    dsimp only
    split
    next same => rw [same, found]; rfl
    next => rfl
  | some x =>
    dsimp only
    rw [Option.map_some]
    cases there : x.context? c with
    | none =>
      dsimp only
      split
      next same => rw [same, found, Partition.jobEnded, there]
      next => rfl
    | some v =>
      dsimp only
      by_cases idle : v.pattern.isNone = true
      · rw [if_pos idle, State.closeCommands_partition?, found, Option.map_some, there, Partition.jobEnded, there]
        dsimp only
        rw [if_pos idle]
      · rw [if_neg idle]
        have counted : (x.count c how.counter 1).context? c = some { v with counters := addCounter v.counters how.counter 1 } := by
          rw [Partition.context?_count, if_pos rfl, there]
          rfl
        have closed (r : Nat) : ((s.setPartition p (x.count c how.counter 1)).closeCommands p c st detail).partition? r =
            if r = p then some ((x.count c how.counter 1).setContext c
              ({ v with counters := addCounter v.counters how.counter 1 } : Context).closed) else s.partition? r := by
          rw [State.closeCommands_partition?, State.partition?_setPartition, State.partition?_setPartition, if_pos rfl,
            Option.map_some, counted]
          split <;> rfl
        have time : ((s.setPartition p (x.count c how.counter 1)).closeCommands p c st detail).time = s.time :=
          (congrArg State.time (State.jobsOnly_closeCommands _ p c st detail) :)
        generalize (s.setPartition p (x.count c how.counter 1)).closeCommands p c st detail = t at closed time ⊢
        rw [closed, if_pos rfl]
        dsimp only
        rw [Partition.context?_setContext, if_pos rfl]
        dsimp only
        have ended : ({ ({ v with counters := addCounter v.counters how.counter 1 } : Context).closed with
            pattern := none, seq := .empty, blockedSince := t.time, saved := if clear = true then none else v.saved } : Context) =
            v.ended how clear s.time := by
          rw [time, Context.ended, if_neg idle]
          rfl
        have unloaded := t.unload_partition? p c (((x.count c how.counter 1).setContext c
          ({ v with counters := addCounter v.counters how.counter 1 } : Context).closed).setContext c
            (v.ended how clear s.time)) clear r
        rw [← ended] at unloaded
        refine unloaded.trans ?_
        rw [ended]
        clear unloaded ended
        have running : (((x.count c how.counter 1).setContext c
            ({ v with counters := addCounter v.counters how.counter 1 } : Context).closed).setContext c
              (v.ended how clear s.time)).running = x.running :=
          (x.same_count c how.counter 1).running
        by_cases here : r = p
        · rw [if_pos here, if_pos here, Partition.jobEnded, there]
          refine congrArg some ((if_congr (Eq.congr_left running) rfl rfl).trans ?_)
          exact (if_neg idle).symm
        · rw [if_neg here, if_neg here, closed, if_neg here]

end Sys2Proof.Machine
end

section
/-! PROOFS. Partitions and contexts: creation, destruction, the context window. -/

namespace Sys2Proof.Machine

/-! ### Partitions -/

theorem State.live?_eq_some {s : State} {p : Nat} {x : Partition} (live : s.live? p = some x) :
    s.partition? p = some x ∧ x.teardown = false := by
  obtain ⟨held, standing⟩ := Option.filter_eq_some_iff.1 live
  exact ⟨held, by simpa using standing⟩

/-- The rims that a creation assigns: every one of the list is empty under its new key. -/
theorem State.assignRims_rim (l : List (Nat × Nat)) (n : Nat) (s : State) (k : Nat) (listed : k ∈ l.map Prod.fst) :
    ((l.foldl (fun t e => t.setRim e.1 ((t.rim e.1).assigned (n + e.2))) s).rim k).stack = [] ∧
      ((l.foldl (fun t e => t.setRim e.1 ((t.rim e.1).assigned (n + e.2))) s).rim k).cache = [] := by
  induction l using List.reverseRecOn with
  | nil => exact absurd listed List.not_mem_nil
  | append_singleton l e ih =>
    rw [List.foldl_append, List.foldl_cons, List.foldl_nil, State.rim_setRim]
    split
    · exact ⟨rfl, rfl⟩
    next other =>
      rw [List.map_append, List.mem_append] at listed
      exact ih (listed.resolve_right (fun last => other (by simpa using last)))

theorem State.assignRims_partitions (l : List (Nat × Nat)) (n : Nat) (s : State) :
    (l.foldl (fun t e => t.setRim e.1 ((t.rim e.1).assigned (n + e.2))) s).partitions = s.partitions := by
  induction l generalizing s with
  | nil => rfl
  | cons e l ih => exact (ih _).trans rfl

theorem partitionCreate_completes {s : State} {q : Request} {c : Picked} (accepts : Accepts s q 0x0010 c)
    (fits : s.createCheck q.entry = none) :
    exec (.partitionCreate q) s = .next (State.done ((s.unpick (ringNumber q.ring) c).createPartition
      (NewPart.ofEntry s.part q.entry)) q 0x0010 .ok [BitVec.ofNat 32 s.freePartition]) := by
  change execPartitionCreate q s = _
  rw [execPartitionCreate, fits, accepts.serve_runs]
  rfl

theorem State.createPartition_partition? (s : State) (h : NewPart) (p : Nat) :
    (s.createPartition h).partition? p =
      if p = s.freePartition then some (h.partition s.time s.keyNumber) else s.partition? p := by
  rw [← State.partition?_setPartition]
  exact congrArg (fun l => Sparse.get? l p) (State.assignRims_partitions _ _ _)

theorem State.createPartition_rim (s : State) (h : NewPart) (k : Nat)
    (owned : k ∈ (h.partition s.time s.keyNumber).stackRims) :
    ((s.createPartition h).rim k).stack = [] ∧ ((s.createPartition h).rim k).cache = [] :=
  State.assignRims_rim _ (s.keyNumber + 2) _ k (by rwa [List.zipIdx_map_fst])

/-! ### The destruction of a partition -/

/-- The commands of a ring were picked up as what they are. -/
theorem State.picked?_spec {s : State} {q : Request} {opcode : Nat} {c : Picked} (picked : s.picked? q opcode = some c) :
    c.opcode = opcode ∧ c.entry = q.entry := by
  have named := List.find?_some picked
  simpa using named

/-- Every context of a partition whose jobs are killed has none. -/
theorem State.killJobs_fold (p : Nat) (st : Status) (l : List (Nat × Context)) (s : State) (x : Partition)
    (there : s.partition? p = some x)
    (open_ : ∀ m v, x.context? m = some v → v.pattern = none ∧ v.steps = none ∨ m ∈ l.map Prod.fst) :
    ∃ y, (l.foldl (fun t e => t.endJob p e.1 .killed st 0 false) s).partition? p = some y ∧ x.Same y ∧
      ∀ m v, y.context? m = some v → v.pattern = none ∧ v.steps = none := by
  induction l generalizing s x with
  | nil => exact ⟨x, there, .refl x, fun m v found => (open_ m v found).resolve_right List.not_mem_nil⟩
  | cons e l ih =>
    have next_ : (s.endJob p e.1 .killed st 0 false).partition? p = some (x.jobEnded e.1 .killed false s.time) := by
      rw [State.endJob_partition?, if_pos rfl, there, Option.map_some]
    obtain ⟨y, stands, same, closed⟩ := ih _ _ next_ (fun m v found => by
      rw [Partition.context?_jobEnded] at found
      split at found
      · obtain ⟨w, _, rfl⟩ := Option.map_eq_some_iff.1 found
        exact .inl (w.ended_spec .killed false s.time)
      next other =>
        exact (open_ m v found).imp_right (fun listed => (List.mem_cons.1 listed).resolve_left other))
    exact ⟨y, stands, (x.same_jobEnded e.1 .killed false s.time).trans same, closed⟩

theorem State.killJobs_other (p r : Nat) (other : r ≠ p) (st : Status) (l : List (Nat × Context)) (s : State) :
    (l.foldl (fun t e => t.endJob p e.1 .killed st 0 false) s).partition? r = s.partition? r := by
  induction l generalizing s with
  | nil => rfl
  | cons e l ih => exact (ih _).trans ((State.endJob_partition? s p e.1 .killed st 0 false r).trans (if_neg other))

/-- A partition that is stopped holds its leases to the end of its teardown, and runs no job. -/
theorem State.stopPartition_spec (s : State) (p : Nat) (x : Partition) (st : Status) (by_ : Option (Nat × Nat)) :
    (∃ y, (s.stopPartition p x st by_).partition? p = some y ∧ y.heldLeases = x.patterns.flatMap (·.leases) ∧
      ∀ m v, y.context? m = some v → v.pattern = none ∧ v.steps = none) ∧
    ∀ r, r ≠ p → (s.stopPartition p x st by_).partition? r = s.partition? r := by
  have ended (r : Nat) : (s.stopPartition p x st by_).partition? r = ((s.holdLeases p x).killJobs p x st).partition? r :=
    (State.hostOnly_endCommands _ p st by_).partition? r
  refine ⟨?_, fun r other => ?_⟩
  · obtain ⟨y, there, same, closed⟩ := State.killJobs_fold p st x.contexts (s.holdLeases p x)
      { x with heldLeases := x.patterns.flatMap (·.leases) }
      ((State.partition?_setPartition s p p _).trans (if_pos rfl))
      (fun m v found => .inr (List.mem_map.2 ⟨(m, v), Sparse.mem_of_get?_eq_some found, rfl⟩))
    exact ⟨y, (ended p).trans there, same.heldLeases, closed⟩
  · rw [ended, State.killJobs, State.killJobs_other p r other]
    exact (State.partition?_setPartition s p r _).trans (if_neg other)

/-- The teardown that begins: the partition is in it, and its own wire is raised. -/
theorem State.beginTeardown_spec {s : State} {p : Nat} {x : Partition} (there : s.partition? p = some x) :
    (∀ r, (s.beginTeardown p).partition? r = if r = p then some { x with teardown := true } else s.partition? r) ∧
    ((s.beginTeardown p).wire p).sources.contains (.teardown p) = true := by
  unfold State.beginTeardown
  rw [there]
  dsimp only
  refine ⟨fun r => ?_, ?_⟩
  · rw [(State.wiresOnly_raise _ p _).partition?, State.partition?_setPartition, (s.wiresOnly_dropAll p x).partition?]
  · unfold State.raise
    dsimp only
    split
    next raised =>
      rw [State.wire_setWire, if_pos rfl]
      exact raised
    next =>
      rw [State.wire_setWire, if_pos rfl]
      exact List.contains_iff_mem.2 (List.mem_append_right _ (List.mem_singleton.2 rfl))

theorem partitionDestroy_runs {s : State} {q : Request} {c : Picked} (accepts : Accepts s q 0x0011 c) {x : Partition}
    (live : s.live? q.entry.part.toNat = some x) (fits : 96 * (1 + x.contexts.length) ≤ q.entry.len.toNat) :
    exec (.partitionDestroy q) s =
      .next ((s.unpick (ringNumber q.ring) c).destroyFor q c q.entry.part.toNat x) := by
  have check : s.destroyCheck q.entry = none := by
    rw [State.destroyCheck, live]
    exact refuseIf_false (decide_eq_false (Nat.not_lt.2 fits)) _
  have there : (s.unpick (ringNumber q.ring) c).partition? q.entry.part.toNat = some x := (State.live?_eq_some live).1
  change execPartitionDestroy q s = _
  rw [execPartitionDestroy, check, accepts.serve_runs, there]

theorem State.destroyFor_spec (s : State) (q : Request) (c : Picked) (p : Nat) (x : Partition) :
    ∃ y, (s.destroyFor q c p x).partition? p = some y ∧ y.teardown = true ∧
      y.destroyer = some (ringNumber q.ring, q.entry) ∧
      ⟨c.opcode, c.entry, c.order, .destroy⟩ ∈ ((s.destroyFor q c p x).ring (ringNumber q.ring)).active ∧
      y.heldLeases = x.patterns.flatMap (·.leases) ∧
      (∀ n v, y.context? n = some v → v.pattern = none ∧ v.steps = none) ∧
      ((s.destroyFor q c p x).wire p).sources.contains (.teardown p) = true ∧
      ∀ r, r ≠ p → (s.destroyFor q c p x).partition? r = s.partition? r := by
  obtain ⟨⟨y, there, leases, closed⟩, others⟩ := s.stopPartition_spec p x .killed (some (ringNumber q.ring, c.order))
  unfold State.destroyFor
  dsimp only
  rw [there]
  dsimp only
  generalize s.stopPartition p x .killed (some (ringNumber q.ring, c.order)) = t at there others
  obtain ⟨stands, raised⟩ := State.beginTeardown_spec (s := t.setPartition p { y with
      destroyer := some (ringNumber q.ring, q.entry) }) ((t.partition?_setPartition p p _).trans (if_pos rfl))
  refine ⟨_, (stands p).trans (if_pos rfl), rfl, rfl, ?_, leases, closed, raised, fun r other => ?_⟩
  · rw [State.goesOn, State.ring_setRing, if_pos rfl]
    exact List.mem_append_right _ (List.mem_singleton.2 rfl)
  · exact (stands r).trans ((if_neg other).trans (((t.partition?_setPartition p r _).trans (if_neg other)).trans
      (others r other)))

/-! ### Contexts -/

theorem contextCreate_runs {s : State} {q : Request} {c : Picked} (accepts : Accepts s q 0x0100 c) {x : Partition}
    (live : s.live? q.entry.part.toNat = some x) (room : x.contexts.length < 64)
    (able : x.freeSlots = [] → s.features.getLsbD 9 = true) :
    exec (.contextCreate q) s = .next (State.done ((s.unpick (ringNumber q.ring) c).setPartition q.entry.part.toNat
      (x.addContext s.time)) q 0x0100 .ok [BitVec.ofNat 32 x.freeContext, if x.freeSlots.isEmpty then 0 else 1]) := by
  have check : s.contextCreateCheck q.entry = none := by
    rw [State.contextCreateCheck, live]
    dsimp only
    rw [if_neg (by omega)]
    refine refuseIf_false ?_ _
    cases slots : x.freeSlots with
    | nil => simp [able slots]
    | cons j rest => rfl
  have there : (s.unpick (ringNumber q.ring) c).partition? q.entry.part.toNat = some x := (State.live?_eq_some live).1
  change execContextCreate q s = _
  rw [execContextCreate, check]
  rw [accepts.serve_runs, there]
  rfl

theorem contextCreate_refused {s : State} {q : Request} {c : Picked} (accepts : Accepts s q 0x0100 c) {x : Partition}
    (live : s.live? q.entry.part.toNat = some x) (full : 64 ≤ x.contexts.length) :
    exec (.contextCreate q) s = .next (s.answer q 0x0100 c .ctxLimit 0 []) := by
  have check : s.contextCreateCheck q.entry = some .ctxLimit := by
    rw [State.contextCreateCheck, live]
    exact if_pos full
  change execContextCreate q s = _
  rw [execContextCreate, check]
  exact accepts.serve_refused _ _

/-- A context added where a pair is free is resident, and runs where none runs. -/
theorem Partition.addContext_resident {x : Partition} {j : Nat} {rest : List Nat} (slots : x.freeSlots = j :: rest) (now : Nat) :
    (x.addContext now).running = (match x.running with | some o => some o | none => some x.freeContext) ∧
    ∀ m, (x.addContext now).context? m = if m = x.freeContext then some (.created (.resident j) now) else x.context? m := by
  rw [Partition.addContext, slots]
  dsimp only
  cases runs : x.running with
  | none =>
    rw [if_pos (by rw [show (x.setContext x.freeContext (.created (.resident j) now)).running = none from runs]; rfl)]
    exact ⟨rfl, fun m => Partition.context?_setContext x _ m _⟩
  | some o =>
    rw [if_neg (by rw [show (x.setContext x.freeContext (.created (.resident j) now)).running = some o from runs]; exact Bool.false_ne_true)]
    exact ⟨runs, fun m => Partition.context?_setContext x _ m _⟩

/-- A context added where no pair is free is out of the stacks. -/
theorem Partition.addContext_out {x : Partition} (slots : x.freeSlots = []) (now : Nat) :
    (x.addContext now).running = x.running ∧ (x.addContext now).context? x.freeContext = some (.created (.out none) now) := by
  rw [Partition.addContext, slots]
  exact ⟨rfl, (Partition.context?_setContext x _ _ _).trans (if_pos rfl)⟩

theorem contextDestroy_runs {s : State} {q : Request} {c : Picked} (accepts : Accepts s q 0x0101 c)
    (fits : 96 ≤ q.entry.len.toNat) :
    exec (.contextDestroy q) s = .next (State.done ((s.unpick (ringNumber q.ring) c).destroyContext q.entry
      q.entry.part.toNat q.entry.ctx.toNat) q 0x0101 .ok []) := by
  change execContextDestroy q s = _
  rw [execContextDestroy, refuseIf_false (decide_eq_false (Nat.not_lt.2 fits)), accepts.serve_runs]

theorem MTile.clearedKeep_idem (x : MTile) : x.clearedKeep.clearedKeep = x.clearedKeep := rfl

/-- A partition that is cleared stands between two rounds, its dies zeroed but for the activity levels of their M-tiles. -/
theorem Partition.cleared_spec (x : Partition) : x.cleared.run.phase = .idle ∧
    ∀ d ∈ x.cleared.dies, d.2 = { Die.zeroed with m := d.2.m } ∧ ∀ a ∈ d.2.m, a.2 = a.2.clearedKeep := by
  refine ⟨rfl, fun d listed => ?_⟩
  obtain ⟨e, _, rfl⟩ := List.mem_map.1 (show d ∈ x.dies.map (fun e => (e.1, e.2.clearedKeep)) from listed)
  refine ⟨rfl, fun a level => ?_⟩
  obtain ⟨b, _, rfl⟩ := List.mem_map.1
    (show a ∈ (e.2.m.filter (fun b => b.2.level != 0)).map (fun b => (b.1, b.2.clearedKeep)) from level)
  exact b.2.clearedKeep_idem.symm

/-- A partition without a context holds it no more, and where it ran, none runs. -/
theorem Partition.dropContext_spec (x : Partition) (c : Nat) : (x.dropContext c).context? c = none ∧
    (x.running = some c → (x.dropContext c).running = none ∧ (x.dropContext c).run.phase = .idle ∧
      ∀ d ∈ (x.dropContext c).dies, d.2 = { Die.zeroed with m := d.2.m } ∧ ∀ a ∈ d.2.m, a.2 = a.2.clearedKeep) := by
  have erased : Sparse.get? (Sparse.erase x.contexts c) c = none := (Sparse.get?_erase x.contexts c c).trans (if_pos rfl)
  unfold Partition.dropContext
  dsimp only
  by_cases runs : x.running = some c
  · rw [if_pos runs]
    exact ⟨erased, fun _ => ⟨rfl, Partition.cleared_spec _⟩⟩
  · rw [if_neg runs]
    exact ⟨erased, fun ran => absurd ran runs⟩

/-- The destruction of a context reaches its own partition alone. -/
theorem State.destroyContext_partition? (s : State) (e : CmdEntry) (p c r : Nat) :
    (s.destroyContext e p c).partition? r =
      if r = p then (s.partition? p).map (fun x => (x.jobEnded c .killed true s.time).dropContext c) else s.partition? r := by
  unfold State.destroyContext
  dsimp only
  have ended (r : Nat) : ((s.endJob p c .killed .killed 0 true).endActive .killed
      (fun _ o a => namesContext o && a.part == e.part && a.ctx == e.ctx)).partition? r =
      if r = p then (s.partition? p).map (·.jobEnded c .killed true s.time) else s.partition? r :=
    ((State.hostOnly_endActive _ .killed _).partition? r).trans (s.endJob_partition? p c .killed .killed 0 true r)
  generalize (s.endJob p c .killed .killed 0 true).endActive .killed
    (fun _ o a => namesContext o && a.part == e.part && a.ctx == e.ctx) = t at ended
  rw [ended p, if_pos rfl]
  cases there : s.partition? p with
  | none =>
    dsimp only [Option.map_none]
    rw [ended r, there, Option.map_none]
  | some x =>
    dsimp only [Option.map_some]
    rw [State.partition?_setPartition]
    by_cases same : r = p
    · rw [if_pos same, if_pos same]
    · rw [if_neg same, if_neg same]
      split
      · exact (State.clearRims_partition? _ _ r).trans ((ended r).trans (if_neg same))
      · exact (ended r).trans (if_neg same)

theorem contextWindow_refused {s : State} {q : Request} {c : Picked} (accepts : Accepts s q 0x0102 c) {x : Partition}
    (live : s.live? q.entry.part.toNat = some x) (base : paramPair q.entry 0 % 4096 = 0)
    (len : paramPair q.entry 2 % 4096 = 0)
    (outside : ∃ a ∈ x.extents, a.1 < paramPair q.entry 0 ∨ paramPair q.entry 0 + paramPair q.entry 2 < a.2) :
    exec (.contextWindow q) s = .next (s.answer q 0x0102 c .ctxWindow 0 []) := by
  obtain ⟨a, listed, beyond⟩ := outside
  have check : s.windowCheck q.entry = some .ctxWindow := by
    rw [State.windowCheck]
    rw [if_neg (by simp [base, len]), live]
    refine refuseIf_true ?_ _
    rw [Bool.not_eq_true', List.all_eq_false]
    refine ⟨a, listed, ?_⟩
    simp only [Bool.and_eq_true, decide_eq_true_eq, not_and, Nat.not_le]
    omega
  change execContextWindow q s = _
  rw [execContextWindow, check]
  exact accepts.serve_refused _ _

theorem contextWindow_completes {s : State} {q : Request} {c : Picked} (accepts : Accepts s q 0x0102 c) {x : Partition}
    (live : s.live? q.entry.part.toNat = some x) (base : paramPair q.entry 0 % 4096 = 0)
    (len : paramPair q.entry 2 % 4096 = 0)
    (inside : ∀ a ∈ x.extents, paramPair q.entry 0 ≤ a.1 ∧ a.2 ≤ paramPair q.entry 0 + paramPair q.entry 2) :
    exec (.contextWindow q) s = .next (State.done ((s.unpick (ringNumber q.ring) c).setPartition q.entry.part.toNat
      (x.withWindow (paramPair q.entry 0) (paramPair q.entry 2))) q 0x0102 .ok []) := by
  have check : s.windowCheck q.entry = none := by
    rw [State.windowCheck]
    rw [if_neg (by simp [base, len]), live]
    refine refuseIf_false ?_ _
    rw [Bool.not_eq_false', List.all_eq_true]
    intro a listed
    simpa using inside a listed
  have there : (s.unpick (ringNumber q.ring) c).partition? q.entry.part.toNat = some x := (State.live?_eq_some live).1
  change execContextWindow q s = _
  rw [execContextWindow, check]
  rw [accepts.serve_runs, there]

theorem Partition.withWindow_eq (x : Partition) (base len : Nat) :
    x.withWindow base len = { x with
      window := some (base, len), windowFullPosted := x.windowFullPosted &&
        (match x.window with | some (_, old) => decide (len ≤ old) | none => false) } := by
  unfold Partition.withWindow
  cases x.window with
  | none => rfl
  | some w =>
    dsimp only
    rw [← decide_not, decide_eq_decide.2 Nat.not_lt]

/-- Settles O49, one command after the other: a creation through the partition and the rims that it assigns, a destruction through
the end of every job, a context through the place that its partition has for it. -/
theorem partitionsAndContextsAreManaged : Obligations.PartitionsAndContextsAreManaged := by
  unfold Obligations.PartitionsAndContextsAreManaged
  intro s q c e p
  refine ⟨fun accepts fits => ?_, fun st accepts refused => ?_, fun x accepts live fits => ?_, fun x accepts live => ?_,
    fun x accepts live fits => ?_, fun x accepts live => ?_⟩
  · refine ⟨_, (NewPart.ofEntry s.part e).partition s.time s.keyNumber, partitionCreate_completes accepts fits,
      (State.createPartition_partition? _ _ _).trans (if_pos rfl), rfl, rfl, rfl, rfl, rfl, rfl, rfl, rfl, rfl, rfl, rfl, rfl,
      fun r other => ?_, fun k owned => ?_⟩
    · exact (State.createPartition_partition? _ _ r).trans (if_neg other)
    · exact State.createPartition_rim _ _ k owned
  · change execPartitionCreate q s = _
    rw [execPartitionCreate, refused]
    exact accepts.serve_refused _ _
  · obtain ⟨y, there, torn, by_, active, leases, closed, raised, others⟩ :=
      (s.unpick (ringNumber q.ring) c).destroyFor_spec q c p x
    obtain ⟨opcode, entry⟩ := State.picked?_spec accepts.picked
    rw [opcode, entry] at active
    exact ⟨_, y, partitionDestroy_runs accepts live fits, there, torn, by_, active, leases, closed, raised, others⟩
  · dsimp only
    refine ⟨fun full => contextCreate_refused accepts live full, fun j rest room slots => ?_, fun room slots able => ?_⟩
    · obtain ⟨running, contexts⟩ := Partition.addContext_resident slots s.time
      have completes := contextCreate_runs accepts live room (fun none_ => absurd (slots.symm.trans none_) (List.cons_ne_nil j rest))
      rw [slots] at completes
      exact ⟨_, _, completes, (State.partition?_setPartition _ _ _ _).trans (if_pos rfl), (contexts _).trans (if_pos rfl), running,
        fun m other => (contexts m).trans (if_neg other)⟩
    · obtain ⟨running, added⟩ := Partition.addContext_out slots s.time
      have completes := contextCreate_runs accepts live room (fun _ => able)
      rw [slots] at completes
      exact ⟨_, _, completes, (State.partition?_setPartition _ _ _ _).trans (if_pos rfl), added, running⟩
  · have there : (s.unpick (ringNumber q.ring) c).partition? p = some x := (State.live?_eq_some live).1
    have destroyed (r : Nat) := State.destroyContext_partition? (s.unpick (ringNumber q.ring) c) e p e.ctx.toNat r
    obtain ⟨gone, cleared⟩ := Partition.dropContext_spec
      (x.jobEnded e.ctx.toNat .killed true (s.unpick (ringNumber q.ring) c).time) e.ctx.toNat
    refine ⟨_, _, contextDestroy_runs accepts fits, ?_, gone, fun runs => cleared ?_, fun r other => ?_⟩
    · rw [destroyed p, if_pos rfl, there, Option.map_some]
    · exact (x.same_jobEnded _ _ _ _).running.trans runs
    · exact (destroyed r).trans (if_neg other)
  · dsimp only
    refine ⟨fun base len inside => ⟨_, contextWindow_completes accepts live base len inside, ?_⟩,
      fun base len outside => contextWindow_refused accepts live base len outside⟩
    rw [State.partition?_setPartition, if_pos rfl, Partition.withWindow_eq] <;> rfl

end Sys2Proof.Machine
end

section
/-! PROOFS. The span of a context, and the commands of a job. -/

namespace Sys2Proof.Machine

/-! ### What accesses to a span leave -/

/-- `w` is `v` but for its counters and the chunks that its writes have touched. -/
def Context.Counted (v w : Context) : Prop := w = { v with counters := w.counters, chunks := w.chunks }

theorem Context.Counted.refl (v : Context) : v.Counted v := rfl

theorem Context.Counted.trans {u v w : Context} (h : u.Counted v) (g : v.Counted w) : u.Counted w := by
  rw [Context.Counted, g, h]

/-- `y` is `x` but for counters, of its own and of its contexts, and for the chunks that its contexts have touched. -/
structure Partition.Counted (x y : Partition) : Prop where
  frame : y = { x with counters := y.counters, contexts := y.contexts }
  contexts : ∀ m v, x.context? m = some v → ∃ w, y.context? m = some w ∧ v.Counted w

theorem Partition.Counted.refl (x : Partition) : x.Counted x := ⟨rfl, fun _ v found => ⟨v, found, .refl v⟩⟩

theorem Partition.Counted.trans {x y z : Partition} (h : x.Counted y) (g : y.Counted z) : x.Counted z := by
  refine ⟨by rw [g.frame, h.frame], fun m v found => ?_⟩
  obtain ⟨w, found', counted⟩ := h.contexts m v found
  obtain ⟨u, found'', counted'⟩ := g.contexts m w found'
  exact ⟨u, found'', counted.trans counted'⟩

theorem Partition.counted_count (x : Partition) (c i n : Nat) : x.Counted (x.count c i n) := by
  refine ⟨?_, fun m v found => ?_⟩
  · unfold Partition.count
    dsimp only
    split <;> rfl
  · rw [Partition.context?_count]
    split
    next same =>
      rw [← same, found]
      exact ⟨_, rfl, rfl⟩
    next => exact ⟨v, found, .refl v⟩

theorem Partition.counted_setContext {x : Partition} {c : Nat} {v w : Context} (there : x.context? c = some v)
    (counted : v.Counted w) : x.Counted (x.setContext c w) := by
  refine ⟨rfl, fun m u found => ?_⟩
  rw [Partition.context?_setContext]
  split
  next same =>
    rw [same, there] at found
    exact ⟨w, rfl, Option.some.inj found ▸ counted⟩
  next => exact ⟨u, found, .refl u⟩

/-- `t` is `s` but for the rims, the free values taken, and the counters and touched chunks of partition `p`. -/
structure State.Counted (p : Nat) (s t : State) : Prop where
  frame : t = { s with partitions := t.partitions, rims := t.rims, fresh := t.fresh }
  others : ∀ r, r ≠ p → t.partition? r = s.partition? r
  own : ∀ x, s.partition? p = some x → ∃ y, t.partition? p = some y ∧ x.Counted y

theorem State.Counted.refl (p : Nat) (s : State) : State.Counted p s s :=
  ⟨rfl, fun _ _ => rfl, fun x found => ⟨x, found, .refl x⟩⟩

theorem State.Counted.trans {p : Nat} {s t u : State} (h : State.Counted p s t) (g : State.Counted p t u) :
    State.Counted p s u := by
  refine ⟨by rw [g.frame, h.frame], fun r other => (g.others r other).trans (h.others r other), fun x found => ?_⟩
  obtain ⟨y, found', counted⟩ := h.own x found
  obtain ⟨z, found'', counted'⟩ := g.own y found'
  exact ⟨z, found'', counted.trans counted'⟩

theorem State.Counted.foldl {α : Type} {p : Nat} {f : State → α → State} (step : ∀ t a, State.Counted p t (f t a)) (l : List α)
    (s : State) : State.Counted p s (l.foldl f s) := by
  induction l generalizing s with
  | nil => exact .refl p s
  | cons a l ih => exact (step s a).trans (ih (f s a))

theorem State.counted_setPartition {s : State} {p : Nat} {x y : Partition} (found : s.partition? p = some x) (counted : x.Counted y) :
    State.Counted p s (s.setPartition p y) := by
  refine ⟨rfl, fun r other => (State.partition?_setPartition s p r y).trans (if_neg other), fun z found' => ?_⟩
  rw [found] at found'
  exact ⟨y, (State.partition?_setPartition s p p y).trans (if_pos rfl), Option.some.inj found' ▸ counted⟩

theorem State.counted_setRim (s : State) (p k : Nat) (r : Rim) : State.Counted p s (s.setRim k r) :=
  ⟨rfl, fun _ _ => rfl, fun x found => ⟨x, found, .refl x⟩⟩

theorem State.counted_freeBytes (s : State) (p n : Nat) : State.Counted p s (s.freeBytes n).2 :=
  ⟨rfl, fun _ _ => rfl, fun x found => ⟨x, found, .refl x⟩⟩

theorem State.counted_countHost (s : State) (p c n : Nat) : State.Counted p s (s.countHost p c n) := by
  unfold State.countHost
  split
  next x found => exact State.counted_setPartition found (x.counted_count c _ n)
  next => exact .refl p s

theorem Context.counted_touch (v : Context) (i u : Nat) : v.Counted (v.touch i u) := by
  unfold Context.touch
  dsimp only
  split <;> rfl

theorem State.counted_spanUnit (s : State) (p c i u : Nat) : State.Counted p s (s.spanUnit p c i u).2 := by
  unfold State.spanUnit
  split
  · exact .refl p s
  next x found =>
    split
    · exact .refl p s
    · split
      · exact .refl p s
      · split
        · exact s.counted_freeBytes p 64
        · exact (s.counted_setRim p _ _).trans (State.counted_setPartition found (x.counted_count c _ 64))

theorem State.counted_writeSpanUnit (s : State) (p c i u : Nat) (bs : List Byte) : State.Counted p s (s.writeSpanUnit p c i u bs) := by
  unfold State.writeSpanUnit
  split
  · exact .refl p s
  next x found =>
    split
    · exact .refl p s
    next v there =>
      split
      · exact .refl p s
      · split
        · exact .refl p s
        · split
          · exact .refl p s
          · exact (s.counted_setRim p _ _).trans (State.counted_setPartition found
              ((Partition.counted_setContext there (v.counted_touch i u)).trans (Partition.counted_count _ c _ 64)))

theorem State.counted_spanBytes (s : State) (p c a n : Nat) : State.Counted p s (s.spanBytes p c a n).2 := by
  unfold State.spanBytes foldRange
  dsimp only
  have step (l : List Nat) (acc : List Byte × State) : State.Counted p acc.2 (l.foldl (fun acc i =>
      (acc.1 ++ (acc.2.spanUnit p c ((a / 64 + i) / stackUnits) ((a / 64 + i) % stackUnits)).1,
        (acc.2.spanUnit p c ((a / 64 + i) / stackUnits) ((a / 64 + i) % stackUnits)).2)) acc).2 := by
    induction l generalizing acc with
    | nil => exact .refl p acc.2
    | cons i l ih =>
      rw [List.foldl_cons]
      refine State.Counted.trans ?_ (ih _)
      exact acc.2.counted_spanUnit p c _ _
  exact step _ ([], s)

theorem State.counted_writeSpanBytes (s : State) (p c a : Nat) (bs : List Byte) :
    State.Counted p s (s.writeSpanBytes p c a bs) := by
  unfold State.writeSpanBytes foldRange
  dsimp only
  refine State.Counted.foldl (fun t i => ?_) _ s
  split
  · exact t.counted_writeSpanUnit p c _ _ _
  · exact (t.counted_spanUnit p c _ _).trans (State.counted_writeSpanUnit _ p c _ _ _)

theorem State.counted_clearLists (s : State) (p c : Nat) (g : SeqConfig) (n : Nat) : State.Counted p s (s.clearLists p c g n) := by
  unfold State.clearLists foldRange
  refine State.Counted.foldl (fun t i => ?_) _ s
  exact (t.counted_writeSpanBytes p c _ _).trans (State.counted_writeSpanBytes _ p c _ _)

/-! ### The load of a pattern -/

/-- The rims, the dies and the context of a load, without the list areas. -/
def State.placeDies (s : State) (p c : Nat) (x : Partition) (v : Context) (q : Pattern) : State :=
  if x.running = some c then
    (x.stackRims.foldl (fun t k => t.setRim k { (t.rim k).complete with ctx := (t.rim k).ctx.load }) s).setPartition p
      (((x.load q).setContext c (v.load q)).count c jobsStarted 1)
  else
    s.setPartition p ((x.setContext c { v.load q with saved := some ((v.saved.getD Saved.zeroed).load q x.size) }).count c
      jobsStarted 1)

theorem State.placePattern_eq (s : State) (p c : Nat) (x : Partition) (v : Context) (q : Pattern) :
    s.placePattern p c x v q = match (q.die 0).seqCfg with
      | some g => (s.placeDies p c x v q).clearLists p c g x.stackRims.length
      | none => s.placeDies p c x v q := rfl

theorem State.rimsOnly_loadRims (l : List Nat) (s : State) :
    l.foldl (fun t k => t.setRim k { (t.rim k).complete with ctx := (t.rim k).ctx.load }) s =
      { s with rims := (l.foldl (fun t k => t.setRim k { (t.rim k).complete with ctx := (t.rim k).ctx.load }) s).rims } := by
  induction l generalizing s with
  | nil => rfl
  | cons k l ih => exact ih _

theorem State.placeDies_spec (s : State) (p n : Nat) (x : Partition) (v : Context) (q : Pattern) :
    (∃ y w saved, (s.placeDies p n x v q).partition? p = some y ∧ y.context? n = some w ∧
      Context.Counted { v.load q with saved := saved } w) ∧
    (∀ r, r ≠ p → (s.placeDies p n x v q).partition? r = s.partition? r) ∧ (s.placeDies p n x v q).rings = s.rings := by
  unfold State.placeDies
  split
  · have stands := State.rimsOnly_loadRims x.stackRims s
    generalize x.stackRims.foldl (fun t k => t.setRim k { (t.rim k).complete with ctx := (t.rim k).ctx.load }) s = t at stands
    obtain ⟨w, context, counted⟩ := (((x.load q).setContext n (v.load q)).counted_count n jobsStarted 1).contexts n _
      ((Partition.context?_setContext (x.load q) n n (v.load q)).trans (if_pos rfl))
    exact ⟨⟨_, w, (v.load q).saved, (State.partition?_setPartition t p p _).trans (if_pos rfl), context, counted⟩,
      fun r other => ((State.partition?_setPartition t p r _).trans (if_neg other)).trans
        (congrArg (fun u : State => u.partition? r) stands :), (congrArg State.rings stands :)⟩
  · obtain ⟨w, context, counted⟩ := (Partition.counted_count (x.setContext n { v.load q with
      saved := some ((v.saved.getD Saved.zeroed).load q x.size) }) n jobsStarted 1).contexts n _
      ((Partition.context?_setContext x n n _).trans (if_pos rfl))
    exact ⟨⟨_, w, _, (State.partition?_setPartition s p p _).trans (if_pos rfl), context, counted⟩,
      fun r other => (State.partition?_setPartition s p r _).trans (if_neg other), rfl⟩

/-- A loaded pattern stands in its context at its first step; no other partition and no ring changes. -/
theorem State.placePattern_spec (s : State) (p n : Nat) (x : Partition) (v : Context) (q : Pattern) :
    (∃ y w saved, (s.placePattern p n x v q).partition? p = some y ∧ y.context? n = some w ∧
      Context.Counted { v.load q with saved := saved } w) ∧
    (∀ r, r ≠ p → (s.placePattern p n x v q).partition? r = s.partition? r) ∧ (s.placePattern p n x v q).rings = s.rings := by
  rw [State.placePattern_eq]
  obtain ⟨⟨y, w, saved, there, context, counted⟩, others, rings⟩ := s.placeDies_spec p n x v q
  split
  next g _ =>
    have cleared := (s.placeDies p n x v q).counted_clearLists p n g x.stackRims.length
    obtain ⟨z, there', counted'⟩ := cleared.own y there
    obtain ⟨u, context', counted''⟩ := counted'.contexts n w context
    exact ⟨⟨z, u, saved, there', context', counted.trans counted''⟩, fun r other => (cleared.others r other).trans (others r other),
      (congrArg State.rings cleared.frame :).trans rings⟩
  next => exact ⟨⟨y, w, saved, there, context, counted⟩, others, rings⟩

theorem State.named_eq {s : State} {e : CmdEntry} {x : Partition} {v : Context} (live : s.live? e.part.toNat = some x)
    (context : x.context? e.ctx.toNat = some v) : s.named e = some (x, v) := by
  rw [State.named, live, Option.bind_some, context, Option.map_some]

/-- A command that goes on is in progress on its ring. -/
theorem State.mem_goesOn (s : State) (k : Nat) (c : Picked) (how : Progress) :
    ⟨c.opcode, c.entry, c.order, how⟩ ∈ ((s.goesOn k c how).ring k).active := by
  rw [State.goesOn, State.ring_setRing, if_pos rfl]
  exact List.mem_append_right _ (List.mem_singleton.2 rfl)

theorem loadPattern_runs {s : State} {q : Request} {c : Picked} {x : Partition} {v : Context} (accepts : Accepts s q 0x0110 c)
    (live : s.live? q.entry.part.toNat = some x) (context : x.context? q.entry.ctx.toNat = some v) (free : v.pattern = none) :
    exec (.loadPattern q) s = .next ((s.unpick (ringNumber q.ring) c).loadPattern q c q.entry.part.toNat q.entry.ctx.toNat x v) := by
  have check : s.patternCheck q.entry = none := by
    rw [State.patternCheck, State.named_eq live context]
    dsimp only
    rw [free]
    exact refuseIf_false rfl _
  have named : (s.unpick (ringNumber q.ring) c).named q.entry = some (x, v) := State.named_eq (s := s) live context
  change execLoadPattern q s = _
  rw [execLoadPattern, check, accepts.serve_runs, named]

/-- A load of an image that passes its checks. -/
theorem State.loadPattern_accepted {s : State} {q : Request} {x : Partition} {pat : Pattern} (reached : q.hostOk = true)
    (checked : s.checkImage p x (s.buffer q.entry q.entry.len.toNat) = .ok pat) (c : Picked) (n : Nat) (v : Context) :
    s.loadPattern q c p n x v = ((s.placePattern p n x v pat).countHost p n q.entry.len.toNat).transfer q c .ok 0
      (words 12 pat.hash.toNat) := by
  unfold State.loadPattern
  dsimp only
  rw [if_neg (not_not_intro reached), checked]

/-- A load of any other image. -/
theorem State.loadPattern_rejected {s : State} {q : Request} {x : Partition} {f : Fail} (reached : q.hostOk = true)
    (checked : s.checkImage p x (s.buffer q.entry q.entry.len.toNat) = .error f) (c : Picked) (n : Nat) (v : Context) :
    s.loadPattern q c p n x v = (s.countHost p n q.entry.len.toNat).transfer q c f.status f.detail f.words := by
  unfold State.loadPattern
  dsimp only
  rw [if_neg (not_not_intro reached), checked]

theorem loadPattern_busy {s : State} {q : Request} {c : Picked} {x : Partition} {v : Context} (accepts : Accepts s q 0x0110 c)
    (live : s.live? q.entry.part.toNat = some x) (context : x.context? q.entry.ctx.toNat = some v) (held : v.pattern ≠ none) :
    exec (.loadPattern q) s = .next (s.answer q 0x0110 c .busy 0 []) := by
  have check : s.patternCheck q.entry = some .busy := by
    rw [State.patternCheck, State.named_eq live context]
    exact refuseIf_true (Option.isSome_iff_ne_none.2 held) _
  change execLoadPattern q s = _
  rw [execLoadPattern, check]
  exact accepts.serve_refused _ _

/-! ### The end of a job and its steps -/

theorem State.unloadCheck_of_pattern {s : State} {e : CmdEntry} {x : Partition} {v : Context}
    (live : s.live? e.part.toNat = some x) (context : x.context? e.ctx.toNat = some v) (held : v.pattern ≠ none) :
    s.unloadCheck e = none := by
  rw [State.unloadCheck, State.named_eq live context]
  exact refuseIf_false (Option.isNone_eq_false_iff.2 (Option.isSome_iff_ne_none.2 held)) _

theorem unloadPattern_runs {s : State} {q : Request} {c : Picked} {x : Partition} {v : Context} (accepts : Accepts s q 0x0111 c)
    (live : s.live? q.entry.part.toNat = some x) (context : x.context? q.entry.ctx.toNat = some v) (held : v.pattern ≠ none) :
    exec (.unloadPattern q) s = .next (State.done ((s.unpick (ringNumber q.ring) c).unload (ringNumber q.ring) c q.entry
      q.entry.part.toNat q.entry.ctx.toNat v) q 0x0111 .ok []) := by
  have named : (s.unpick (ringNumber q.ring) c).named q.entry = some (x, v) := State.named_eq (s := s) live context
  change execUnloadPattern q s = _
  rw [execUnloadPattern, State.unloadCheck_of_pattern live context held, accepts.serve_runs, named]

theorem unloadPattern_refused {s : State} {q : Request} {c : Picked} {x : Partition} {v : Context}
    (accepts : Accepts s q 0x0111 c) (live : s.live? q.entry.part.toNat = some x)
    (context : x.context? q.entry.ctx.toNat = some v) (free : v.pattern = none) :
    exec (.unloadPattern q) s = .next (s.answer q 0x0111 c .noPattern 0 []) := by
  have check : s.unloadCheck q.entry = some .noPattern := by
    rw [State.unloadCheck, State.named_eq live context]
    exact refuseIf_true (Option.isNone_iff_eq_none.2 free) _
  change execUnloadPattern q s = _
  rw [execUnloadPattern, check]
  exact accepts.serve_refused _ _

/-- The job of the context has ended, its tiles cleared where steps were commanded; no other partition changes. -/
theorem State.unload_spec {s : State} {p : Nat} {x : Partition} {n : Nat} {v : Context} (there : s.partition? p = some x)
    (context : x.context? n = some v) (held : v.pattern ≠ none) (k : Nat) (w : Picked) (e : CmdEntry) :
    (∃ y u, (s.unload k w e p n v).partition? p = some y ∧ y.context? n = some u ∧ u.pattern = none ∧ u.steps = none ∧
      (v.steps ≠ none → u.saved = none)) ∧ ∀ r, r ≠ p → (s.unload k w e p n v).partition? r = s.partition? r := by
  have waiting := s.hostOnly_endWaiting .killed (some (k, w.order))
    (fun _ o a => classC o && a.part == e.part && a.ctx == e.ctx)
  unfold State.unload
  dsimp only
  generalize s.endWaiting .killed (some (k, w.order)) (fun _ o a => classC o && a.part == e.part && a.ctx == e.ctx) = t at waiting ⊢
  have there' : t.partition? p = some x := (waiting.partition? p).trans there
  have ended (how : JobEnd) (clear : Bool) : ∃ y, (t.endJob p n how .killed 0 clear).partition? p = some y ∧
      y.context? n = some (v.ended how clear t.time) :=
    ⟨x.jobEnded n how clear t.time, by rw [State.endJob_partition?, if_pos rfl, there', Option.map_some],
      by rw [Partition.context?_jobEnded, if_pos rfl, context, Option.map_some]⟩
  have others (how : JobEnd) (clear : Bool) (r : Nat) (other : r ≠ p) :
      (t.endJob p n how .killed 0 clear).partition? r = s.partition? r :=
    (State.endJob_partition? t p n how .killed 0 clear r).trans ((if_neg other).trans (waiting.partition? r))
  split
  next idle =>
    obtain ⟨y, found, context'⟩ := ended .completed false
    obtain ⟨pattern, steps⟩ := v.ended_spec .completed false t.time
    exact ⟨⟨y, _, found, context', pattern, steps, fun commanded => absurd (Option.isNone_iff_eq_none.1 idle) commanded⟩,
      others .completed false⟩
  next =>
    obtain ⟨y, found, context'⟩ := ended .killed true
    obtain ⟨pattern, steps⟩ := v.ended_spec .killed true t.time
    refine ⟨⟨y, _, found, context', pattern, steps, fun _ => ?_⟩, others .killed true⟩
    rw [Context.ended, if_neg (fun none_ => held (Option.isNone_iff_eq_none.1 none_))]
    rfl

theorem runSteps_runs {s : State} {q : Request} {c : Picked} {x : Partition} {v : Context} (accepts : Accepts s q 0x0112 c)
    (live : s.live? q.entry.part.toNat = some x) (context : x.context? q.entry.ctx.toNat = some v) (held : v.pattern ≠ none)
    (least : 1 ≤ paramAt q.entry 0) (most : paramAt q.entry 0 ≤ 65535) :
    exec (.runSteps q) s = .next (((s.unpick (ringNumber q.ring) c).setPartition q.entry.part.toNat
      (x.runnableNow q.entry.ctx.toNat s.time (v.command (ringNumber q.ring) q.entry))).goesOn (ringNumber q.ring) c .steps) := by
  have check : s.runCheck q.entry = none := by
    rw [State.runCheck, State.unloadCheck_of_pattern live context held]
    exact refuseIf_false (by rw [Bool.or_eq_false_iff, decide_eq_false_iff_not, decide_eq_false_iff_not]; omega) _
  have named : (s.unpick (ringNumber q.ring) c).named q.entry = some (x, v) := State.named_eq (s := s) live context
  change execRunSteps q s = _
  rw [execRunSteps, check, accepts.serve_runs, named]
  rfl

theorem runSteps_refused {s : State} {q : Request} {c : Picked} {x : Partition} {v : Context} (accepts : Accepts s q 0x0112 c)
    (live : s.live? q.entry.part.toNat = some x) (context : x.context? q.entry.ctx.toNat = some v) (held : v.pattern ≠ none)
    (outside : paramAt q.entry 0 = 0 ∨ 65535 < paramAt q.entry 0) :
    exec (.runSteps q) s = .next (s.answer q 0x0112 c .badParam 0 []) := by
  have check : s.runCheck q.entry = some .badParam := by
    rw [State.runCheck, State.unloadCheck_of_pattern live context held]
    exact refuseIf_true (by rw [Bool.or_eq_true, decide_eq_true_eq, decide_eq_true_eq]; omega) _
  change execRunSteps q s = _
  rw [execRunSteps, check]
  exact accepts.serve_refused _ _

/-- A partition whose context becomes runnable holds it, and its dies and its running context as before. -/
theorem Partition.runnableNow_spec (x : Partition) (n now : Nat) (v : Context) :
    (x.runnableNow n now v).context? n = some { v with runnableSince := now } ∧ (x.runnableNow n now v).dies = x.dies ∧
      (x.runnableNow n now v).running = x.running := by
  have set_ : (x.setContext n { v with runnableSince := now }).context? n = some { v with runnableSince := now } :=
    (Partition.context?_setContext x n n _).trans (if_pos rfl)
  unfold Partition.runnableNow
  dsimp only
  split
  · exact ⟨set_, rfl, rfl⟩
  · exact ⟨set_, rfl, rfl⟩

/-- Settles O50, the load through what it places and what it counts, the unload through the end of the job. -/
theorem jobsBeginAndEnd : Obligations.JobsBeginAndEnd := by
  unfold Obligations.JobsBeginAndEnd
  intro s q c x v e p n k live context
  have there : (s.unpick k c).partition? p = some x := (State.live?_eq_some live).1
  refine ⟨fun accepts free => ?_, fun accepts held => loadPattern_busy accepts live context held, fun accepts held => ?_,
    fun accepts free => unloadPattern_refused accepts live context free, fun accepts held => ⟨fun least most => ?_,
      fun outside => runSteps_refused accepts live context held outside⟩⟩
  · obtain ⟨opcode, entry⟩ := State.picked?_spec accepts.picked
    have goes (t : State) (how : Progress) := t.mem_goesOn k c how
    rw [opcode, entry] at goes
    refine ⟨fun pat checked => ?_, fun f checked => ?_⟩
    · obtain ⟨⟨y, w, saved, placed, context', counted⟩, others, -⟩ := (s.unpick k c).placePattern_spec p n x v pat
      have host := ((s.unpick k c).placePattern p n x v pat).counted_countHost p n e.len.toNat
      obtain ⟨z, stands, counted'⟩ := host.own y placed
      obtain ⟨u, context'', counted''⟩ := counted'.contexts n w context'
      have all := counted.trans counted''
      refine ⟨_, z, u, (loadPattern_runs accepts live context free).trans
        (congrArg Host.Outcome.next (State.loadPattern_accepted accepts.reached checked c n v)), stands, context'',
        (congrArg Context.pattern all :), (congrArg Context.seq all :), (congrArg Context.restored all :),
        (congrArg Context.steps all :), ?_, fun r other => (host.others r other).trans (others r other), goes _ _⟩
      exact (congrArg Context.step all :)
    · have host := (s.unpick k c).counted_countHost p n e.len.toNat
      obtain ⟨z, stands, counted⟩ := host.own x there
      obtain ⟨u, context', counted'⟩ := counted.contexts n v context
      have rims : ((s.unpick k c).countHost p n e.len.toNat).rims = s.rims := by
        rw [State.countHost, there]
        rfl
      exact ⟨_, z, u, (loadPattern_runs accepts live context free).trans
        (congrArg Host.Outcome.next (State.loadPattern_rejected accepts.reached checked c n v)), stands, context',
        (congrArg Context.pattern counted' :).trans free, (congrArg Partition.dies counted.frame :),
        (congrArg Partition.run counted.frame :), rims, goes _ _⟩
  · obtain ⟨⟨y, w, stands, context', pattern, steps, saved⟩, others⟩ := State.unload_spec there context held k c e
    exact ⟨_, y, w, unloadPattern_runs accepts live context held, stands, context', pattern, steps, saved, others⟩
  · obtain ⟨opcode, entry⟩ := State.picked?_spec accepts.picked
    have goes (t : State) (how : Progress) := t.mem_goesOn k c how
    rw [opcode, entry] at goes
    obtain ⟨context', dies, running⟩ := x.runnableNow_spec n s.time (v.command k e)
    exact ⟨_, _, _, runSteps_runs accepts live context held least most,
      (State.partition?_setPartition _ p p _).trans (if_pos rfl), context', rfl, rfl, rfl, dies, running, goes _ _⟩

end Sys2Proof.Machine
end

section
/-! PROOFS. Stack transfers, checkpoints and the commands of the sequence table. -/

namespace Sys2Proof.Machine

/-! ### Commands that wait besides -/

theorem Accepts.serveWhen_runs {s : State} {q : Request} {opcode : Nat} {c : Picked} {run : Picked → State → State}
    {ready : Bool} (accepts : Accepts s q opcode c) (served : ready = true) :
    s.serveWhen q opcode none ready run = .next (run c (s.unpick (ringNumber q.ring) c)) := by
  simp only [State.serveWhen, accepts.gate_eq, Option.elim, served, if_true]

theorem Accepts.serveWhen_refused {s : State} {q : Request} {opcode : Nat} {c : Picked} {run : Picked → State → State}
    {ready : Bool} (accepts : Accepts s q opcode c) (st : Status) :
    s.serveWhen q opcode (some st) ready run = .next (s.answer q opcode c st 0 []) := by
  simp only [State.serveWhen, accepts.gate_eq, Option.elim]

/-! ### Stack transfers -/

theorem State.stackCheck_of_inside {s : State} {e : CmdEntry} {x : Partition} (live : s.live? e.part.toNat = some x)
    (whole : e.len.toNat % 64 = 0) (inside : x.rangeOk (paramPair e 0) e.len.toNat = true) : s.stackCheck e = none := by
  rw [State.stackCheck, if_neg (not_not_intro whole), live]
  exact refuseIf_false (by rw [inside]; rfl) _

theorem State.stackCheck_of_outside {s : State} {e : CmdEntry} {x : Partition} (live : s.live? e.part.toNat = some x)
    (whole : e.len.toNat % 64 = 0) (outside : x.rangeOk (paramPair e 0) e.len.toNat = false) :
    s.stackCheck e = some .stackRegion := by
  rw [State.stackCheck, if_neg (not_not_intro whole), live]
  exact refuseIf_true (by rw [outside]; rfl) _

theorem stackWrite_runs {s : State} {q : Request} {c : Picked} {x : Partition} (accepts : Accepts s q 0x0113 c)
    (live : s.live? q.entry.part.toNat = some x) (whole : q.entry.len.toNat % 64 = 0)
    (inside : x.rangeOk (paramPair q.entry 0) q.entry.len.toNat = true)
    (served : s.remoteReady q.entry.part.toNat (paramPair q.entry 0) q.entry.len.toNat = true) :
    exec (.stackWrite q) s = .next (State.transfer (((s.unpick (ringNumber q.ring) c).writeSpanBytes q.entry.part.toNat
      q.entry.ctx.toNat (paramPair q.entry 0) (s.hostBytes q.entry.addr.toNat q.entry.len.toNat)).countHost q.entry.part.toNat
        q.entry.ctx.toNat q.entry.len.toNat) q c .ok 0 []) := by
  change execStackWrite q s = _
  rw [execStackWrite]
  dsimp only
  rw [State.stackCheck_of_inside live whole inside, accepts.serveWhen_runs served, State.arrived, if_pos accepts.reached,
    if_pos accepts.reached]
  rfl

theorem stackRead_runs {s : State} {q : Request} {c : Picked} {x : Partition} (accepts : Accepts s q 0x0114 c)
    (live : s.live? q.entry.part.toNat = some x) (whole : q.entry.len.toNat % 64 = 0)
    (inside : x.rangeOk (paramPair q.entry 0) q.entry.len.toNat = true)
    (served : s.remoteReady q.entry.part.toNat (paramPair q.entry 0) q.entry.len.toNat = true) :
    exec (.stackRead q) s = .next (State.transfer ((((s.unpick (ringNumber q.ring) c).spanBytes q.entry.part.toNat
      q.entry.ctx.toNat (paramPair q.entry 0) q.entry.len.toNat).2.hostWrite q.entry.addr.toNat
        ((s.unpick (ringNumber q.ring) c).spanBytes q.entry.part.toNat q.entry.ctx.toNat (paramPair q.entry 0)
          q.entry.len.toNat).1).countHost q.entry.part.toNat q.entry.ctx.toNat q.entry.len.toNat) q c .ok 0 []) := by
  change execStackRead q s = _
  rw [execStackRead]
  dsimp only
  rw [State.stackCheck_of_inside live whole inside, accepts.serveWhen_runs served, State.arrived, if_pos accepts.reached,
    if_pos accepts.reached]
  rfl

theorem checkpoint_runs {s : State} {q : Request} {c : Picked} {x : Partition} {v : Context} (accepts : Accepts s q 0x0115 c)
    (live : s.live? q.entry.part.toNat = some x) (context : x.context? q.entry.ctx.toNat = some v)
    (fits : s.checkpointCheck q.entry = none) :
    exec (.checkpoint q) s = .next (State.goesOn ((s.unpick (ringNumber q.ring) c).setPartition q.entry.part.toNat
      (x.setContext q.entry.ctx.toNat { v with checkpoint := some ⟨ringNumber q.ring, q.entry, s.time⟩ }))
        (ringNumber q.ring) c .checkpoint) := by
  have named : (s.unpick (ringNumber q.ring) c).named q.entry = some (x, v) := State.named_eq (s := s) live context
  change execCheckpoint q s = _
  rw [execCheckpoint]
  rw [fits, accepts.serve_runs, named]
  rfl

theorem restore_runs {s : State} {q : Request} {c : Picked} {x : Partition} {v : Context} (accepts : Accepts s q 0x0116 c)
    (live : s.live? q.entry.part.toNat = some x) (context : x.context? q.entry.ctx.toNat = some v) (free : v.pattern = none)
    (served : s.restoreReady q.entry = true) :
    exec (.restore q) s = .next ((s.unpick (ringNumber q.ring) c).restore q c q.entry.part.toNat q.entry.ctx.toNat x v) := by
  have check : s.patternCheck q.entry = none := by
    rw [State.patternCheck, State.named_eq live context]
    exact refuseIf_false (by rw [free]; rfl) _
  have named : (s.unpick (ringNumber q.ring) c).named q.entry = some (x, v) := State.named_eq (s := s) live context
  change execRestore q s = _
  rw [execRestore, check, accepts.serveWhen_runs served, named]

/-- A checkpoint that agrees is written into every stack, and its step is kept for the next load. -/
theorem State.restore_matching {s : State} {q : Request} {p c : Nat} {x : Partition} {v : Context} {header : CheckpointHeader}
    {data : List Byte} (w : Picked) (reached : q.hostOk = true)
    (read : CheckpointHeader.ofBytes (s.buffer q.entry 4096) = header) (long : 4096 ≤ q.entry.len.toNat)
    (agrees : header.agrees x.stackRims.length q.entry.len.toNat = true)
    (inside : x.rangeOk (withinStack (paramPair q.entry 0)) header.size = true)
    (bytes : s.hostBytes (q.entry.addr.toNat + 4096) (x.stackRims.length * header.size) = data)
    (hash : Config.sha384 data = header.dataHash) :
    s.restore q w p c x v = State.transfer
      (((s.setPartition p (x.setContext c { v with restored := some (header.pattern, header.step) })).restoreData p c
        x.stackRims.length (withinStack (paramPair q.entry 0)) header.size data).countHost p c
          (4096 + x.stackRims.length * header.size)) q w .ok 0 [] := by
  unfold State.restore
  dsimp only
  rw [read, bytes, if_neg (not_not_intro reached), if_neg (by simp [agrees, long]), if_neg (not_not_intro inside),
    if_neg (not_not_intro hash)]

theorem State.restore_mismatched {s : State} {q : Request} {p c : Nat} {x : Partition} {v : Context} (w : Picked)
    (reached : q.hostOk = true)
    (differs : q.entry.len.toNat < 4096 ∨ (CheckpointHeader.ofBytes (s.buffer q.entry 4096)).agrees x.stackRims.length
      q.entry.len.toNat = false) :
    s.restore q w p c x v = s.transfer q w .badParam 1 [] := by
  unfold State.restore
  dsimp only
  rw [if_neg (not_not_intro reached), if_pos (differs.imp_right (fun h => by rw [h]; exact Bool.false_ne_true))]

/-- Settles O51, one command after the other, each through its check and the branch that it takes. -/
theorem spansAreMoved : Obligations.SpansAreMoved := by
  unfold Obligations.SpansAreMoved
  intro s q c x v e p n t len live context
  refine ⟨fun whole inside served => ⟨fun accepts => ?_, fun accepts => ?_⟩,
    fun whole outside => ⟨fun accepts => ?_, fun accepts => ?_⟩, fun accepts fits => checkpoint_runs accepts live context fits,
    fun accepts free served => ⟨fun long agrees inside hash => ?_, fun differs => ?_⟩⟩
  · exact stackWrite_runs accepts live whole inside served
  · exact stackRead_runs accepts live whole inside served
  · change execStackWrite q s = _
    rw [execStackWrite]
    dsimp only
    rw [State.stackCheck_of_outside live whole outside]
    exact accepts.serveWhen_refused _
  · change execStackRead q s = _
    rw [execStackRead]
    dsimp only
    rw [State.stackCheck_of_outside live whole outside]
    exact accepts.serveWhen_refused _
  · exact (restore_runs accepts live context free served).trans
      (congrArg Host.Outcome.next (State.restore_matching c accepts.reached rfl long agrees inside rfl hash))
  · exact (restore_runs accepts live context free served).trans
      (congrArg Host.Outcome.next (State.restore_mismatched c accepts.reached differs))

/-! ### The sequence table -/

theorem State.heldCheck_of_early {s : State} {q : Request} {opcode : Nat} {c : Picked} {x : Partition} {v : Context}
    {g : SeqConfig} (live : s.live? q.entry.part.toNat = some x) (context : x.context? q.entry.ctx.toNat = some v)
    (table : v.seqCfg = some g) (room : v.heldSeq.length < 4096 ∨ x.running = some q.entry.ctx.toNat)
    (picked : s.picked? q opcode = some c) (early : c.late = false) : s.heldCheck q opcode = none := by
  rw [State.heldCheck]
  rw [State.named_eq live context]
  dsimp only
  rw [table, if_neg (by simp), picked, if_neg (by simp [early])]
  refine refuseIf_false ?_ _
  rcases room with room | room
  · rw [decide_eq_false (by omega), Bool.and_false]
  · rw [room, bne_self_eq_false, Bool.false_and]

theorem State.heldCheck_of_late {s : State} {q : Request} {opcode : Nat} {c : Picked} {x : Partition} {v : Context}
    {g : SeqConfig} (live : s.live? q.entry.part.toNat = some x) (context : x.context? q.entry.ctx.toNat = some v)
    (table : v.seqCfg = some g) (picked : s.picked? q opcode = some c) (late : c.late = true) :
    s.heldCheck q opcode = some .seqLate := by
  rw [State.heldCheck]
  rw [State.named_eq live context]
  dsimp only
  rw [table, if_neg (by simp), picked, if_pos (by simp [late])]

theorem State.heldCheck_of_none {s : State} {q : Request} {opcode : Nat} {x : Partition} {v : Context}
    (live : s.live? q.entry.part.toNat = some x) (context : x.context? q.entry.ctx.toNat = some v)
    (table : v.seqCfg = none) : s.heldCheck q opcode = some .noSeqTable := by
  rw [State.heldCheck]
  rw [State.named_eq live context]
  dsimp only
  rw [table, if_pos Option.isNone_none]

/-- A command that is held for its table phase. -/
theorem State.holdSeq_eq {s : State} {q : Request} {opcode : Nat} {c : Picked} {x : Partition} {v : Context}
    (live : s.live? q.entry.part.toNat = some x) (context : x.context? q.entry.ctx.toNat = some v)
    (picked : c.opcode = opcode ∧ c.entry = q.entry) (isAdmit : Bool) :
    (s.unpick (ringNumber q.ring) c).holdSeq q c isAdmit = State.goesOn ((s.unpick (ringNumber q.ring) c).setPartition
      q.entry.part.toNat (x.setContext q.entry.ctx.toNat { v with
        heldSeq := v.heldSeq ++ [⟨ringNumber q.ring, q.entry, isAdmit⟩] })) (ringNumber q.ring)
          ⟨opcode, q.entry, c.order, c.late⟩ .sequence := by
  have named : (s.unpick (ringNumber q.ring) c).named q.entry = some (x, v) := State.named_eq (s := s) live context
  obtain ⟨opcode', entry, order, late⟩ := c
  obtain ⟨rfl, rfl⟩ := picked
  unfold State.holdSeq
  rw [named]

theorem State.seqSwapWindowCheck_eq {s : State} {q : Request} (aligned : paramPair q.entry 0 % 4096 = 0) :
    ((refuseIf (paramPair q.entry 0 % 4096 != 0) .badParam).orElse (fun _ => s.heldCheck q 0x0121)) = s.heldCheck q 0x0121 := by
  rw [refuseIf_false (by rw [aligned]; rfl), Option.orElse_none]

/-- A command that the hub holds is late from the first beat of its phase on. -/
theorem Context.tooLate_iff (v : Context) (n : Nat) : v.tooLate n = true ↔ n < v.step ∨ v.seq.phaseStep = some n := by
  simp [Context.tooLate]

theorem seqRead_runs {s : State} {q : Request} {c : Picked} {x : Partition} {v : Context} {g : SeqConfig}
    (accepts : Accepts s q 0x0122 c) (live : s.live? q.entry.part.toNat = some x)
    (context : x.context? q.entry.ctx.toNat = some v) (table : v.seqCfg = some g)
    (slots : paramAt q.entry 0 + paramAt q.entry 1 ≤ g.slots) (long : 64 * paramAt q.entry 1 ≤ q.entry.len.toNat)
    {bs : List Byte} (entries : (List.range (paramAt q.entry 1)).flatMap (fun i => v.seq.slotBytes (paramAt q.entry 0 + i)) = bs) :
    exec (.seqRead q) s = .next (State.done (((s.unpick (ringNumber q.ring) c).hostWrite q.entry.addr.toNat bs).countHost
      q.entry.part.toNat q.entry.ctx.toNat bs.length) q 0x0122 .ok []) := by
  have check : s.seqReadCheck q.entry = none := by
    rw [State.seqReadCheck, State.named_eq live context]
    dsimp only
    rw [table]
    exact refuseIf_false (by rw [decide_eq_false (by omega), decide_eq_false (by omega)]; rfl) _
  have named : (s.unpick (ringNumber q.ring) c).named q.entry = some (x, v) := State.named_eq (s := s) live context
  change execSeqRead q s = _
  rw [execSeqRead]
  dsimp only
  rw [check, accepts.serve_runs, named]
  dsimp only
  rw [entries]
  rfl

/-- Settles O52, through the check that the two held commands share. -/
theorem sequenceCommandsWait : Obligations.SequenceCommandsWait := by
  unfold Obligations.SequenceCommandsWait
  intro s q c x v e p n k held live context
  refine ⟨fun table => ⟨fun accepts => ?_, fun accepts => ?_⟩, fun g table => ⟨fun room early => ⟨fun accepts => ?_,
    fun accepts aligned => ?_⟩, fun late => ⟨fun accepts => ?_, fun accepts aligned => ?_⟩, fun w entry => ⟨fun opcode => ?_,
      fun opcode => ?_⟩, fun accepts slots long => seqRead_runs accepts live context table slots long rfl⟩⟩
  · change execSeqAdmit q s = _
    rw [execSeqAdmit, State.heldCheck_of_none live context table]
    exact accepts.serve_refused _ _
  · have check : s.seqReadCheck q.entry = some .noSeqTable := by
      rw [State.seqReadCheck, State.named_eq live context]
      dsimp only
      rw [table]
    change execSeqRead q s = _
    rw [execSeqRead]
    dsimp only
    rw [check]
    exact accepts.serve_refused _ _
  · change execSeqAdmit q s = _
    rw [execSeqAdmit, State.heldCheck_of_early live context table room accepts.picked early, accepts.serve_runs,
      State.holdSeq_eq live context (State.picked?_spec accepts.picked)]
  · change execSeqSwapWindow q s = _
    rw [execSeqSwapWindow, State.seqSwapWindowCheck_eq aligned,
      State.heldCheck_of_early live context table room accepts.picked early, accepts.serve_runs,
      State.holdSeq_eq live context (State.picked?_spec accepts.picked)]
  · change execSeqAdmit q s = _
    rw [execSeqAdmit, State.heldCheck_of_late live context table accepts.picked late]
    exact accepts.serve_refused _ _
  · change execSeqSwapWindow q s = _
    rw [execSeqSwapWindow, State.seqSwapWindowCheck_eq aligned, State.heldCheck_of_late live context table accepts.picked late]
    exact accepts.serve_refused _ _
  · have there : s.partition? p = some x := (State.live?_eq_some live).1
    rw [State.pickedLate]
    rw [entry, if_pos opcode, there, Option.bind_some, context]
    exact v.tooLate_iff _
  · have there : s.partition? p = some x := (State.live?_eq_some live).1
    rw [State.pickedLate]
    rw [entry, if_neg (by rw [opcode]; decide), if_pos opcode, there, Option.bind_some, context]
    exact v.tooLate_iff _

end Sys2Proof.Machine
end

section
/-! PROOFS. Sessions, IDE keys, firmware update and the debug port. -/

namespace Sys2Proof.Machine

/-! ### Sessions -/

theorem fit_length (n : Nat) (bs : List Byte) : (fit n bs).length = n := by
  rw [fit, List.length_take, List.length_append, zeroBytes, List.length_replicate]
  omega

theorem sessionReply_length (host pub : List Byte) {nonce : List Byte} (length : nonce.length = 32) :
    (sessionReply host pub nonce).length = 384 := by
  simp only [sessionReply, List.length_append, fit_length, zeroBytes, List.length_replicate, length]

theorem State.entropyBytes_length (s : State) (n : Nat) : (s.entropyBytes n).1.length = n := by
  rw [State.entropyBytes, List.length_map, List.length_range]

theorem sessionOpen_runs {s : State} {q : Request} {c : Picked} (accepts : Accepts s q 0x0020 c)
    (long : 512 ≤ q.entry.len.toNat) :
    exec (.sessionOpen q) s = .next ((s.unpick (ringNumber q.ring) c).openSession q) := by
  change execSessionOpen q s = _
  rw [execSessionOpen, refuseIf_false (decide_eq_false (Nat.not_lt.2 long)), accepts.serve_runs]

/-- The state of an exchange that succeeds, before its completion. -/
def State.opened (s : State) (e : CmdEntry) (x : List Byte) : State :=
  State.hostWrite { (s.entropyBytes 32).2 with
      keyNumber := s.keyNumber + 1,
      session := some ⟨Config.hkdf x (s.entropyBytes 32).1 sessionInfo, (s.entropyBytes 32).1, none⟩ }
    (e.addr.toNat + 128) (sessionReply (s.buffer e 128) (Config.ephemeralPublic s.keyNumber) (s.entropyBytes 32).1)

theorem State.openSession_eq (s : State) (q : Request) {x : List Byte}
    (agreed : Config.ecdh s.keyNumber (slice (s.buffer q.entry 128) 0 97) = some x) :
    s.openSession q = (s.opened q.entry x).done q 0x0020 .ok [] := by
  rw [State.openSession]
  dsimp only
  rw [agreed]
  rfl

theorem State.openSession_none (s : State) (q : Request)
    (refused : Config.ecdh s.keyNumber (slice (s.buffer q.entry 128) 0 97) = none) :
    s.openSession q = s.done q 0x0020 .auth [] := by
  rw [State.openSession]
  dsimp only
  rw [refused]

/-! ### IDE keys -/

theorem State.hostOnly_resumePosts (s : State) : s.HostOnly s.resumePosts := by
  unfold State.resumePosts
  refine State.HostOnly.foldl (fun t e => ?_) _ s
  exact (t.hostOnly_drainUnposted e.1).trans (State.hostOnly_drainEvents _ e.1)

/-- The state with the key set installed, before what waits is posted. -/
def State.keyed (s : State) (z : Session) (plain : List Byte) : State :=
  { s with
    session := some z,
    ide := { s.ide with
      secure := true, keys := Sparse.set s.ide.keys (field plain 0 1) (slice plain 16 88), current := some (field plain 0 1),
      old := if s.ide.current = some (field plain 0 1) then none else s.ide.current, installed := s.time } }

theorem State.installKeys_ide (s : State) (z : Session) (plain : List Byte) :
    (s.installKeys z plain).ide = (s.keyed z plain).ide ∧ (s.installKeys z plain).partitions = s.partitions :=
  have resumed := (s.keyed z plain).hostOnly_resumePosts
  ⟨(congrArg State.ide resumed :), (congrArg State.partitions resumed :)⟩

theorem ideKey_runs {s : State} {q : Request} {c : Picked} (accepts : Accepts s q 0x0022 c) (long : 160 ≤ q.entry.len.toNat)
    {z : Session} {plain : List Byte} (opens : s.unseal (s.hostBytes q.entry.addr.toNat 160) = some (z, plain))
    (set_ : field plain 0 1 ≤ 1) :
    exec (.ideKey q) s = .next (((s.unpick (ringNumber q.ring) c).installKeys z plain).done q 0x0022 .ok []) := by
  have opens' : (s.unpick (ringNumber q.ring) c).unseal ((s.unpick (ringNumber q.ring) c).buffer q.entry 160) = some (z, plain) :=
    opens
  change execIdeKey q s = _
  rw [execIdeKey, refuseIf_false (decide_eq_false (Nat.not_lt.2 long)), accepts.serve_runs, opens']
  dsimp only
  rw [if_neg (Nat.not_lt.2 set_)]

theorem ideKey_refused {s : State} {q : Request} {c : Picked} (accepts : Accepts s q 0x0022 c) (long : 160 ≤ q.entry.len.toNat)
    (shut : s.unseal (s.hostBytes q.entry.addr.toNat 160) = none) :
    exec (.ideKey q) s = .next (s.answer q 0x0022 c .auth 0 []) := by
  have shut' : (s.unpick (ringNumber q.ring) c).unseal ((s.unpick (ringNumber q.ring) c).buffer q.entry 160) = none := shut
  change execIdeKey q s = _
  rw [execIdeKey, refuseIf_false (decide_eq_false (Nat.not_lt.2 long)), accepts.serve_runs, shut']
  rfl

/-! ### Firmware -/

theorem State.fwFault_eq_none_iff (s : State) (bs : List Byte) : s.fwFault bs = none ↔ s.fwVerifies bs = true := by
  unfold State.fwFault State.fwVerifies
  split
  next broken =>
    refine iff_of_false (Option.some_ne_none 1) ?_
    rcases broken with shape | signed
    · simp [shape]
    · simp [signed]
  next sound =>
    obtain ⟨shape, signed⟩ := not_or.1 sound
    rw [not_not] at shape signed
    split
    next old => exact iff_of_false (Option.some_ne_none 2) (by simp [Nat.not_le.2 old])
    next recent =>
      split
      next body => exact iff_of_false (Option.some_ne_none 3) (by simp [body])
      next body =>
        rw [not_not] at body
        exact iff_of_true rfl (by rw [shape, signed, body, decide_eq_true (Nat.not_lt.1 recent)]; rfl)

theorem State.fwFault_range {s : State} {bs : List Byte} {d : Nat} (fault : s.fwFault bs = some d) : 1 ≤ d ∧ d ≤ 3 := by
  unfold State.fwFault at fault
  split at fault
  · cases fault; decide
  · split at fault
    · cases fault; decide
    · split at fault
      · cases fault; decide
      · cases fault

theorem fwUpdate_runs {s : State} {q : Request} {c : Picked} (accepts : Accepts s q 0x0023 c) :
    exec (.fwUpdate q) s = .next (match s.fwFault (s.hostBytes q.entry.addr.toNat q.entry.len.toNat) with
      | some d => (s.unpick (ringNumber q.ring) c).complete (ringNumber q.ring) 0x0023 q.entry .auth d []
      | none => ((s.unpick (ringNumber q.ring) c).installFirmware
          (s.hostBytes q.entry.addr.toNat q.entry.len.toNat)).done q 0x0023 .ok
            [BitVec.ofNat 32 (fwVersion (s.hostBytes q.entry.addr.toNat q.entry.len.toNat))]) := by
  change execFwUpdate q s = _
  rw [execFwUpdate]
  exact accepts.serve_runs _

/-- The image lies in the slot that was not active, which is active now; the other slot holds what it held. -/
theorem State.installFirmware_spec (s : State) (bs : List Byte) : (s.installFirmware bs).activeSlot = 1 - s.activeSlot ∧
    (s.installFirmware bs).slotImage (1 - s.activeSlot) = fwBytes bs ∧
    (s.activeSlot ≤ 1 → (s.installFirmware bs).slotImage s.activeSlot = s.slotImage s.activeSlot) := by
  have slots (i : Nat) : (s.installFirmware bs).slotImage i =
      if i = 1 - s.activeSlot then fwBytes bs else s.slotImage i := by
    unfold State.installFirmware State.slotImage
    dsimp only
    rw [Sparse.get?_set]
    split <;> rfl
  exact ⟨rfl, (slots _).trans (if_pos rfl), fun slot => (slots _).trans (if_neg (by omega))⟩

/-! ### The debug port -/

/-- A partition that is destroyed is in teardown; the others stand. -/
theorem State.destroy_spec (s : State) (p : Nat) (x : Partition) (by_ : Option (Nat × Nat)) :
    (∃ y, (s.destroy p x by_).partition? p = some y ∧ y.teardown = true) ∧
      ∀ r, r ≠ p → (s.destroy p x by_).partition? r = s.partition? r := by
  obtain ⟨⟨y, there, -, -⟩, others⟩ := s.stopPartition_spec p x .killed by_
  obtain ⟨stands, -⟩ := State.beginTeardown_spec there
  exact ⟨⟨_, (stands p).trans (if_pos rfl), rfl⟩, fun r other => (stands r).trans ((if_neg other).trans (others r other))⟩

/-- The partitions after those of a list are destroyed: one that is found is in teardown, or it is the list's that waits. -/
theorem State.destroyAll_spec (by_ : Option (Nat × Nat)) (l : List (Nat × Partition)) (s : State)
    (waits : ∀ p x, s.partition? p = some x → x.teardown = true ∨ Sparse.get? l p = some x) :
    (∀ p x, (l.foldl (fun t e => if e.2.teardown then t else t.destroy e.1 e.2 by_) s).partition? p = some x →
      x.teardown = true) ∧
    ∀ p, (s.partition? p).isSome = true →
      ((l.foldl (fun t e => if e.2.teardown then t else t.destroy e.1 e.2 by_) s).partition? p).isSome = true := by
  induction l generalizing s with
  | nil => exact ⟨fun p x found => (waits p x found).resolve_right (fun listed => absurd listed (Option.some_ne_none x).symm), fun p held => held⟩
  | cons e l ih =>
    have get (p : Nat) : Sparse.get? (e :: l) p = if e.1 = p then some e.2 else Sparse.get? l p := by
      unfold Sparse.get?
      rw [List.find?_cons]
      by_cases here : e.1 = p
      · rw [if_pos here, beq_iff_eq.2 here]
        rfl
      · rw [if_neg here, beq_eq_false_iff_ne.2 here]
    rw [List.foldl_cons]
    by_cases torn : e.2.teardown = true
    · rw [if_pos torn]
      refine ih s fun p x found => ?_
      rcases waits p x found with torn' | listed
      · exact .inl torn'
      · rw [get] at listed
        split at listed
        · exact .inl (Option.some.inj listed ▸ torn)
        · exact .inr listed
    · rw [if_neg torn]
      obtain ⟨⟨y, there, torn'⟩, others⟩ := s.destroy_spec e.1 e.2 by_
      obtain ⟨down, held⟩ := ih (s.destroy e.1 e.2 by_) fun p x found => by
        by_cases here : p = e.1
        · rw [here, there] at found
          exact .inl (Option.some.inj found ▸ torn')
        · rw [others p here] at found
          refine (waits p x found).imp_right fun listed => ?_
          rwa [get, if_neg (fun same => here same.symm)] at listed
      refine ⟨down, fun p before => held p ?_⟩
      by_cases here : p = e.1
      · rw [here, there]; rfl
      · rw [others p here]; exact before

/-- The state of an unlock that has begun, before the port opens. -/
def State.unlocking (s : State) (q : Request) (c : Picked) : State :=
  State.goesOn { (s.partitions.foldl (fun t e => if e.2.teardown then t else t.destroy e.1 e.2
      (some (ringNumber q.ring, c.order))) s) with
    session := none, ide := .unused, debugWait := some (ringNumber q.ring, q.entry) } (ringNumber q.ring) c .destroy

theorem State.unlockDebug_eq (s : State) (q : Request) (c : Picked) : s.unlockDebug q c = (s.unlocking q c).openDebug := rfl

theorem State.jobsOnly_destroyAll (by_ : Option (Nat × Nat)) (l : List (Nat × Partition)) (s : State) :
    s.JobsOnly (l.foldl (fun t e => if e.2.teardown then t else t.destroy e.1 e.2 by_) s) := by
  refine State.JobsOnly.foldl (fun t e => ?_) l s
  split
  · exact .refl t
  · exact (t.jobsOnly_stopPartition e.1 e.2 .killed by_).trans (State.jobsOnly_beginTeardown _ e.1)

/-- What opening the port changes besides the port: only what reaches the host. -/
theorem State.openDebug_frame (s : State) : s.openDebug.session = s.session ∧ s.openDebug.ide = s.ide ∧
    s.openDebug.partitions = s.partitions := by
  unfold State.openDebug
  split
  · exact ⟨rfl, rfl, rfl⟩
  next k e _ =>
    split
    · dsimp only
      split
      next a _ =>
        have finished := State.hostOnly_finish ({ s with debugWait := none, debugOpen := true } : State)
        exact ⟨(congrArg State.session (finished k a .ok 0 []) :), (congrArg State.ide (finished k a .ok 0 []) :),
          (congrArg State.partitions (finished k a .ok 0 []) :)⟩
      · exact ⟨rfl, rfl, rfl⟩
    · exact ⟨rfl, rfl, rfl⟩

theorem State.openDebug_of_none {s : State} {k : Nat} {e : CmdEntry} (waits : s.debugWait = some (k, e))
    (empty : s.partitions = []) : s.openDebug.debugOpen = true := by
  unfold State.openDebug
  rw [waits]
  dsimp only
  rw [if_pos (by rw [empty]; rfl)]
  split
  next a _ => exact (congrArg State.debugOpen (State.hostOnly_finish _ k a .ok 0 []) :)
  next => rfl

theorem State.openDebug_of_some {s : State} {k : Nat} {e : CmdEntry} (waits : s.debugWait = some (k, e))
    (held : s.partitions ≠ []) : s.openDebug = s := by
  unfold State.openDebug
  rw [waits]
  exact if_neg (fun empty => held (List.isEmpty_iff.1 empty))

theorem debugUnlock_runs {s : State} {q : Request} {c : Picked} (accepts : Accepts s q 0x0024 c)
    (long : 512 ≤ q.entry.len.toNat) :
    exec (.debugUnlock q) s = .next (if s.tokenOk (s.hostBytes q.entry.addr.toNat 512) then
      (s.unpick (ringNumber q.ring) c).unlockDebug q c else s.answer q 0x0024 c .auth 0 []) := by
  change execDebugUnlock q s = _
  rw [execDebugUnlock, refuseIf_false (decide_eq_false (Nat.not_lt.2 long))]
  exact accepts.serve_runs _

/-- Settles O53, each command through the check that decides it; the partitions of an unlock by induction over their list. -/
theorem secretsAreChecked : Obligations.SecretsAreChecked := by
  unfold Obligations.SecretsAreChecked
  intro s q c e k buffer
  refine ⟨fun accepts long => ⟨fun refused => ?_, fun z agreed => ?_⟩, fun accepts long => ⟨fun shut => ?_,
    fun z plain opens set_ => ?_⟩, fun accepts => ⟨fun verifies => ?_, fun fails => ?_⟩,
      fun accepts long => ⟨fun false_ => ?_, fun valid => ?_⟩⟩
  · exact (sessionOpen_runs accepts long).trans (congrArg Host.Outcome.next (State.openSession_none _ q refused))
  · have runs := (sessionOpen_runs accepts long).trans
      (congrArg Host.Outcome.next (State.openSession_eq (s.unpick k c) q agreed))
    have nonce := s.entropyBytes_length 32
    have length := sessionReply_length (buffer 128) (Config.ephemeralPublic s.keyNumber) nonce
    refine ⟨(s.unpick k c).opened e z, (s.entropyBytes 32).1, runs, nonce, rfl, rfl, ?_, ?_⟩
    · exact State.hostBytes_hostWrite_apart _ (.inr (Nat.le_refl _))
    · rw [List.take_of_length_le (Nat.le_of_eq length)]
      have written := State.hostBytes_hostWrite_same { (s.unpick k c).entropyBytes 32 |>.2 with
        keyNumber := s.keyNumber + 1,
        session := some ⟨Config.hkdf z (s.entropyBytes 32).1 sessionInfo, (s.entropyBytes 32).1, none⟩ } (e.addr.toNat + 128)
        (sessionReply (buffer 128) (Config.ephemeralPublic s.keyNumber) (s.entropyBytes 32).1)
      rw [length] at written
      exact written
  · exact ideKey_refused accepts long shut
  · obtain ⟨ide, partitions⟩ := (s.unpick k c).installKeys_ide z plain
    refine ⟨_, ideKey_runs accepts long opens set_, ?_, ?_, ?_, ?_, ?_, partitions⟩
    · rw [ide]; rfl
    · rw [ide]; rfl
    · rw [ide]; rfl
    · rw [ide]; rfl
    · rw [ide]
      exact (Sparse.get?_set _ _ _ _).trans (if_pos rfl)
  · have runs := fwUpdate_runs accepts
    rw [(s.fwFault_eq_none_iff _).2 verifies] at runs
    obtain ⟨slot, image, other⟩ := (s.unpick k c).installFirmware_spec (buffer e.len.toNat)
    exact ⟨_, runs, slot, image, other, rfl, rfl⟩
  · have runs := fwUpdate_runs accepts
    cases fault : s.fwFault (s.hostBytes q.entry.addr.toNat q.entry.len.toNat) with
    | none => exact absurd ((s.fwFault_eq_none_iff _).1 fault) (by rw [fails]; exact Bool.false_ne_true)
    | some d =>
      rw [fault] at runs
      obtain ⟨least, most⟩ := State.fwFault_range fault
      exact ⟨d, least, most, runs⟩
  · exact (debugUnlock_runs accepts long).trans (congrArg Host.Outcome.next (if_neg (by rw [false_]; exact Bool.false_ne_true)))
  · have runs := (debugUnlock_runs accepts long).trans (congrArg Host.Outcome.next (if_pos valid))
    rw [State.unlockDebug_eq] at runs
    obtain ⟨down, held⟩ := State.destroyAll_spec (some (k, c.order)) s.partitions (s.unpick k c) (fun p x found => .inr found)
    have only := State.jobsOnly_destroyAll (some (k, c.order)) s.partitions (s.unpick k c)
    obtain ⟨session, ide, partitions⟩ := ((s.unpick k c).unlocking q c).openDebug_frame
    refine ⟨_, runs, session, ide, fun p x found => down p x ?_, fun empty => ?_, fun some_ => ?_⟩
    · exact (congrArg (fun l => Sparse.get? l p) partitions).symm.trans found
    · refine State.openDebug_of_none (k := k) (e := e) rfl ?_
      change (s.partitions.foldl _ (s.unpick k c)).partitions = []
      rw [empty]
      exact empty
    · have stands : ((s.unpick k c).unlocking q c).partitions ≠ [] := by
        intro none_
        cases list : s.partitions with
        | nil => exact some_ list
        | cons a l =>
          have found : (s.partition? a.1).isSome = true := by
            simp [State.partition?, Sparse.get?, list]
          have found' := held a.1 found
          rw [show (s.partitions.foldl _ (s.unpick k c)).partition? a.1 = none from
            congrArg (fun l => Sparse.get? l a.1) none_] at found'
          exact absurd found' Bool.false_ne_true
      rw [State.openDebug_of_some (k := k) (e := e) rfl stands]
      exact ⟨(congrArg State.debugOpen only :), rfl⟩

end Sys2Proof.Machine
end

section
/-! PROOFS. What the hub serves, and the table phase of a step. -/

namespace Sys2Proof.Machine

/-! ### What the hub serves -/

/-- A partition with its share of the link counted anew. -/
def Partition.servedTo (x : Partition) (n : Nat × Nat) : Partition := { x with hostServed := n }

/-- `t` is `s` but for the turns of the link and for what each partition has been served. -/
structure State.Served (s t : State) : Prop where
  link : s.LinkOnly t
  partitions : ∀ r, ∃ n, t.partition? r = (s.partition? r).map (·.servedTo n)

theorem State.Served.refl (s : State) : s.Served s := by
  refine ⟨.refl s, fun r => ?_⟩
  cases found : s.partition? r with
  | none => exact ⟨(0, 0), rfl⟩
  | some x => exact ⟨x.hostServed, rfl⟩

theorem State.Served.trans {s t u : State} (h : s.Served t) (g : t.Served u) : s.Served u := by
  refine ⟨h.link.trans g.link, fun r => ?_⟩
  obtain ⟨n, before⟩ := h.partitions r
  obtain ⟨m, after⟩ := g.partitions r
  refine ⟨m, ?_⟩
  rw [after, before]
  cases s.partition? r <;> rfl

/-- One partition's own share counted besides. -/
theorem State.Served.setPartition {s t : State} (h : s.Served t) {p : Nat} {x : Partition} (found : s.partition? p = some x)
    (out : Bool) (n : Nat) : s.Served (t.setPartition p (x.withServed out n)) := by
  refine ⟨h.link.trans (t.linkOnly_setPartition p _), fun r => ?_⟩
  by_cases here : r = p
  · refine ⟨(x.withServed out n).hostServed, ?_⟩
    rw [State.partition?_setPartition, if_pos here, here, found]
    rfl
  · obtain ⟨m, same⟩ := h.partitions r
    exact ⟨m, (State.partition?_setPartition t p r _).trans ((if_neg here).trans same)⟩

/-- Each transfer that the hub serves leaves the partitions as they were, but for what each was served. -/
theorem State.served_hubServe {s u : State} {p units : Nat} {out : Bool} (serves : s.hubServe p out units = some u) :
    s.Served u := by
  unfold State.hubServe at serves
  split at serves
  · cases serves
  split at serves
  · cases serves
    exact .refl s
  next x found =>
    dsimp only at serves
    split at serves
    · cases serves
      exact (State.Served.refl s).setPartition found out _
    split at serves
    · cases serves
    next turn lines _ =>
      cases serves
      have turned : s.Served (if out then { s with hubOut := turn } else { s with hubIn := turn }) := by
        refine ⟨by split <;> rfl, fun r => ?_⟩
        obtain ⟨n, same⟩ := (State.Served.refl s).partitions r
        exact ⟨n, by rw [← same]; split <;> rfl⟩
      generalize (if out then ({ s with hubOut := turn } : State) else { s with hubIn := turn }) = t at turned
      have shared (l : List HubLine) (t : State) (stands : s.Served t) :
          s.Served (l.foldl (fun (t : State) (l : HubLine) =>
            match t.partition? l.part with
            | some y => if l.part = p then t else t.setPartition l.part (y.withServed out (y.served out + l.got))
            | none => t) t) := by
        induction l generalizing t with
        | nil => exact stands
        | cons a l ih =>
          rw [List.foldl_cons]
          refine ih _ (stands.trans ?_)
          split
          next y listed =>
            split
            · exact .refl t
            · exact (State.Served.refl t).setPartition listed out _
          next => exact .refl t
      exact (shared lines t turned).setPartition found out _

/-! ### The table phase -/

/-- What a phase writes into the lists reaches the span alone. -/
theorem State.counted_writeLists (s : State) (p c : Nat) (g : SeqConfig) (n : Nat) (old new : SMap SeqRec) :
    State.Counted p s (s.writeLists p c g n old new) := by
  unfold State.writeLists State.writeList foldRange
  refine State.Counted.foldl (fun t i => ?_) _ s
  refine State.Counted.foldl (fun t j => ?_) _ t
  split
  · exact .refl p t
  · exact t.counted_writeSpanBytes p c _ _

theorem State.hostOnly_postSeq (s : State) (p : Nat) (y : SeqPost) : s.HostOnly (s.postSeq p y) := by
  cases y with
  | event e => exact s.hostOnly_postEvent (p + 1) e
  | done h st result =>
    unfold State.postSeq
    dsimp only
    split
    · exact s.hostOnly_finish h.ring _ st 0 result
    · exact .refl s

theorem Partition.mapDies_run (x : Partition) (f : Nat → Die → Die) : (x.mapDies f).run = x.run :=
  (congrArg Partition.run (x.mapDies_frame f) :)

/-- The context as a phase leaves it, before the writes of its lists. -/
def Context.phased (v : Context) (now : Nat) (t : TableWork) (kept : List (List Nat)) : Context :=
  { v with
    seq := { t.seq with
      copies := t.seq.copies.map (fun y => { y with
        since := if v.seq.copies.contains y then y.since else now,
        awaited := y.awaited || (y.toHost && (t.newFrames.map (·.1)).contains (y.stack, y.frame)) })
      work := (t.workList kept).flatten, first := false, phaseStep := some v.step, waiting := true
      fills := (t.newFrames.filter (fun f => !f.2)).map (·.1) }
    heldSeq := v.heldSeq.filter (fun h => paramAt h.entry (if h.isAdmit then 2 else 3) > v.step), blockedSince := now }

theorem State.applyPhase_spec (s : State) (p c : Nat) (x : Partition) (v : Context) (q : Pattern) (t : TableWork)
    (kept : List (List Nat)) :
    ∃ y w, (s.applyPhase p c x v q t kept).partition? p = some y ∧ y.context? c = some w ∧
      (v.phased s.time t kept).Counted w ∧ y.swapNumber = t.swapNumber ∧ y.run = x.run := by
  unfold State.applyPhase
  dsimp only
  have run := x.mapDies_run (fun d y => y.tablePhase (q.die d) t.cfg (t.workBytes (t.workList kept)) (batches (t.workList kept)))
  generalize x.mapDies (fun d y => y.tablePhase (q.die d) t.cfg (t.workBytes (t.workList kept)) (batches (t.workList kept))) = z at run ⊢
  have written := State.counted_writeLists (s.setPartition p { z.setContext c (v.phased s.time t kept) with
    swapNumber := t.swapNumber }) p c t.cfg t.nStacks v.seq.entries t.seq.entries
  obtain ⟨y, there, counted⟩ := written.own _ ((State.partition?_setPartition s p p _).trans (if_pos rfl))
  obtain ⟨w, context, counted'⟩ := counted.contexts c (v.phased s.time t kept)
    ((Partition.context?_setContext z c c _).trans (if_pos rfl))
  refine ⟨y, w, ?_, context, counted', (congrArg Partition.swapNumber counted.frame :),
    (congrArg Partition.run counted.frame :).trans run⟩
  exact ((State.HostOnly.foldl (fun u y => u.hostOnly_postSeq p y) t.posts _).partition? p).trans there

theorem tablePhase_runs {s : State} {p : PartId} {x : Partition} {c : Nat} {v : Context} {q : Pattern} {g : SeqConfig}
    (found : s.partition? p = some x) (runs : x.running? = some (c, v)) (pattern : v.pattern = some q)
    (table : (q.die 0).seqCfg = some g) (boundary : x.run.phase ≠ .round) (held : x.run.holds.contains .tablePhase = true)
    (commanded : v.steps ≠ none) (idle : v.seq.waiting = false) (fresh : v.seq.phaseStep ≠ some v.step)
    (whole : x.run.restartAt = none) :
    exec (.tablePhase p) s = match x.phaseWork v g v.step with
      | none => .next (s.softFault p .faultStepReport 0)
      | some (t, kept) => .next (s.applyPhase p c x v q t kept) := by
  change execTablePhase p s = _
  rw [execTablePhase, found]
  dsimp only
  rw [runs]
  dsimp only
  rw [pattern]
  dsimp only
  rw [table]
  refine if_neg ?_
  simp only [not_or, boundary, held, idle, fresh, whole, not_false_eq_true, not_true_eq_false, Bool.false_eq_true,
    Option.isSome_none, Option.isNone_iff_eq_none, commanded, and_true]

/-- A zero-fill of new frames reaches the span alone. -/
theorem State.counted_fills (s : State) (p c : Nat) (g : SeqConfig) (l : List (Nat × Nat)) :
    State.Counted p s (l.foldl (fun s f => s.writeSpanBytes p c (stackAddress f.1 (g.frameUnit f.2)) (zeroBytes g.frameBytes)) s) := by
  refine State.Counted.foldl (fun t f => ?_) l s
  exact t.counted_writeSpanBytes p c _ _

theorem tablePhaseComplete_runs {s : State} {p : PartId} {x : Partition} {c : Nat} {v : Context} {g : SeqConfig}
    (found : s.partition? p = some x) (runs : x.running? = some (c, v))
    (table : v.pattern.bind (fun q => (q.die 0).seqCfg) = some g) (waits : v.seq.waiting = true)
    (copied : ∀ y ∈ v.seq.copies, y.awaited = false) :
    exec (.tablePhaseComplete p) s = .next ((v.seq.fills.foldl (fun s f => s.writeSpanBytes p c
      (stackAddress f.1 (g.frameUnit f.2)) (zeroBytes g.frameBytes)) (s.setPartition p (x.setContext c { v with
        seq := { v.seq with waiting := false, fills := [] } }))).releaseRound p .tablePhase) := by
  change execTablePhaseComplete p s = _
  rw [execTablePhaseComplete, found]
  dsimp only
  rw [runs]
  dsimp only
  rw [table]
  refine if_neg (not_or.2 ⟨not_not_intro waits, ?_⟩)
  simpa using copied

theorem tablePhaseComplete_spec {s : State} {p : PartId} {x : Partition} {c : Nat} {v : Context} {g : SeqConfig}
    (found : s.partition? p = some x) (runs : x.running? = some (c, v))
    (table : v.pattern.bind (fun q => (q.die 0).seqCfg) = some g) (waits : v.seq.waiting = true)
    (copied : ∀ y ∈ v.seq.copies, y.awaited = false) :
    ∃ t y w, exec (.tablePhaseComplete p) s = .next t ∧ t.partition? p = some y ∧ y.context? c = some w ∧
      w.seq.waiting = false ∧ w.seq.fills = [] ∧ HoldReason.tablePhase ∉ y.run.holds := by
  have set_ := (State.partition?_setPartition s p p (x.setContext c { v with seq := { v.seq with waiting := false, fills := [] } })).trans
    (if_pos rfl)
  obtain ⟨y, there, counted⟩ := (State.counted_fills _ p c g v.seq.fills).own _ set_
  obtain ⟨w, context, counted'⟩ := counted.contexts c { v with seq := { v.seq with waiting := false, fills := [] } }
    ((Partition.context?_setContext x c c _).trans (if_pos rfl))
  have released := (State.releaseRound_partition? (v.seq.fills.foldl (fun s f => s.writeSpanBytes p c
    (stackAddress f.1 (g.frameUnit f.2)) (zeroBytes g.frameBytes)) (s.setPartition p (x.setContext c { v with
      seq := { v.seq with waiting := false, fills := [] } }))) p p .tablePhase).trans (if_pos rfl)
  rw [there, Option.map_some] at released
  exact ⟨_, _, w, tablePhaseComplete_runs found runs table waits copied, released, context,
    (congrArg (fun u : Context => u.seq.waiting) counted' :), (congrArg (fun u : Context => u.seq.fills) counted' :),
    released_releaseRound_self _ .tablePhase p _ released⟩

/-! ### Swap copies -/

/-- A software fault ends the running job. -/
theorem State.softFault_partition? {s : State} {p : Nat} {x : Partition} {c : Nat} (found : s.partition? p = some x)
    (runs : x.running = some c) (st : Status) (detail r : Nat) :
    (s.softFault p st detail).partition? r =
      if r = p then some (x.jobEnded c .lost true s.time) else s.partition? r := by
  unfold State.softFault
  rw [found]
  dsimp only
  rw [runs]
  dsimp only
  rw [State.endJob_partition?, found, Option.map_some]

/-- What the hub writes into a host slot stays in host memory. -/
theorem State.hostOnly_sealFrame (s : State) (p key : Nat) (w : Nat × Nat) (g : SeqConfig) (y : SwapCopy) (data : List Byte) :
    s.HostOnly (s.sealFrame p key w g y data) := by
  unfold State.sealFrame foldRange
  refine State.HostOnly.foldl (fun t k => ?_) _ s
  exact (t.hostOnly_hostWrite _ _).trans (State.hostOnly_hostWrite _ _ _)

/-- A frame that goes out: its context stands, and the hub remembers what it sealed. -/
theorem State.copyOut_spec {s : State} {p : Nat} {x : Partition} {c : Nat} {v : Context} (found : s.partition? p = some x)
    (context : x.context? c = some v) (g : SeqConfig) (w : Nat × Nat) (key : Nat) (y : SwapCopy) :
    ∃ z u data, (s.copyOut p c g w key y).partition? p = some z ∧ z.context? c = some u ∧ v.Counted u ∧
      Sparse.get? z.swapped y.number = some data := by
  have read := s.counted_spanBytes p c (stackAddress y.stack (g.frameUnit y.frame)) g.frameBytes
  obtain ⟨z, there, counted⟩ := read.own x found
  obtain ⟨u, context', counted'⟩ := counted.contexts c v context
  unfold State.copyOut
  dsimp only
  rw [there]
  dsimp only
  refine ⟨_, u, (s.spanBytes p c (stackAddress y.stack (g.frameUnit y.frame)) g.frameBytes).1, ((State.hostOnly_sealFrame _ p key w g y _).partition? p).trans
    ((State.partition?_setPartition _ p p _).trans (if_pos rfl)), context', counted', ?_⟩
  exact (Sparse.get?_set _ _ _ _).trans (if_pos rfl)

/-- A frame that comes back. -/
theorem State.copyBack_opened {s : State} {p : Nat} {x : Partition} {c : Nat} {v : Context} {g : SeqConfig} {w : Nat × Nat}
    {key : Nat} {y : SwapCopy} {data : List Byte} (found : s.partition? p = some x) (context : x.context? c = some v)
    (opens : s.openFrame p key w g y ((Sparse.get? x.swapped y.number).getD []) = some data) :
    ∃ z u, (s.copyBack p c g w key y).partition? p = some z ∧ z.context? c = some u ∧ v.Counted u ∧
      Sparse.get? z.swapped y.number = none := by
  unfold State.copyBack
  dsimp only
  rw [found, Option.bind_some, opens]
  dsimp only
  have written := State.counted_writeSpanBytes (s.setPartition p { x with swapped := Sparse.erase x.swapped y.number }) p c
    (stackAddress y.stack (g.frameUnit y.frame)) data
  obtain ⟨z, there, counted⟩ := written.own _ ((State.partition?_setPartition s p p _).trans (if_pos rfl))
  obtain ⟨u, context', counted'⟩ := counted.contexts c v context
  refine ⟨z, u, there, context', counted', ?_⟩
  rw [show z.swapped = Sparse.erase x.swapped y.number from (congrArg Partition.swapped counted.frame :)]
  exact (Sparse.get?_erase _ _ _).trans (if_pos rfl)

/-- A frame whose tag fails: the running job ends. -/
theorem State.copyBack_failed {s : State} {p : Nat} {x : Partition} {c : Nat} {v : Context} {g : SeqConfig} {w : Nat × Nat}
    {key : Nat} {y : SwapCopy} (found : s.partition? p = some x) (runs : x.running = some c) (context : x.context? c = some v)
    (shut : s.openFrame p key w g y ((Sparse.get? x.swapped y.number).getD []) = none) :
    ∃ z u, (s.copyBack p c g w key y).partition? p = some z ∧ z.context? c = some u ∧ u.pattern = none := by
  unfold State.copyBack
  dsimp only
  rw [found, Option.bind_some, shut]
  dsimp only
  refine ⟨_, v.ended .lost true s.time, (State.softFault_partition? found runs _ _ p).trans (if_pos rfl), ?_,
    (v.ended_spec .lost true s.time).1⟩
  rw [Partition.context?_jobEnded, if_pos rfl, context, Option.map_some]

theorem State.openFrame_congr {s t : State} (same : s.hostMem = t.hostMem) (p key : Nat) (w : Nat × Nat) (g : SeqConfig)
    (y : SwapCopy) (plain : List Byte) : s.openFrame p key w g y plain = t.openFrame p key w g y plain := by
  simp only [State.openFrame, State.hostBytes_congr same]

/-- The state in which the hub has served a copy and taken it off the list. -/
def State.copying (u : State) (p c : Nat) (y : Partition) (v : Context) (g : SeqConfig) (z : SwapCopy) : State :=
  u.setPartition p ((y.setContext c { v with seq := v.seq.copied z u.time }).count c Sys2Proof.Machine.hostBytes g.copyBytes)

theorem State.copying_spec (u : State) (p c : Nat) (y : Partition) (v : Context) (g : SeqConfig) (z : SwapCopy) :
    ∃ x w, (u.copying p c y v g z).partition? p = some x ∧ x.context? c = some w ∧
      ({ v with seq := v.seq.copied z u.time } : Context).Counted w ∧ x.swapped = y.swapped ∧ x.running = y.running := by
  have counted := (y.setContext c { v with seq := v.seq.copied z u.time }).counted_count c Sys2Proof.Machine.hostBytes g.copyBytes
  obtain ⟨w, context, counted'⟩ := counted.contexts c _ ((Partition.context?_setContext y c c _).trans (if_pos rfl))
  exact ⟨_, w, (State.partition?_setPartition u p p _).trans (if_pos rfl), context, counted',
    (congrArg Partition.swapped counted.frame :), (congrArg Partition.running counted.frame :)⟩

section
variable {s u : State} {p : PartId} {x y : Partition} {c : Nat} {v : Context} {g : SeqConfig} {z : SwapCopy}
  {window : Nat × Nat} {key : Nat}

theorem swapCopyComplete_runs (found : s.partition? p = some x) (runs : x.running? = some (c, v))
    (table : v.pattern.bind (fun q => (q.die 0).seqCfg) = some g) (next_ : v.seq.nextCopy = some z)
    (granted : v.seq.window = some window) (keyed : x.swapKey = some key)
    (served : s.remoteReady p (stackAddress z.stack (g.frameUnit z.frame)) g.frameBytes = true)
    (serves : s.hubServe p z.toHost (hubUnits g.copyBytes) = some u) (there : u.partition? p = some y) :
    exec (.swapCopyComplete p true) s = .next (if z.toHost then (u.copying p c y v g z).copyOut p c g window key z
      else (u.copying p c y v g z).copyBack p c g window key z) := by
  change execSwapCopyComplete p true s = _
  rw [execSwapCopyComplete, found, Option.filter_some_pos rfl]
  dsimp only
  rw [runs]
  dsimp only
  rw [table, next_, granted, keyed]
  dsimp only
  rw [if_neg (not_not_intro served), serves]
  dsimp only
  rw [there]
  rfl

end

/-- Settles O54, the phase and its copies through what the writes of a span leave of their context. -/
theorem tablePhasesRun : Obligations.TablePhasesRun := by
  unfold Obligations.TablePhasesRun
  intro s p x c v q g found runs pattern table
  have table' : v.pattern.bind (fun q => (q.die 0).seqCfg) = some g := by rw [pattern]; exact table
  obtain ⟨running, context⟩ := (Partition.running?_eq_some_iff x c v).1 runs
  refine ⟨fun boundary held commanded idle fresh whole => ?_, fun waits copied =>
    tablePhaseComplete_spec found runs table' waits copied, fun z window key u next_ granted keyed ready serves => ?_, ?_,
      fun late => ?_⟩
  · have phase := tablePhase_runs found runs pattern table boundary held commanded idle fresh whole
    refine ⟨fun bad => ?_, fun work kept good => ?_⟩
    · rw [bad] at phase
      exact phase
    · rw [good] at phase
      obtain ⟨y, w, there, context', counted, swapNumber, run⟩ := s.applyPhase_spec p c x v q work kept
      have seq : w.seq = (v.phased s.time work kept).seq := (congrArg Context.seq counted :)
      refine ⟨_, y, w, phase, there, context', ?_, ?_, ?_, ?_, ?_, (congrArg Context.heldSeq counted :), swapNumber, run⟩
      all_goals rw [seq]; rfl
  · dsimp only
    obtain ⟨link, partitions⟩ := State.served_hubServe serves
    obtain ⟨n, there⟩ := partitions p
    rw [found, Option.map_some] at there
    have completes := swapCopyComplete_runs found runs table' next_ granted keyed ready serves there
    obtain ⟨y, w, stands, context', counted, swapped, running'⟩ := u.copying_spec p c (x.servedTo n) v g z
    have time : u.time = s.time := (congrArg State.time link :)
    have copies (w' : Context) (h : w.Counted w') :
        w'.seq.copies = (v.seq.copies.erase z).map (fun y => { y with since := s.time }) := by
      rw [← time]
      exact (congrArg (fun w : Context => w.seq.copies) (counted.trans h) :)
    have opened : (u.copying p c (x.servedTo n) v g z).openFrame p key window g z ((Sparse.get? y.swapped z.number).getD []) =
        s.openFrame p key window g z ((Sparse.get? x.swapped z.number).getD []) := by
      rw [swapped]
      exact State.openFrame_congr (congrArg State.hostMem link :) p key window g z _
    refine ⟨fun out => ?_, fun back data opens => ?_, fun back shut => ?_⟩
    · rw [if_pos out] at completes
      obtain ⟨y', w', data, stands', context'', counted', noted⟩ := State.copyOut_spec stands context' g window key z
      exact ⟨_, y', w', data, completes, stands', ⟨context'', copies w' counted'⟩, noted⟩
    · rw [if_neg (by rw [back]; exact Bool.false_ne_true)] at completes
      obtain ⟨y', w', stands', context'', counted', gone⟩ := State.copyBack_opened stands context' (opened.trans opens)
      exact ⟨_, y', w', completes, stands', ⟨context'', copies w' counted'⟩, gone⟩
    · rw [if_neg (by rw [back]; exact Bool.false_ne_true)] at completes
      obtain ⟨y', w', stands', context'', none_⟩ := State.copyBack_failed stands (running'.trans running) context'
        (opened.trans shut)
      exact ⟨_, y', w', completes, stands', context'', none_⟩
  · change execSwapCopyComplete p false s = _
    rw [execSwapCopyComplete, found]
    rfl
  · change execSwapTimeout p s = _
    rw [execSwapTimeout, found]
    dsimp only
    rw [runs]
    refine if_pos (List.any_eq_true.2 ?_)
    obtain ⟨y, listed, old⟩ := late
    exact ⟨y, listed, decide_eq_true old⟩

end Sys2Proof.Machine
end

section
/-! PROOFS. The switch of contexts at a round boundary, and the end of a checkpoint. -/

namespace Sys2Proof.Machine

/-! ### Save and restore -/

/-- The context that is saved: its slot holds the dies and the tether network, its pattern and its step stand. -/
theorem State.saveRunning_spec {s : State} {p : Nat} {x : Partition} (found : s.partition? p = some x) :
    ∃ y, (s.saveRunning p).partition? p = some y ∧ y.run = x.run ∧
      (∀ c v, x.context? c = some v → ∃ w, y.context? c = some w ∧ w.pattern = v.pattern ∧ w.step = v.step) ∧
      ∀ c v, x.running? = some (c, v) → ∃ w saved, y.context? c = some w ∧ w.saved = some saved ∧ saved.dies = x.dies ∧
        saved.tether = x.tether ∧ w.pattern = v.pattern ∧ w.step = v.step := by
  unfold State.saveRunning
  rw [found]
  dsimp only
  split
  next idle =>
    exact ⟨x, found, rfl, fun c v held => ⟨v, held, rfl, rfl⟩, fun c v runs => absurd (idle.symm.trans runs) (Option.some_ne_none _).symm⟩
  next c v runs =>
    obtain ⟨-, own⟩ := (Partition.running?_eq_some_iff x c v).1 runs
    have contexts (m : Nat) (w : Context) : (x.setContext c w).context? m = if m = c then some w else x.context? m :=
      Partition.context?_setContext x c m w
    refine ⟨_, (State.partition?_setPartition s p p _).trans (if_pos rfl), rfl, fun m u held => ?_, fun m u runs' => ?_⟩
    · by_cases same : m = c
      · rw [same, own] at held
        cases held
        exact ⟨_, (contexts m _).trans (if_pos same), rfl, rfl⟩
      · exact ⟨u, (contexts m _).trans ((if_neg same).trans held), rfl, rfl⟩
    · rw [runs] at runs'
      cases runs'
      exact ⟨_, _, (contexts c _).trans (if_pos rfl), rfl, rfl, rfl, rfl, rfl⟩

theorem Partition.restore_contexts (x : Partition) (z : Saved) : (x.restore z).contexts = x.contexts :=
  (congrArg Partition.contexts (x.mapDies_frame _) :)

/-- The context that is restored runs, and its slot is empty again; every other context stands. -/
theorem State.restoreContext_spec {s : State} {p : Nat} {x : Partition} {c : Nat} {v : Context} (found : s.partition? p = some x)
    (held : x.context? c = some v) :
    ∃ y, (s.restoreContext p c).partition? p = some y ∧ y.running = some c ∧ y.lastIn = some c ∧
      ∀ m, y.context? m = if m = c then some { v with saved := none } else x.context? m := by
  unfold State.restoreContext
  rw [found]
  dsimp only
  rw [held]
  refine ⟨_, (State.partition?_setPartition _ p p _).trans (if_pos rfl), rfl, rfl, fun m => ?_⟩
  refine (Partition.context?_setContext (x.restore (v.saved.getD Saved.zeroed)) c m { v with saved := none }).trans ?_
  rw [show (x.restore (v.saved.getD Saved.zeroed)).context? m = x.context? m from
    congrArg (Sparse.get? · m) (x.restore_contexts _)]

/-! ### Switching -/

/-- The state after a switch to context `c`. -/
def State.switched (s : State) (p c : Nat) : State := ((s.saveRunning p).restoreContext p c).releaseRound p .switch

theorem State.switched_spec {s : State} {p : Nat} {z : Partition} {c : Nat} {v : Context} (found : s.partition? p = some z)
    (held : z.context? c = some v) :
    ∃ y w, (s.switched p c).partition? p = some y ∧ y.running = some c ∧ y.lastIn = some c ∧ HoldReason.switch ∉ y.run.holds ∧
      y.context? c = some w ∧ w.saved = none ∧ w.pattern = v.pattern ∧ w.step = v.step ∧
      ∀ o a, z.running = some o → o ≠ c → z.context? o = some a → ∃ b saved, y.context? o = some b ∧ b.saved = some saved ∧
        saved.dies = z.dies ∧ saved.tether = z.tether ∧ b.pattern = a.pattern ∧ b.step = a.step := by
  obtain ⟨y, saved, -, kept, own⟩ := State.saveRunning_spec found
  obtain ⟨w, held', pattern, step⟩ := kept c v held
  obtain ⟨x, restored, running, lastIn, contexts⟩ := State.restoreContext_spec saved held'
  have released := (State.releaseRound_partition? ((s.saveRunning p).restoreContext p c) p p .switch).trans (if_pos rfl)
  rw [restored, Option.map_some] at released
  refine ⟨_, { w with saved := none }, released, running, lastIn, released_releaseRound_self _ .switch p _ released,
    (contexts c).trans (if_pos rfl), rfl, pattern, step, fun o a runs other there => ?_⟩
  obtain ⟨b, slot, held'', saved', dies, tether, pattern', step'⟩ := own o a ((Partition.running?_eq_some_iff z o a).2 ⟨runs, there⟩)
  exact ⟨b, slot, (contexts o).trans ((if_neg other).trans held''), saved', dies, tether, pattern', step'⟩

section
variable {s : State} {p : PartId} {x : Partition}

theorem contextSwitch_runs (found : s.partition? p = some x) (live : x.teardown = false) (due : s.switchDue x = true)
    (open_ : s.switchBarred p x = false) (boundary : x.atBoundary = true) :
    exec (.contextSwitch p) s = if ¬ x.run.holds.contains .switch then .next (s.holdRound p .switch)
      else if ¬ s.frozen p ∨ ¬ s.maySave p x then .next s
      else
        match (s.settle p x).partition? p with
        | none => .next (s.settle p x)
        | some y =>
          if x.upset y then .next (s.settle p x)
          else match y.incoming with
            | none => .next (s.settle p x)
            | some (c, _) =>
              match ((s.settle p x).switched p c).partition? p with
              | none => .next ((s.settle p x).switched p c)
              | some y => .next (((s.settle p x).switched p c).setPartition p (y.count c contextSwitches 1)) := by
  change execContextSwitch p s = _
  rw [execContextSwitch, found]
  refine if_neg ?_
  simp only [live, due, open_, boundary, Bool.false_eq_true, not_true_eq_false, or_self, not_false_eq_true]

theorem contextSwitch_saves (found : s.partition? p = some x) (live : x.teardown = false) (due : s.switchDue x = true)
    (open_ : s.switchBarred p x = false) (boundary : x.atBoundary = true) (held : HoldReason.switch ∈ x.run.holds)
    (frozen : s.frozen p = true) (may : s.maySave p x = true) {z : Partition} (settled : (s.settle p x).partition? p = some z)
    (calm : x.upset z = false) {c : Nat} {v : Context} (incoming : z.incoming = some (c, v)) {y : Partition}
    (there : ((s.settle p x).switched p c).partition? p = some y) :
    exec (.contextSwitch p) s = .next (((s.settle p x).switched p c).setPartition p (y.count c contextSwitches 1)) := by
  rw [contextSwitch_runs found live due open_ boundary, if_neg (not_not_intro (List.contains_iff_mem.2 held)),
    if_neg (not_or.2 ⟨not_not_intro frozen, not_not_intro may⟩), settled]
  dsimp only
  rw [if_neg (by rw [calm]; exact Bool.false_ne_true), incoming]
  dsimp only
  rw [there]

end

/-! ### Checkpoints -/

theorem State.counted_flushRims (s : State) (p : Nat) (x : Partition) (lo n : Nat) : State.Counted p s (s.flushRims x lo n) := by
  unfold State.flushRims
  refine State.Counted.foldl (fun t k => ?_) _ s
  exact t.counted_setRim p k _

/-- A mirror reaches the span and the rims alone. -/
theorem State.counted_mirror (s : State) (p c count from_ to_ n : Nat) : State.Counted p s (s.mirror p c count from_ to_ n) := by
  unfold State.mirror foldRange
  dsimp only
  refine State.Counted.trans ?_ (State.Counted.foldl (fun t i => ?_) _ _)
  · split
    · split
      · exact s.counted_flushRims p _ _ _
      · exact .refl p s
    · exact .refl p s
  · exact (t.counted_spanBytes p c _ _).trans (State.counted_writeSpanBytes _ p c _ _)

theorem State.counted_mirrorData (s : State) (p c count at_ n : Nat) : State.Counted p s (s.mirrorData p c count at_ n).2 := by
  unfold State.mirrorData foldRange
  dsimp only
  have step (l : List Nat) (acc : List Byte × State) : State.Counted p acc.2 (l.foldl (fun acc i =>
      (acc.1 ++ (acc.2.spanBytes p c (64 * i * stackUnits + at_) n).1, (acc.2.spanBytes p c (64 * i * stackUnits + at_) n).2)) acc).2 := by
    induction l generalizing acc with
    | nil => exact .refl p acc.2
    | cons i l ih =>
      rw [List.foldl_cons]
      refine State.Counted.trans ?_ (ih _)
      exact acc.2.counted_spanBytes p c _ n
  exact step _ ([], s)

/-- The number that one of the parts of a list holds. -/
theorem field_flatten {parts : List (List Byte)} {i n v : Nat} (part : parts[i]? = some (leBytes n v)) :
    field parts.flatten (parts.take i).flatten.length n = v % 2 ^ (8 * n) := by
  obtain ⟨within, part⟩ := List.getElem?_eq_some_iff.1 part
  have cut : parts.flatten = (parts.take i).flatten ++ (leBytes n v ++ (parts.drop (i + 1)).flatten) := by
    conv_lhs => rw [← List.take_append_drop i parts, List.drop_eq_getElem_cons within, part]
    rw [List.flatten_append, List.flatten_cons]
  rw [field, slice, cut, List.drop_left, List.take_left' (leBytes_length n v), leNat_leBytes, Nat.pow_mul]

/-- The parts of a checkpoint's header (R458). -/
def State.checkpointParts (s : State) (count n : Nat) (v : Context) (data : List Byte) : List (List Byte) :=
  [leBytes 4 0x47434B31, leBytes 1 (field s.runningImage 4 1), leBytes 1 count, zeroBytes 2, leBytes 8 v.step, leBytes 8 n,
    leBytes 32 s.features.toNat, leBytes 48 ((v.pattern.map (fun q => q.hash.toNat)).getD 0),
    leBytes 48 (Config.sha384 data).toNat, zeroBytes 3944]

theorem State.checkpointHeader_eq (s : State) (count n : Nat) (v : Context) (data : List Byte) :
    s.checkpointHeader count n v data = (s.checkpointParts count n v data).flatten := by
  simp only [State.checkpointHeader, State.checkpointParts, List.flatten_cons, List.flatten_nil, List.append_assoc,
    List.append_nil]

theorem State.checkpointHeader_length (s : State) (count n : Nat) (v : Context) (data : List Byte) :
    (s.checkpointHeader count n v data).length = 4096 := by
  simp only [State.checkpointHeader, List.length_append, leBytes_length, zeroBytes, List.length_replicate]

/-- The number of part `i` of a checkpoint's header, which begins at byte `a`. -/
theorem State.field_checkpointHeader {s : State} {count n : Nat} {v : Context} {data : List Byte} {i m w a : Nat}
    (part : (s.checkpointParts count n v data)[i]? = some (leBytes m w))
    (at_ : ((s.checkpointParts count n v data).take i).flatten.length = a) :
    field (s.checkpointHeader count n v data) a m = w % 2 ^ (8 * m) := by
  rw [State.checkpointHeader_eq, ← at_]
  exact field_flatten part

theorem BitVec.ofNat_mod_toNat {n : Nat} (x : BitVec n) : BitVec.ofNat n (x.toNat % 2 ^ n) = x := by
  rw [Nat.mod_eq_of_lt x.isLt, BitVec.ofNat_toNat, BitVec.setWidth_eq]

/-- The pattern's hash as a header holds it, zeros without one. -/
theorem Context.patternHash_field (v : Context) :
    BitVec.ofNat 384 (((v.pattern.map (fun q => q.hash.toNat)).getD 0) % 2 ^ 384) =
      match v.pattern with
      | some q => q.hash
      | none => 0 := by
  cases v.pattern with
  | none =>
    simp only [Option.map_none, Option.getD_none, Nat.zero_mod]
    rfl
  | some q => exact BitVec.ofNat_mod_toNat q.hash

/-- What a checkpoint's header says of it. -/
theorem State.ofBytes_checkpointHeader (s : State) {count n : Nat} {v : Context} (data : List Byte) (few : count < 2 ^ 8)
    (step : v.step < 2 ^ 64) (size : n < 2 ^ 64) :
    CheckpointHeader.ofBytes (s.checkpointHeader count n v data) =
      ⟨0x47434B31, count, v.step, n, (match v.pattern with | some q => q.hash | none => 0), Config.sha384 data⟩ := by
  have lengths (i a : Nat) (sum : (((s.checkpointParts count n v data).map List.length).take i).sum = a) :
      ((s.checkpointParts count n v data).take i).flatten.length = a := by
    rw [List.length_flatten, List.map_take, sum]
  have sizes : (s.checkpointParts count n v data).map List.length = [4, 1, 1, 2, 8, 8, 32, 48, 48, 3944] := by
    simp only [State.checkpointParts, List.map_cons, List.map_nil, leBytes_length, zeroBytes, List.length_replicate]
  rw [sizes] at lengths
  have magic := State.field_checkpointHeader (i := 0) rfl (lengths 0 0 rfl)
  have stackCount := State.field_checkpointHeader (i := 2) rfl (lengths 2 5 rfl)
  have steps := State.field_checkpointHeader (i := 4) rfl (lengths 4 8 rfl)
  have bytes := State.field_checkpointHeader (i := 5) rfl (lengths 5 16 rfl)
  have pattern := State.field_checkpointHeader (i := 7) rfl (lengths 7 56 rfl)
  have hash := State.field_checkpointHeader (i := 8) rfl (lengths 8 104 rfl)
  rw [CheckpointHeader.ofBytes, magic, stackCount, steps, bytes, pattern, hash, Nat.mod_eq_of_lt few, Nat.mod_eq_of_lt step,
    Nat.mod_eq_of_lt size, show (8 * 48 : Nat) = 384 from rfl, BitVec.ofNat_mod_toNat]
  exact congrArg (fun h => (⟨0x47434B31, count, v.step, n, h, Config.sha384 data⟩ : CheckpointHeader)) v.patternHash_field

theorem paramAt_lt (e : CmdEntry) (i : Nat) : paramAt e i < 2 ^ 32 := (e.param.getD i 0).isLt

theorem paramPair_lt (e : CmdEntry) (i : Nat) : paramPair e i < 2 ^ 64 := by
  have low := paramAt_lt e i
  have high := paramAt_lt e (i + 1)
  rw [paramPair]
  omega

theorem Partition.stackRims_length_lt (x : Partition) : x.stackRims.length < 2 ^ 8 := by
  have few : x.stackRims.length ≤ (List.range 16).length := List.length_filter_le _ _
  rw [List.length_range] at few
  omega

/-- The state in which the header and the mirrors of a checkpoint stand in host memory. -/
def State.checkpointed (s : State) (p c count from_ to_ n at_ : Nat) (v : Context) : State :=
  let data := ((s.mirror p c count from_ to_ n).mirrorData p c count to_ n)
  ((data.2.hostWrite at_ (data.2.checkpointHeader count n v data.1)).hostWrite (at_ + 4096) data.1).countHost p c
    (checkpointBytes count n)

/-- The state in which a checkpoint stands in host memory, with its data. -/
theorem State.checkpointed_spec (s : State) (p c from_ to_ at_ : Nat) {count n : Nat} {v : Context} (few : count < 2 ^ 8)
    (step : v.step < 2 ^ 64) (size : n < 2 ^ 64) :
    ∃ data : List Byte, CheckpointHeader.ofBytes ((s.checkpointed p c count from_ to_ n at_ v).hostBytes at_ 4096) =
        ⟨0x47434B31, count, v.step, n, (match v.pattern with | some q => q.hash | none => 0), Config.sha384 data⟩ ∧
      (s.checkpointed p c count from_ to_ n at_ v).hostBytes (at_ + 4096) data.length = data ∧
      ∀ r, r ≠ p → (s.checkpointed p c count from_ to_ n at_ v).partition? r = s.partition? r := by
  have mirrored := (s.counted_mirror p c count from_ to_ n).trans (State.counted_mirrorData _ p c count to_ n)
  unfold State.checkpointed
  dsimp only
  generalize (s.mirror p c count from_ to_ n).mirrorData p c count to_ n = data at mirrored ⊢
  have host (u : State) : (u.countHost p c (checkpointBytes count n)).hostMem = u.hostMem :=
    (congrArg State.hostMem (u.counted_countHost p c _).frame :)
  refine ⟨data.1, ?_, ?_, fun r other => ?_⟩
  · have written := data.2.hostBytes_hostWrite_same at_ (data.2.checkpointHeader count n v data.1)
    rw [State.checkpointHeader_length] at written
    rw [State.hostBytes_congr (host _), State.hostBytes_hostWrite_apart _ (.inr (Nat.le_refl _)), written]
    exact data.2.ofBytes_checkpointHeader data.1 few step size
  · rw [State.hostBytes_congr (host _)]
    exact State.hostBytes_hostWrite_same _ _ _
  · exact ((State.counted_countHost _ p c _).others r other).trans (mirrored.others r other)

section
variable {s : State} {p : PartId} {x : Partition} {c : Nat} {v : Context} {k : CheckpointState}

/-- The state in which a checkpoint's ranges are mirrored. -/
def State.mirrored (s : State) (p : Nat) (x : Partition) (c : Nat) (k : CheckpointState) : State :=
  s.mirror p c x.stackRims.length (withinStack (paramPair k.entry 0)) (withinStack (paramPair k.entry 4)) (paramPair k.entry 2)

theorem checkpointMirrorComplete_serves (found : s.partition? p = some x) (pending : x.checkpointing = some (c, v, k))
    (live : x.teardown = false) (ready : s.rimsReady x = true) {m : State}
    (serves : s.hubServe p true (hubUnits (checkpointBytes x.stackRims.length (paramPair k.entry 2))) = some m) :
    exec (.checkpointMirrorComplete p true) s = .next ((m.checkpointed p c x.stackRims.length
      (withinStack (paramPair k.entry 0)) (withinStack (paramPair k.entry 4)) (paramPair k.entry 2) k.entry.addr.toNat v).endCheckpoint
        p c k .ok [BitVec.ofNat 32 (x.stackRims.length * paramPair k.entry 2),
          BitVec.ofNat 32 (x.stackRims.length * paramPair k.entry 2 / 2 ^ 32)]) := by
  change execCheckpointMirrorComplete p true s = _
  rw [execCheckpointMirrorComplete, found]
  dsimp only
  rw [pending]
  dsimp only
  rw [if_neg (by simp [live, ready]), if_neg (not_not_intro rfl), serves]
  rfl

theorem checkpointMirrorComplete_fails (found : s.partition? p = some x) (pending : x.checkpointing = some (c, v, k))
    (live : x.teardown = false) (ready : s.rimsReady x = true) :
    exec (.checkpointMirrorComplete p false) s = .next ((s.mirrored p x c k).endCheckpoint p c k .hostAccess []) := by
  change execCheckpointMirrorComplete p false s = _
  rw [execCheckpointMirrorComplete, found]
  dsimp only
  rw [pending]
  dsimp only
  rw [if_neg (by simp [live, ready]), if_pos Bool.false_ne_true]
  rfl

theorem checkpointDrainTimeout_runs (found : s.partition? p = some x) (pending : x.checkpointing = some (c, v, k))
    (live : x.teardown = false) :
    exec (.checkpointDrainTimeout p) s = if s.time ≤ k.since + second then .next s
      else .next ((s.mirrored p x c k).endCheckpoint p c k .hostAccess []) := by
  change execCheckpointDrainTimeout p s = _
  rw [execCheckpointDrainTimeout, found]
  dsimp only
  rw [pending]
  dsimp only
  refine if_congr ?_ rfl rfl
  simp [live]

end

theorem Partition.runnableNow_context (x : Partition) (c now : Nat) (v : Context) :
    (x.runnableNow c now v).context? c = some { v with runnableSince := now } := (x.runnableNow_spec c now v).1

/-- A checkpoint that ends unblocks its context. -/
theorem State.endCheckpoint_spec {u : State} {p c : Nat} {y : Partition} {w : Context} (found : u.partition? p = some y)
    (held : y.context? c = some w) (k : CheckpointState) (st : Status) (result : List W32) :
    ∃ z, (u.endCheckpoint p c k st result).partition? p = some z ∧
      z.context? c = some { w with checkpoint := none, runnableSince := u.time } := by
  unfold State.endCheckpoint
  rw [found]
  dsimp only
  rw [held]
  dsimp only
  have there := (State.partition?_setPartition u p p (y.runnableNow c u.time { w with checkpoint := none })).trans (if_pos rfl)
  refine ⟨_, ?_, y.runnableNow_context c u.time { w with checkpoint := none }⟩
  split
  · exact ((State.hostOnly_finish _ k.ring _ st 0 result).partition? p).trans there
  · exact there

/-- Settles O55, the switch through what a save and a restore leave of the contexts, the checkpoint through the parts of its
header. -/
theorem contextsSwitchAndCheckpoint : Obligations.ContextsSwitchAndCheckpoint := by
  unfold Obligations.ContextsSwitchAndCheckpoint
  refine ⟨fun s p x found live due open_ boundary => ⟨fun begins => ?_, fun held waits => ?_, fun c v z held frozen may settled calm
    incoming there => ?_⟩, fun s p x c v k found pending live => ?_⟩
  · rw [contextSwitch_runs found live due open_ boundary]
    exact if_pos (fun holds => begins (List.contains_iff_mem.1 holds))
  · rw [contextSwitch_runs found live due open_ boundary, if_neg (not_not_intro (List.contains_iff_mem.2 held))]
    refine if_pos (waits.imp (fun warm => ?_) (fun busy => ?_))
    · rw [warm]; exact Bool.false_ne_true
    · rw [busy]; exact Bool.false_ne_true
  · obtain ⟨y, w, stands, running, lastIn, holds, context, saved, pattern, step, outgoing⟩ := State.switched_spec settled there
    have counted := y.counted_count c contextSwitches 1
    have contexts (m : Nat) := y.context?_count c contextSwitches 1 m
    refine ⟨_, _, { w with counters := addCounter w.counters contextSwitches 1 },
      contextSwitch_saves found live due open_ boundary held frozen may settled calm incoming stands,
      (State.partition?_setPartition _ p p _).trans (if_pos rfl), (congrArg Partition.running counted.frame :).trans running,
      (congrArg Partition.lastIn counted.frame :).trans lastIn, ?_, ?_, saved, pattern, step, fun o a runs other held' => ?_⟩
    · rw [show (y.count c contextSwitches 1).run = y.run from (congrArg Partition.run counted.frame :)]
      exact holds
    · rw [contexts, if_pos rfl, context, Option.map_some]
    · obtain ⟨b, slot, held'', rest⟩ := outgoing o a runs other held'
      exact ⟨b, slot, (contexts o).trans ((if_neg other).trans held''), rest⟩
  · dsimp only
    refine ⟨fun m step ready serves => ?_, fun ready => ?_, fun early => ?_, fun late => ?_, fun u y w st result found' held => ?_⟩
    · obtain ⟨data, header, bytes, others⟩ := m.checkpointed_spec p c (withinStack (paramPair k.entry 0))
        (withinStack (paramPair k.entry 4)) k.entry.addr.toNat x.stackRims_length_lt step (paramPair_lt k.entry 2)
      refine ⟨_, data, checkpointMirrorComplete_serves found pending live ready serves, header, bytes, fun r y other held => ?_⟩
      obtain ⟨served, there⟩ := (State.served_hubServe serves).partitions r
      refine ⟨served, (others r other).trans ?_⟩
      rw [there, held]
      rfl
    · exact ⟨_, checkpointMirrorComplete_fails found pending live ready,
        (congrArg State.hostMem (s.counted_mirror p c _ _ _ _).frame :)⟩
    · exact (checkpointDrainTimeout_runs found pending live).trans (if_pos early)
    · exact ⟨_, (checkpointDrainTimeout_runs found pending live).trans (if_neg (Nat.not_le.2 late)),
        (congrArg State.hostMem (s.counted_mirror p c _ _ _ _).frame :)⟩
    · obtain ⟨z, there, context⟩ := State.endCheckpoint_spec found' held k st result
      exact ⟨z, _, there, context, rfl⟩

end Sys2Proof.Machine
end

section
/-! PROOFS. Eviction, bring-in and teardown. -/

namespace Sys2Proof.Machine

/-! ### Eviction -/

/-- What the hub writes of an extent stays in host memory; the cipher text of a slot is free bytes. -/
def State.ExtentOnly (s t : State) : Prop := t = { s with hostMem := t.hostMem, fresh := t.fresh }

theorem State.ExtentOnly.trans {s t u : State} (h : s.ExtentOnly t) (g : t.ExtentOnly u) : s.ExtentOnly u := by
  rw [ExtentOnly, g, h]

theorem State.ExtentOnly.foldl {α : Type} {f : State → α → State} (step : ∀ t a, State.ExtentOnly t (f t a)) (l : List α)
    (s : State) : s.ExtentOnly (l.foldl f s) := by
  induction l generalizing s with
  | nil => rfl
  | cons a l ih => exact (step s a).trans (ih _)

theorem State.extentOnly_hostWrite (s : State) (a : Nat) (bs : List Byte) : s.ExtentOnly (s.hostWrite a bs) := rfl

theorem State.extentOnly_freeBytes (s : State) (n : Nat) : s.ExtentOnly (s.freeBytes n).2 := rfl

theorem State.extentOnly_writeExtent (s : State) (x : Partition) (c e base key : Nat) (v : Context) (chunks : List (List Byte)) :
    s.ExtentOnly (s.writeExtent x c e base key v chunks) := by
  unfold State.writeExtent foldRange
  dsimp only
  refine State.ExtentOnly.trans ?_ (State.ExtentOnly.foldl (fun t d => ?_) _ _)
  · exact (((s.extentOnly_hostWrite _ _).trans (State.extentOnly_freeBytes _ _)).trans
      (State.extentOnly_hostWrite _ _ _)).trans (State.extentOnly_hostWrite _ _ _)
  · refine State.ExtentOnly.foldl (fun u m => ?_) _ t
    exact (u.extentOnly_hostWrite _ _).trans (State.extentOnly_hostWrite _ _ _)

/-- The running context saved: every other context stands, and so does the number of the next eviction. -/
theorem State.saveRunning_others {s : State} {p : Nat} {x : Partition} (found : s.partition? p = some x) :
    ∃ y, (s.saveRunning p).partition? p = some y ∧ y.evictionNumber = x.evictionNumber ∧
      (∀ m, x.running ≠ some m → y.context? m = x.context? m) ∧
      ∀ m v, x.context? m = some v → ∃ w, y.context? m = some w := by
  unfold State.saveRunning
  rw [found]
  dsimp only
  split
  next => exact ⟨x, found, rfl, fun _ _ => rfl, fun m v held => ⟨v, held⟩⟩
  next c v runs =>
    obtain ⟨running, -⟩ := (Partition.running?_eq_some_iff x c v).1 runs
    have contexts (m : Nat) (w : Context) : (x.setContext c w).context? m = if m = c then some w else x.context? m :=
      Partition.context?_setContext x c m w
    refine ⟨_, (State.partition?_setPartition s p p _).trans (if_pos rfl), rfl, fun m other => ?_, fun m u held => ?_⟩
    · exact (contexts m _).trans (if_neg (fun same => other (running.trans (congrArg some same.symm))))
    · by_cases same : m = c
      · exact ⟨_, (contexts m _).trans (if_pos same)⟩
      · exact ⟨u, (contexts m _).trans ((if_neg same).trans held)⟩

/-- A context copied out lies in its extent under the number of the eviction; the others stand. -/
theorem State.evict_spec {s : State} {p o : Nat} {x : Partition} {w : Context} (found : s.partition? p = some x)
    (held : x.context? o = some w) (base : Nat) :
    ∃ y b, (s.evict p o base).partition? p = some y ∧ y.context? o = some b ∧ b.place = .out (some (base, x.evictionNumber)) ∧
      y.evictionNumber = (x.evictionNumber + 1) % 2 ^ 64 ∧ ∀ m, m ≠ o → y.context? m = x.context? m := by
  have saved : ∃ y w', (if x.running = some o then s.saveRunning p else s).partition? p = some y ∧ y.context? o = some w' ∧
      y.evictionNumber = x.evictionNumber ∧ ∀ m, m ≠ o → y.context? m = x.context? m := by
    split
    next runs =>
      obtain ⟨y, there, number, others, kept⟩ := State.saveRunning_others found
      obtain ⟨w', held'⟩ := kept o w held
      exact ⟨y, w', there, held', number, fun m other => others m (fun same => other (Option.some.inj (same.symm.trans runs)))⟩
    next => exact ⟨x, w, found, held, rfl, fun _ _ => rfl⟩
  obtain ⟨y, w', there, held', number, others⟩ := saved
  unfold State.evict
  rw [found]
  dsimp only
  rw [there]
  dsimp only
  rw [held']
  dsimp only
  have contexts (m : Nat) (u : Context) : (y.setContext o u).context? m = if m = o then some u else y.context? m :=
    Partition.context?_setContext y o m u
  refine ⟨_, _, (congrArg (State.partition? · p) (State.extentOnly_writeExtent _ y o _ base _ _ _) :).trans
    ((State.partition?_setPartition _ p p _).trans (if_pos rfl)), (contexts o _).trans (if_pos rfl), ?_, ?_, fun m other => ?_⟩
  · rw [number]
  · exact congrArg (fun n => (n + 1) % 2 ^ 64) number
  · exact ((contexts m _).trans (if_neg other)).trans (others m other)

section
variable {s : State} {p : PartId} {x : Partition} {c o : Nat} {v w : Context}

theorem eviction_runs (found : s.partition? p = some x) (live : x.teardown = false) (idle : x.evicting = none)
    (full : x.freeSlots = []) (wanted : s.wantedOut p x = some (c, v)) (leaves : x.evictable = some (o, w)) :
    exec (.eviction p) s = match x.findExtent (x.extentBytes w.chunks.length) with
      | none => if x.windowFullPosted then .next s
          else .next ((s.setPartition p { x with windowFullPosted := true }).postEvent (p + 1)
            ⟨.ctxWindowFull, 0, [BitVec.ofNat 32 c]⟩)
      | some base => if s.mayLeave p x o w ∧ s.rimsReady x then .next (s.makeRoom p x o c base w) else .next s := by
  change execEviction p s = _
  rw [execEviction, found]
  dsimp only
  rw [if_neg (by simp [live, idle, full]), wanted, leaves] <;> rfl

/-- Room made for a context: it moves into the pair of the one that is copied out. -/
theorem State.makeRoom_spec {m n : State} {z : Partition} {v' w' : Context} (base : Nat) (other : o ≠ c)
    (settled : m = if x.running = some o then s.settle p x else s) (found : m.partition? p = some z) (calm : x.upset z = false)
    (serves : m.hubServe p true (hubUnits (x.extentBytes w.chunks.length)) = some n) (comes : z.context? c = some v')
    (goes : z.context? o = some w') :
    ∃ y a b, (s.makeRoom p x o c base w).partition? p = some y ∧ y.evicting = some (w.slot?.getD 0, c) ∧ y.context? c = some a ∧
      a.place = .moving (w.slot?.getD 0) v'.extent? ∧ y.context? o = some b ∧ b.place = .out (some (base, z.evictionNumber)) ∧
      y.evictionNumber = (z.evictionNumber + 1) % 2 ^ 64 := by
  obtain ⟨served, there⟩ := (State.served_hubServe serves).partitions p
  rw [found, Option.map_some] at there
  obtain ⟨y, b, evicted, held, place, number, others⟩ := State.evict_spec (x := z.servedTo served) there goes base
  have stays : y.context? c = some v' := (others c (Ne.symm other)).trans comes
  have contexts (m : Nat) (u : Context) : (y.setContext c u).context? m = if m = c then some u else y.context? m :=
    Partition.context?_setContext y c m u
  unfold State.makeRoom
  dsimp only
  rw [← settled, found]
  dsimp only
  rw [if_neg (by rw [calm]; exact Bool.false_ne_true), serves]
  dsimp only
  rw [evicted]
  dsimp only
  rw [stays]
  exact ⟨_, _, b, (State.partition?_setPartition _ p p _).trans (if_pos rfl), rfl, (contexts c _).trans (if_pos rfl), rfl,
    (contexts o _).trans ((if_neg other).trans held), place, number⟩

end

/-! ### Bring-in -/

theorem State.openExtent_congr {s t : State} (same : s.hostMem = t.hostMem) (x : Partition) (base e key : Nat) (v : Context) :
    s.openExtent x base e key v = t.openExtent x base e key v := by
  have bytes : s.hostBytes = t.hostBytes := funext fun a => funext fun n => State.hostBytes_congr same a n
  unfold State.openExtent State.headerOpens State.slotsOpen State.openChunk
  rw [bytes]

/-- The context that is brought in. -/
theorem State.bringIn_spec (s : State) (p c j : Nat) (v : Context) (x : Partition) :
    ∃ y, (s.bringIn p c j v x).partition? p = some y ∧ y.evicting = none ∧
      y.context? c = some { v with place := .resident j, outStacks := [], runnableSince := (s.bringIn p c j v x).time,
                                   blockedSince := (s.bringIn p c j v x).time } := by
  unfold State.bringIn
  dsimp only
  exact ⟨_, (State.partition?_setPartition _ p p _).trans (if_pos rfl), rfl,
    (Partition.context?_setContext x c c _).trans (if_pos rfl)⟩

/-- The end of a job leaves the context's place in the stacks. -/
theorem Context.ended_span (v : Context) (how : JobEnd) (clear : Bool) (now : Nat) :
    (v.ended how clear now).place = v.place ∧ (v.ended how clear now).outStacks = v.outStacks ∧
      (v.ended how clear now).chunks = v.chunks := by
  unfold Context.ended
  split <;> exact ⟨rfl, rfl, rfl⟩

/-- A context whose extent does not open holds a pair of nothing. -/
theorem State.bringNothing_spec (s : State) (p c j : Nat) (v : Context) (x : Partition) :
    ∃ y w, (s.bringNothing p c j v x).partition? p = some y ∧ y.context? c = some w ∧ w.place = .resident j ∧ w.outStacks = [] ∧
      y.evicting = none ∧ w.pattern = none ∧ w.steps = none ∧ w.saved = none ∧ w.chunks = [] := by
  obtain ⟨y, there, evicting, context⟩ := s.bringIn_spec p c j { v with outStacks := [], chunks := [] } x
  unfold State.bringNothing
  dsimp only
  generalize s.bringIn p c j { v with outStacks := [], chunks := [] } x = t at there context ⊢
  have ended := (t.endJob_partition? p c .lost .ctxIntegrity (Config.faultDetail 0).toNat true p).trans (if_pos rfl)
  rw [there, Option.map_some] at ended
  have context' : (y.jobEnded c .lost true t.time).context? c = some (Context.ended _ .lost true t.time) :=
    (Partition.context?_jobEnded y c .lost true t.time c).trans ((if_pos rfl).trans (congrArg (Option.map _) context))
  obtain ⟨pattern, steps⟩ := Context.ended_spec { v with
    outStacks := [], chunks := [], place := .resident j, runnableSince := t.time, blockedSince := t.time } .lost true t.time
  obtain ⟨place, outs, chunks⟩ := Context.ended_span { v with
    outStacks := [], chunks := [], place := .resident j, runnableSince := t.time, blockedSince := t.time } .lost true t.time
  rw [ended]
  dsimp only
  rw [context']
  exact ⟨_, _, (State.partition?_setPartition _ p p _).trans (if_pos rfl),
    (Partition.context?_setContext _ c c _).trans (if_pos rfl), place, outs,
    (y.same_jobEnded c .lost true t.time).evicting.trans evicting, pattern, steps, rfl, chunks⟩

section
variable {s : State} {p : PartId} {x : Partition} {j c : Nat} {v : Context}

/-- What a bring-in makes of the context: all of its job where the extent opened, and nothing else. -/
def BroughtIn (p : PartId) (s : State) (c j : Nat) (v : Context) (kept : Bool) : Prop :=
  ∃ t y w, exec (.bringIn p true) s = .next t ∧ t.partition? p = some y ∧ y.context? c = some w ∧ w.place = .resident j ∧
    w.outStacks = [] ∧ y.evicting = none ∧
    (kept = true → w.pattern = v.pattern ∧ w.step = v.step ∧ w.saved = v.saved ∧ w.chunks = v.chunks) ∧
    (kept = false → w.pattern = none ∧ w.steps = none ∧ w.saved = none ∧ w.chunks = [])

theorem broughtIn_of_bringIn {t : State} {z : Partition} {outs : List Mem}
    (runs : exec (.bringIn p true) s = .next (t.bringIn p c j { v with outStacks := outs } z)) : BroughtIn p s c j v true := by
  obtain ⟨y, there, evicting, context⟩ := t.bringIn_spec p c j { v with outStacks := outs } z
  exact ⟨_, y, _, runs, there, context, rfl, rfl, evicting, fun _ => ⟨rfl, rfl, rfl, rfl⟩, fun no => absurd no.symm Bool.false_ne_true⟩

theorem broughtIn_of_bringNothing {t : State} {z : Partition}
    (runs : exec (.bringIn p true) s = .next (t.bringNothing p c j v z)) : BroughtIn p s c j v false := by
  obtain ⟨y, w, there, context, place, outs, evicting, gone⟩ := t.bringNothing_spec p c j v z
  exact ⟨_, y, w, runs, there, context, place, outs, evicting, fun yes => absurd yes Bool.false_ne_true, fun _ => gone⟩

theorem bringIn_fresh (found : s.partition? p = some x) (live : x.teardown = false) (comes : s.bringing p x = some (j, c, v))
    (fresh : v.extent? = none) (ok : Bool) : exec (.bringIn p ok) s = .next (s.bringIn p c j v x) := by
  change execBringIn p ok s = _
  rw [execBringIn, found]
  dsimp only
  rw [if_neg (by rw [live]; exact Bool.false_ne_true), comes]
  dsimp only
  rw [fresh]

theorem bringIn_waits (found : s.partition? p = some x) (live : x.teardown = false) (comes : s.bringing p x = some (j, c, v))
    (extent : v.extent? ≠ none) : exec (.bringIn p false) s = .next s := by
  obtain ⟨⟨base, e⟩, extent⟩ := Option.ne_none_iff_exists'.1 extent
  change execBringIn p false s = _
  rw [execBringIn, found]
  dsimp only
  rw [if_neg (by rw [live]; exact Bool.false_ne_true), comes]
  dsimp only
  rw [extent]
  exact if_pos (.inr Bool.false_ne_true)

/-- What the extent of a context opens to decides what is brought in. -/
theorem bringIn_served (found : s.partition? p = some x) (live : x.teardown = false) (comes : s.bringing p x = some (j, c, v))
    {base e : Nat} (extent : v.extent? = some (base, e)) (ready : s.rimsReady x = true) {u : State}
    (serves : s.hubServe p false (x.inUnits v) = some u) :
    ∃ z, (∀ outs, s.openExtent x base e (x.windowKey.getD 0) v = some outs →
        exec (.bringIn p true) s = .next (u.bringIn p c j { v with outStacks := outs } z)) ∧
      (s.openExtent x base e (x.windowKey.getD 0) v = none →
        exec (.bringIn p true) s = .next (u.bringNothing p c j v z)) := by
  obtain ⟨link, partitions⟩ := State.served_hubServe serves
  obtain ⟨n, there⟩ := partitions p
  rw [found, Option.map_some] at there
  have opens : u.openExtent (x.servedTo n) base e ((x.servedTo n).windowKey.getD 0) v =
      s.openExtent x base e (x.windowKey.getD 0) v :=
    State.openExtent_congr (congrArg State.hostMem link :) x base e _ v
  refine ⟨x.servedTo n, fun outs result => ?_, fun result => ?_⟩
  all_goals
    change execBringIn p true s = _
    rw [execBringIn, found]
    dsimp only
    rw [if_neg (by rw [live]; exact Bool.false_ne_true), comes]
    dsimp only
    rw [extent]
    dsimp only
    rw [if_neg (by simp [ready]), serves]
    dsimp only
    rw [there]
    dsimp only
    rw [opens, result]

end

/-! ### Teardown -/

/-- The rims of a list released, the others as they were. -/
theorem State.releaseRims_rim (l : List Nat) (s : State) (k : Nat) :
    ((k ∈ l → ((l.foldl (fun s k => s.setRim k (s.rim k).released) s).rim k).key = none ∧
        ((l.foldl (fun s k => s.setRim k (s.rim k).released) s).rim k).stack = [] ∧
        ((l.foldl (fun s k => s.setRim k (s.rim k).released) s).rim k).cache = []) ∧
      (k ∉ l → (l.foldl (fun s k => s.setRim k (s.rim k).released) s).rim k = s.rim k)) := by
  induction l using List.reverseRecOn with
  | nil => exact ⟨fun listed => absurd listed List.not_mem_nil, fun _ => rfl⟩
  | append_singleton l e ih =>
    obtain ⟨inside, outside⟩ := ih
    rw [List.foldl_append, List.foldl_cons, List.foldl_nil, State.rim_setRim, List.mem_append, List.mem_singleton]
    split
    next same => exact ⟨fun _ => ⟨rfl, rfl, rfl⟩, fun absent => absurd (.inr same) absent⟩
    next other =>
      exact ⟨fun listed => inside (listed.resolve_right other), fun absent => outside (fun listed => absent (.inl listed))⟩

theorem State.rimsOnly_releaseRims (l : List Nat) (s : State) :
    l.foldl (fun s k => s.setRim k (s.rim k).released) s =
      { s with rims := (l.foldl (fun s k => s.setRim k (s.rim k).released) s).rims } := by
  induction l generalizing s with
  | nil => rfl
  | cons k l ih => exact ih _

/-- The state in which a partition is gone and its ring stopped, its destroyer not yet told. -/
def State.tornDown (s : State) (p : Nat) (x : Partition) : State :=
  let t := x.stackRims.foldl (fun s k => s.setRim k (s.rim k).released) s
  let t : State := { t with partitions := Sparse.erase t.partitions p, wires := Sparse.erase t.wires p }
  t.setRing (p + 1) { t.ring (p + 1) with
    state := .stopped, picked := [], active := [], unposted := [], events := [], lost := 0 }

/-- The destroyer told of a teardown. -/
def State.reportTeardown (s : State) (x : Partition) : State :=
  match x.destroyer with
  | none => s
  | some (k, e) =>
    match (s.ring k).active.find? (fun (a : Active) => a.entry == e && a.progress == Progress.destroy) with
    | some a => (s.hostWrite e.addr.toNat x.allRecords.flatten).finish k a .ok 0 [BitVec.ofNat 32 x.allRecords.length]
    | none => s

theorem teardownComplete_runs {s : State} {p : PartId} {x : Partition} (found : s.partition? p = some x)
    (torn : x.teardown = true) :
    exec (.teardownComplete p) s = .next ((s.tornDown p x).reportTeardown x).openDebug.relimit := by
  change execTeardownComplete p s = _
  rw [execTeardownComplete, found]
  exact if_neg (not_not_intro torn)

theorem State.tornDown_spec (s : State) (p : Nat) (x : Partition) :
    (s.tornDown p x).partition? p = none ∧ (∀ r, r ≠ p → (s.tornDown p x).partition? r = s.partition? r) ∧
    ((s.tornDown p x).ring (p + 1)).state = .stopped ∧ ((s.tornDown p x).ring (p + 1)).picked = [] ∧
    ((s.tornDown p x).ring (p + 1)).active = [] ∧ ((s.tornDown p x).wire p).sources = [] ∧
    (∀ k, k ≠ p + 1 → (s.tornDown p x).ring k = s.ring k) ∧
    ∀ k, (s.tornDown p x).rim k = (x.stackRims.foldl (fun s k => s.setRim k (s.rim k).released) s).rim k := by
  have released := State.rimsOnly_releaseRims x.stackRims s
  unfold State.tornDown
  dsimp only
  generalize x.stackRims.foldl (fun s k => s.setRim k (s.rim k).released) s = t at released ⊢
  have partitions (r : Nat) : Sparse.get? (Sparse.erase t.partitions p) r = if r = p then none else s.partition? r :=
    (Sparse.get?_erase _ _ _).trans (if_congr Iff.rfl rfl (congrArg (State.partition? · r) released :))
  have rings (k : Nat) (r : Ring) (t' : State) (same : t'.rings = s.rings) : (t'.setRing (p + 1) r).ring k =
      if k = p + 1 then r else s.ring k :=
    (State.ring_setRing _ _ _ _).trans (if_congr Iff.rfl rfl (State.ring_congr same k))
  have same : t.rings = s.rings := (congrArg State.rings released :)
  refine ⟨(partitions p).trans (if_pos rfl), fun r other => (partitions r).trans (if_neg other), ?_, ?_, ?_, ?_,
    fun k other => (rings k _ { t with partitions := _, wires := _ } same).trans (if_neg other), fun k => rfl⟩
  · exact congrArg Ring.state ((State.ring_setRing _ _ _ _).trans (if_pos rfl))
  · exact congrArg Ring.picked ((State.ring_setRing _ _ _ _).trans (if_pos rfl))
  · exact congrArg Ring.active ((State.ring_setRing _ _ _ _).trans (if_pos rfl))
  · have gone : Sparse.get? (Sparse.erase t.wires p) p = none := (Sparse.get?_erase _ _ _).trans (if_pos rfl)
    change (((Sparse.get? (Sparse.erase t.wires p) p).getD Wires.dropped)).sources = []
    rw [gone]
    rfl

/-- A command that finishes on one ring leaves the others. -/
theorem State.finish_ring_other (s : State) {k j : Nat} (other : j ≠ k) (a : Active) (st : Status) (detail : Nat)
    (result : List W32) : (s.finish k a st detail result).ring j = s.ring j := by
  have set_ (t : State) (r : Ring) : (t.setRing k r).ring j = t.ring j := (State.ring_setRing t k j r).trans (if_neg other)
  unfold State.finish State.complete
  dsimp only
  split
  · unfold State.postCompletion
    dsimp only
    obtain ⟨-, others, -⟩ := State.postEntry_spec ((s.setRing k { s.ring k with active := (s.ring k).active.erase a }).setRing k
      { (s.setRing k { s.ring k with active := (s.ring k).active.erase a }).ring k with
        reserved := ((s.setRing k { s.ring k with active := (s.ring k).active.erase a }).ring k).reserved - 1 })
      k a.opcode a.entry.tag.toNat a.entry.part.toNat a.entry.ctx.toNat st detail result
    split
    · rw [State.interrupt_ring, others j other, set_, set_]
    · rw [others j other, set_, set_]
  · rw [set_, set_]

/-- Opening the debug port completes a command of a ring that still has it: every ring whose commands are gone stands. -/
theorem State.openDebug_ring_of_none (s : State) {j : Nat} (gone : (s.ring j).active = []) :
    s.openDebug.ring j = s.ring j := by
  unfold State.openDebug
  split
  · rfl
  next k e _ =>
    split
    · dsimp only
      split
      next a found =>
        have other : j ≠ k := by
          intro same
          have none_ : (s.ring k).active = [] := same ▸ gone
          rw [show ((({ s with debugWait := none, debugOpen := true } : State).ring k).active) = (s.ring k).active from rfl,
            none_] at found
          exact absurd found (Option.some_ne_none a).symm
        exact State.finish_ring_other _ other a .ok 0 []
      · rfl
    · rfl

/-- What opening the debug port leaves of the state besides. -/
theorem State.openDebug_rest (s : State) : s.openDebug.rims = s.rims ∧ s.openDebug.wires = s.wires := by
  unfold State.openDebug
  split
  · exact ⟨rfl, rfl⟩
  next k e _ =>
    split
    · dsimp only
      split
      next a _ =>
        have finished := State.hostOnly_finish ({ s with debugWait := none, debugOpen := true } : State) k a .ok 0 []
        exact ⟨(congrArg State.rims finished :), (congrArg State.wires finished :)⟩
      · exact ⟨rfl, rfl⟩
    · exact ⟨rfl, rfl⟩

/-- The report of a teardown reaches the host alone, and no ring whose commands are gone. -/
theorem State.reportTeardown_spec (s : State) (x : Partition) : s.HostOnly (s.reportTeardown x) ∧
    ∀ j, (s.ring j).active = [] → (s.reportTeardown x).ring j = s.ring j := by
  unfold State.reportTeardown
  split
  · exact ⟨.refl s, fun _ _ => rfl⟩
  next k e _ =>
    split
    next a found =>
      refine ⟨(s.hostOnly_hostWrite _ _).trans (State.hostOnly_finish _ k a .ok 0 _), fun j gone => ?_⟩
      have other : j ≠ k := by
        intro same
        rw [← same, gone] at found
        exact absurd found (Option.some_ne_none a).symm
      exact State.finish_ring_other _ other a .ok 0 _
    · exact ⟨.refl s, fun _ _ => rfl⟩

theorem Partition.allRecords_length (x : Partition) : x.allRecords.length = 1 + x.contexts.length := by
  rw [Partition.allRecords, List.length_cons, List.length_map, Nat.add_comm]

/-- The final records stand in host memory before the destroying command completes. -/
theorem State.reportTeardown_found {s : State} {x : Partition} {k : Nat} {e : CmdEntry} {a : Active}
    (destroyer : x.destroyer = some (k, e))
    (active : (s.ring k).active.find? (fun (a : Active) => a.entry == e && a.progress == Progress.destroy) = some a) :
    s.reportTeardown x = (s.hostWrite e.addr.toNat x.allRecords.flatten).finish k a .ok 0
      [BitVec.ofNat 32 (1 + x.contexts.length)] := by
  unfold State.reportTeardown
  rw [destroyer]
  dsimp only
  rw [active, Partition.allRecords_length]

/-- Settles O56, each event through what it leaves of the partition's contexts; a teardown through the rims and rings that it
releases. -/
theorem contextsMoveOutAndIn : Obligations.ContextsMoveOutAndIn := by
  unfold Obligations.ContextsMoveOutAndIn
  intro s p x found
  refine ⟨fun c v o w live idle full wanted leaves _ other => ⟨fun base m n z v' w' extent may ready settled there calm serves comes
    goes => ?_, fun none_ posted => ?_, fun none_ unposted => ?_⟩, fun j c v live comes => ?_,
    fun k e a torn destroyer apart active => ?_, fun torn => ?_⟩
  · obtain ⟨y, a, b, made⟩ := State.makeRoom_spec base other settled there calm serves comes goes
    have runs := eviction_runs found live idle full wanted leaves
    rw [extent] at runs
    exact ⟨_, y, a, b, runs.trans (if_pos ⟨may, ready⟩), made⟩
  · have runs := eviction_runs found live idle full wanted leaves
    rw [none_] at runs
    exact runs.trans (if_pos posted)
  · have runs := eviction_runs found live idle full wanted leaves
    rw [none_] at runs
    exact runs.trans (if_neg (by rw [unposted]; exact Bool.false_ne_true))
  · refine ⟨fun fresh => broughtIn_of_bringIn (outs := v.outStacks) (bringIn_fresh found live comes fresh true),
      fun base e u extent ready serves => ?_, bringIn_waits found live comes⟩
    obtain ⟨z, opened, shut⟩ := bringIn_served found live comes extent ready serves
    exact ⟨fun outs result => broughtIn_of_bringIn (opened outs result), fun result => broughtIn_of_bringNothing (shut result)⟩
  · obtain ⟨-, -, -, -, -, -, rings, -⟩ := s.tornDown_spec p x
    have active' : ((s.tornDown p x).ring k).active.find? (fun (a : Active) => a.entry == e && a.progress == Progress.destroy) =
        some a := by
      rw [rings k apart]
      exact active
    refine ⟨(s.tornDown p x).hostWrite e.addr.toNat x.allRecords.flatten, State.hostBytes_hostWrite_same _ _ _, ?_⟩
    rw [teardownComplete_runs found torn, State.reportTeardown_found destroyer active']
  · obtain ⟨gone, others, stopped, picked, active, sources, -, rims⟩ := s.tornDown_spec p x
    obtain ⟨host, ring⟩ := (s.tornDown p x).reportTeardown_spec x
    have ring' := ring (p + 1) active
    have ring'' := ((s.tornDown p x).reportTeardown x).openDebug_ring_of_none (j := p + 1) (by rw [ring']; exact active)
    obtain ⟨-, -, partitions⟩ := ((s.tornDown p x).reportTeardown x).openDebug_frame
    obtain ⟨rims', wires⟩ := ((s.tornDown p x).reportTeardown x).openDebug_rest
    have partition (r : Nat) : ((s.tornDown p x).reportTeardown x).openDebug.relimit.partition? r =
        (s.tornDown p x).partition? r :=
      (congrArg (fun l => Sparse.get? l r) partitions).trans (host.partition? r)
    have whole : ((s.tornDown p x).reportTeardown x).openDebug.relimit.ring (p + 1) = (s.tornDown p x).ring (p + 1) :=
      (show _ = ((s.tornDown p x).reportTeardown x).openDebug.ring (p + 1) from rfl).trans (ring''.trans ring')
    have wire : ((s.tornDown p x).reportTeardown x).openDebug.relimit.wire p = (s.tornDown p x).wire p :=
      (congrArg (fun l => Sparse.getD Wires.dropped l p) wires).trans (congrArg (State.wire · p) host :)
    have rim (k : Nat) : ((s.tornDown p x).reportTeardown x).openDebug.relimit.rim k =
        (x.stackRims.foldl (fun s k => s.setRim k (s.rim k).released) s).rim k :=
      (congrArg (fun l => Sparse.getD Rim.reset l k) rims').trans ((host.rim k).trans (rims k))
    refine ⟨_, teardownComplete_runs found torn, (partition p).trans gone, fun r other => (partition r).trans (others r other),
      ?_, ?_, ?_, ?_, fun k owned => ?_, fun k free => ?_⟩
    · rw [whole]; exact stopped
    · rw [whole]; exact picked
    · rw [whole]; exact active
    · rw [wire]; exact sources
    · rw [rim]
      exact (State.releaseRims_rim x.stackRims s k).1 owned
    · exact (rim k).trans ((State.releaseRims_rim x.stackRims s k).2 free)

end Sys2Proof.Machine
end

section
/-! PROOFS. Streams and gathers: units read for staging. -/

namespace Sys2Proof.Machine

/-! ### What the accesses of a rim leave of its context -/

theorem Rim.sendWrite_ctx (r : Rim) (req u : Nat) (bs : List Byte) : (r.sendWrite req u bs).ctx = r.ctx := by
  unfold Rim.sendWrite
  dsimp only
  refine (congrArg Rim.ctx (Rim.queueOnly_drain _) :).trans ?_
  dsimp only
  split
  · rfl
  · exact (congrArg Rim.ctx (r.queueOnly_drainChannel (channelOf u)) :)

theorem Rim.insertLine_ctx (r : Rim) (ways : Nat) (l : CacheLine) : (r.insertLine ways l).ctx = r.ctx := by
  unfold Rim.insertLine
  dsimp only
  split
  · rfl
  · split
    · rfl
    · split
      · exact Rim.sendWrite_ctx _ _ _ _
      · rfl

theorem Rim.readUnit_ctx (r : Rim) (ways u : Nat) (cacheable : Bool) : (r.readUnit ways u cacheable).2.ctx = r.ctx := by
  have drained : (r.drainFor u).ctx = r.ctx := by
    unfold Rim.drainFor
    split
    · exact (congrArg Rim.ctx (r.queueOnly_drainChannel (channelOf u)) :)
    · rfl
  unfold Rim.readUnit
  split
  · exact r.insertLine_ctx ways _
  · dsimp only
    split
    · exact (Rim.insertLine_ctx _ ways _).trans drained
    · exact drained

theorem Rim.writeUnit_ctx (r : Rim) (ways req u : Nat) (cacheable : Bool) (bs : List Byte) :
    (r.writeUnit ways req u cacheable bs).ctx = r.ctx := by
  unfold Rim.writeUnit
  split
  · exact r.insertLine_ctx ways _
  · split
    · exact r.insertLine_ctx ways _
    · exact r.sendWrite_ctx req u bs

theorem Rim.Coherent.unitBytes_length {r : Rim} (h : r.Coherent) (u : Nat) : (r.unitBytes u).length = 64 := by
  unfold Rim.unitBytes
  split
  next l held => exact (h.2.2 l (Rim.mem_cache_of_line? held).1).1
  next => exact h.below_length u

/-! ### One unit read -/

/-- What a read of one unit leaves: all of the engine's place, and what every unit reads. -/
structure EngSite.ReadOf (y w : EngSite) : Prop where
  frame : w = { y with r := w.r, x := w.x, e := { y.e with
    counters := { y.e.counters with fetched := w.e.counters.fetched } } }
  dies : w.x.dies = y.x.dies
  span : w.x.spanUnits = y.x.spanUnits
  ctx : w.r.ctx = y.r.ctx
  coherent : w.r.Coherent
  bytes : ∀ v, w.r.unitBytes v = y.r.unitBytes v

theorem EngSite.ReadOf.refl {y : EngSite} (coherent : y.r.Coherent) : y.ReadOf y := ⟨rfl, rfl, rfl, rfl, coherent, fun _ => rfl⟩

theorem EngSite.ReadOf.trans {y w z : EngSite} (h : y.ReadOf w) (g : w.ReadOf z) : y.ReadOf z := by
  refine ⟨?_, g.dies.trans h.dies, g.span.trans h.span, g.ctx.trans h.ctx, g.coherent, fun v => (g.bytes v).trans (h.bytes v)⟩
  rw [g.frame, h.frame]

theorem EngSite.ReadOf.phys {y w : EngSite} (h : y.ReadOf w) (u : Nat) : w.phys u = y.phys u := by
  rw [EngSite.phys, EngSite.phys, h.span, show w.j = y.j from (congrArg EngSite.j h.frame :)]

theorem Partition.count_spanUnits (x : Partition) (c i n : Nat) : (x.count c i n).spanUnits = x.spanUnits := by
  rw [x.count_frame c i n]
  rfl

/-- The rim after the read of a unit: a unit that the cache does not hold is a transaction. -/
def EngSite.readRim (y : EngSite) (u : Nat) (cache : Bool) : Rim :=
  if (y.r.line? (y.phys u)).isSome then (y.r.readUnit y.x.ways (y.phys u) cache).2
  else { (y.r.readUnit y.x.ways (y.phys u) cache).2 with
    outstanding := (y.r.readUnit y.x.ways (y.phys u) cache).2.outstanding ++ [⟨y.phys u, y.n, cache⟩] }

theorem EngSite.readRim_spec {y : EngSite} (coherent : y.r.Coherent) (u : Nat) (cache : Bool) :
    (y.readRim u cache).ctx = y.r.ctx ∧ (y.readRim u cache).Coherent ∧
      ∀ v, (y.readRim u cache).unitBytes v = y.r.unitBytes v := by
  obtain ⟨-, kept, bytes⟩ := coherent.readUnit y.x.ways (y.phys u) cache
  have ctx := y.r.readUnit_ctx y.x.ways (y.phys u) cache
  unfold EngSite.readRim
  split
  · exact ⟨ctx, kept, bytes⟩
  · exact ⟨ctx, kept, bytes⟩

/-- A read of a unit that no write of the layer has touched. -/
theorem EngSite.readOne_eq {y : EngSite} (coherent : y.r.Coherent) {u : Nat} (clean : y.phys u ∉ y.r.ctx.written) (n : Nat)
    (cache : Bool) : y.readOne n u cache =
      (y.r.unitBytes (y.phys u), { y with r := y.readRim u cache, x := y.x.count y.c stackReadBytes 64 }, n) := by
  obtain ⟨ctx, -, -⟩ := y.readRim_spec coherent u cache
  rw [← (coherent.readUnit y.x.ways (y.phys u) cache).1]
  refine if_neg (c := (y.readRim u cache).ctx.written.contains (y.phys u) = true) ?_
  rw [ctx, List.contains_iff_mem]
  exact clean

theorem EngSite.readOf_readOne {y : EngSite} (coherent : y.r.Coherent) (u : Nat) (cache : Bool) :
    y.ReadOf { y with r := y.readRim u cache, x := y.x.count y.c stackReadBytes 64 } := by
  obtain ⟨ctx, kept, bytes⟩ := y.readRim_spec coherent u cache
  exact ⟨rfl, (congrArg Partition.dies (y.x.count_frame _ _ _) :), y.x.count_spanUnits _ _ _, ctx, kept, bytes⟩

/-! ### A flit read for staging -/

/-- The bytes of the flit's unit `i` stand at their place; every other place is as it was. -/
theorem Staged.chunk_fill (t : Staged) {i j : Nat} {bs : List Byte} (whole : t.data.length = flitBytes) (size : bs.length = 64)
    (hi : i < 16) (hj : j < 16) : (((t.fill i bs).data.drop (64 * j)).take 64) =
      if j = i then bs else (t.data.drop (64 * j)).take 64 := by
  have length : t.data.length = 1024 := whole
  unfold Staged.fill
  dsimp only
  refine List.ext_getElem? fun m => ?_
  rw [List.append_assoc, apply_ite (fun l : List Byte => l[m]?), List.getElem?_take, List.getElem?_take, List.getElem?_drop,
    List.getElem?_drop, List.getElem?_append, List.getElem?_append, List.length_take, size, List.getElem?_take,
    List.getElem?_drop]
  by_cases hm : m < 64
  · rw [if_pos hm, if_pos hm]
    rcases Nat.lt_trichotomy j i with below | rfl | above
    · rw [if_pos (by omega), if_pos (by omega), if_neg (by omega)]
    · rw [if_neg (by omega), if_pos (by omega), if_pos rfl]
      exact congrArg (bs[·]?) (by omega)
    · rw [if_neg (by omega), if_neg (by omega), if_neg (by omega)]
      exact congrArg (t.data[·]?) (by omega)
  · rw [if_neg hm, if_neg hm, List.getElem?_eq_none (by omega), ite_self]

theorem Staged.length_fill (t : Staged) {i : Nat} {bs : List Byte} (whole : t.data.length = flitBytes) (size : bs.length = 64)
    (hi : i < 16) : (t.fill i bs).data.length = flitBytes := by
  have length : t.data.length = 1024 := whole
  unfold Staged.fill
  simp only [List.length_append, List.length_take, List.length_drop, size, length]
  change _ = 1024
  omega

/-- `t` is the flit of the units `us`, read at `w` from where the engine stood at `z`, but for its reads that wait. -/
structure EngSite.Issued (z : EngSite) (us : List Nat) (cache : Bool) (t : Staged) (w : EngSite) : Prop where
  units : t.units = us
  cached : t.cache = cache
  open_ : t.complete = none
  whole : t.data.length = flitBytes
  waiting : ∀ i ∈ t.waiting, i < us.length
  once : t.waiting.Nodup
  chunks : ∀ i, i < 16 → (t.data.drop (64 * i)).take 64 =
    if i < us.length ∧ i ∉ t.waiting then z.r.unitBytes (z.phys (us.getD i 0)) else List.replicate 64 0
  read : z.ReadOf w
  counted : w.e.counters.fetched = z.e.counters.fetched + 64 * (us.length - t.waiting.length)

/-- Before any read is issued all of them wait. -/
theorem EngSite.issued_unread {z : EngSite} (coherent : z.r.Coherent) (us : List Nat) (cache : Bool) :
    z.Issued us cache (.unread us cache) z where
  units := rfl
  cached := rfl
  open_ := rfl
  whole := List.length_replicate
  waiting := fun _ listed => List.mem_range.1 listed
  once := List.nodup_range
  chunks := fun i hi => by
    rw [if_neg (fun read => read.2 (List.mem_range.2 read.1))]
    change ((List.replicate 1024 (0 : Byte)).drop (64 * i)).take 64 = _
    rw [List.drop_replicate, List.take_replicate]
    exact congrArg (List.replicate · 0) (by omega)
  read := .refl coherent
  counted := by
    rw [Staged.unread, List.length_range, Nat.sub_self, Nat.mul_zero, Nat.add_zero]

/-- The engine's count of the bytes fetched after one more read. -/
def EngSite.fetchedOne (y : EngSite) : EngSite :=
  { y with e := { y.e with counters := { y.e.counters with fetched := y.e.counters.fetched + 64 } } }

theorem EngSite.readOf_fetchedOne {y : EngSite} (coherent : y.r.Coherent) : y.ReadOf y.fetchedOne :=
  ⟨rfl, rfl, rfl, rfl, coherent, fun _ => rfl⟩

/-- One read that waited and is issued. -/
theorem EngSite.Issued.fill {z w : EngSite} {us : List Nat} {cache : Bool} {t : Staged} (h : z.Issued us cache t w)
    (few : us.length ≤ 16) {i : Nat} (waits : i ∈ t.waiting) :
    z.Issued us cache (t.fill i (w.r.unitBytes (w.phys (us.getD i 0))))
      ({ w with r := w.readRim (us.getD i 0) t.cache, x := w.x.count w.c stackReadBytes 64 } : EngSite).fetchedOne := by
  have hi := h.waiting i waits
  have size := h.read.coherent.unitBytes_length (w.phys (us.getD i 0))
  have bytes : w.r.unitBytes (w.phys (us.getD i 0)) = z.r.unitBytes (z.phys (us.getD i 0)) := by
    rw [h.read.bytes, h.read.phys]
  have rest : (t.fill i (w.r.unitBytes (w.phys (us.getD i 0)))).waiting = t.waiting.erase i :=
    (h.once.erase_eq_filter i).symm
  have read := EngSite.readOf_readOne h.read.coherent (us.getD i 0) t.cache
  refine ⟨h.units, h.cached, h.open_, t.length_fill h.whole size (by omega), fun j listed => ?_, ?_, fun j hj => ?_,
    (h.read.trans read).trans (EngSite.readOf_fetchedOne read.coherent), ?_⟩
  · rw [rest] at listed
    exact h.waiting j (List.mem_of_mem_erase listed)
  · rw [rest]
    exact h.once.erase i
  · rw [t.chunk_fill h.whole size (by omega) hj, rest]
    by_cases same : j = i
    · rw [if_pos same, if_pos ⟨by omega, fun listed => (h.once.mem_erase_iff.1 listed).1 same⟩, bytes, same]
    · rw [if_neg same, h.chunks j hj]
      exact if_congr (and_congr_right fun _ => not_congr (List.mem_erase_of_ne same).symm) rfl rfl
  · have some_ : 0 < t.waiting.length := List.length_pos_of_mem waits
    have most : t.waiting.length ≤ us.length := by
      have inside := (List.subperm_of_subset h.once (fun j listed => List.mem_range.2 (h.waiting j listed))).length_le
      rwa [List.length_range] at inside
    change w.e.counters.fetched + 64 = _
    rw [h.counted, rest, List.length_erase_of_mem waits]
    omega

/-- One read of a flit that waits, issued where the controller accepts it. -/
def EngSite.issueOne (acc : Staged × EngSite × Nat) (i : Nat) : Staged × EngSite × Nat :=
  if acc.2.1.canRead (acc.1.units.getD i 0) then
    (acc.1.fill i (acc.2.1.readOne acc.2.2 (acc.1.units.getD i 0) acc.1.cache).1,
      (acc.2.1.readOne acc.2.2 (acc.1.units.getD i 0) acc.1.cache).2.1.fetchedOne,
      (acc.2.1.readOne acc.2.2 (acc.1.units.getD i 0) acc.1.cache).2.2)
  else acc

theorem EngSite.issue_eq (y : EngSite) (n : Nat) (t : Staged) : y.issue n t = t.waiting.foldl EngSite.issueOne (t, y, n) := rfl

theorem EngSite.issueOne_spec {z w : EngSite} {us : List Nat} {cache : Bool} {t : Staged} (h : z.Issued us cache t w)
    (few : us.length ≤ 16) (clean : ∀ u ∈ us, z.phys u ∉ z.r.ctx.written) {i : Nat} (waits : i ∈ t.waiting) (n : Nat) :
    ∃ t' w', EngSite.issueOne (t, w, n) i = (t', w', n) ∧ z.Issued us cache t' w' ∧
      ∀ j, j ≠ i → j ∈ t.waiting → j ∈ t'.waiting := by
  unfold EngSite.issueOne
  dsimp only
  split
  · have inside := h.waiting i waits
    have member : us.getD i 0 ∈ us := by
      rw [List.getD_eq_getElem _ _ inside]
      exact List.getElem_mem inside
    have clean' : w.phys (us.getD i 0) ∉ w.r.ctx.written := by
      rw [h.read.phys, h.read.ctx]
      exact clean _ member
    rw [h.units, EngSite.readOne_eq h.read.coherent clean']
    refine ⟨_, _, rfl, h.fill few waits, fun j other listed => List.mem_filter.2 ⟨listed, ?_⟩⟩
    exact bne_iff_ne.2 other
  · exact ⟨t, w, rfl, h, fun _ _ listed => listed⟩

theorem EngSite.foldl_issueOne {z : EngSite} {us : List Nat} {cache : Bool} (few : us.length ≤ 16)
    (clean : ∀ u ∈ us, z.phys u ∉ z.r.ctx.written) (n : Nat) (l : List Nat) {t : Staged} {w : EngSite}
    (h : z.Issued us cache t w) (once : l.Nodup) (waits : ∀ i ∈ l, i ∈ t.waiting) :
    ∃ t' w', l.foldl EngSite.issueOne (t, w, n) = (t', w', n) ∧ z.Issued us cache t' w' := by
  induction l generalizing t w with
  | nil => exact ⟨t, w, rfl, h⟩
  | cons i l ih =>
    obtain ⟨new, once⟩ := List.nodup_cons.1 once
    obtain ⟨t', w', step, h', kept⟩ := EngSite.issueOne_spec h few clean (waits i List.mem_cons_self) n
    rw [List.foldl_cons, step]
    exact ih h' once (fun j listed => kept j (fun same => new (same ▸ listed)) (waits j (List.mem_cons_of_mem i listed)))

/-- A flit staged from units that no write of the layer has touched. -/
theorem EngSite.stage_spec {z : EngSite} {us : List Nat} (coherent : z.r.Coherent) (few : us.length ≤ 16)
    (clean : ∀ u ∈ us, z.phys u ∉ z.r.ctx.written) (n : Nat) (cache : Bool) :
    ∃ t w, z.stage n us cache = ({ w with e := { w.e with staging := w.e.staging ++ [t] } }, n) ∧ z.Issued us cache t w := by
  obtain ⟨t, w, issued, h⟩ := EngSite.foldl_issueOne few clean n (List.range us.length) (EngSite.issued_unread coherent us cache)
    List.nodup_range (fun i listed => listed)
  refine ⟨t, w, ?_, h⟩
  unfold EngSite.stage
  rw [EngSite.issue_eq]
  change (let (t, y, n) := (List.range us.length).foldl EngSite.issueOne (.unread us cache, z, n)
    ({ y with e := { y.e with staging := y.e.staging ++ [t] } }, n)) = _
  rw [issued]

/-! ### Pieces and indices -/

theorem length_flatMap_of_length {α β : Type} (f : α → List β) {n : Nat} (size : ∀ a, (f a).length = n) (l : List α) :
    (l.flatMap f).length = l.length * n := by
  rw [List.length_flatMap, List.map_congr_left (fun a _ => size a), List.map_const', List.sum_replicate, smul_eq_mul]

theorem EngSite.length_pieces_le (y : EngSite) (d : Descriptor) (f : Nat) (idx : List W32) :
    (y.pieces d f idx).length ≤ d.piecesPerFlit := by
  unfold EngSite.pieces
  dsimp only
  split
  · rw [List.length_map, List.length_range]
  · rw [List.length_map]
    exact (List.length_filter_le _ _).trans (Nat.le_of_eq List.length_range)

/-- A flit has at most 16 units. -/
theorem EngSite.length_pieceList_le (y : EngSite) (d : Descriptor) (f : Nat) (idx : List W32) :
    (pieceList d (y.pieces d f idx)).length ≤ 16 := by
  unfold pieceList
  rw [length_flatMap_of_length _ (n := d.pieceUnits) (fun u => by rw [List.length_map, List.length_range])]
  have kept : (((y.pieces d f idx).takeWhile Option.isSome).filterMap id).length ≤ d.piecesPerFlit :=
    (List.length_filterMap_le _ _).trans ((List.takeWhile_prefix _).length_le.trans (y.length_pieces_le d f idx))
  calc _ ≤ d.piecesPerFlit * d.pieceUnits := Nat.mul_le_mul_right _ kept
    _ ≤ 16 := Nat.div_mul_le_self 16 _

/-- What the search for indices leaves of the engine's place. -/
structure EngSite.IndexedFrom (y z : EngSite) : Prop where
  frame : z = { y with r := z.r, x := z.x, e := { y.e with indices := z.e.indices } }
  dies : z.x.dies = y.x.dies

theorem EngSite.IndexedFrom.refl (y : EngSite) : y.IndexedFrom y := ⟨rfl, rfl⟩

theorem EngSite.IndexedFrom.trans {y w z : EngSite} (h : y.IndexedFrom w) (g : w.IndexedFrom z) : y.IndexedFrom z := by
  refine ⟨?_, g.dies.trans h.dies⟩
  rw [g.frame, h.frame]

theorem EngSite.readOne_site (y : EngSite) (n u : Nat) (cache : Bool) :
    (y.readOne n u cache).2.1 = { y with r := y.readRim u cache, x := y.x.count y.c stackReadBytes 64 } :=
  (apply_ite (fun o : List Byte × EngSite × Nat => o.2.1) ((y.readRim u cache).ctx.written.contains (y.phys u) = true) _ _).trans
    (ite_self _)

theorem EngSite.indexedFrom_readOne (y : EngSite) (n u : Nat) (cache : Bool) : y.IndexedFrom (y.readOne n u cache).2.1 := by
  rw [EngSite.readOne_site]
  exact ⟨rfl, (congrArg Partition.dies (y.x.count_frame _ _ _) :)⟩

theorem EngSite.indexedFrom_indexUnit {y z : EngSite} {n m : Nat} {d : Descriptor} {have_ xs : List W32}
    (ready : y.indexUnit n d have_ = .ready xs z m) : y.IndexedFrom z := by
  unfold EngSite.indexUnit at ready
  dsimp only at ready
  split at ready
  · cases ready
  · split at ready
    · cases ready
    · cases ready
      exact y.indexedFrom_readOne n _ false

theorem EngSite.indexedFrom_indicesFor {y z : EngSite} {n m need : Nat} {d : Descriptor} {have_ xs : List W32}
    (ready : y.indicesFor n d have_ need = .ready xs z m) : y.IndexedFrom z := by
  unfold EngSite.indicesFor at ready
  split at ready
  · cases ready
    exact .refl y
  · split at ready
    · dsimp only at ready
      split at ready
      · cases ready
      · cases ready
        exact ⟨rfl, rfl⟩
    · split at ready
      next xs' z' m' first =>
        have from_ := EngSite.indexedFrom_indexUnit first
        split at ready
        · cases ready
          exact from_
        · exact from_.trans (EngSite.indexedFrom_indexUnit ready)
      next other => exact absurd ready (other xs z m)

/-! ### One flit of the fetch sequence -/

/-- An engine whose reads have all been issued has none to issue again. -/
theorem State.retryReads_idle {s : State} {k n : Nat} {y : EngSite} (found : s.engSite k n = some y)
    (idle : ∀ t ∈ y.e.staging, t.waiting = []) : s.retryReads k n = s := by
  unfold State.retryReads
  rw [found]
  refine if_pos (.inr (List.all_eq_true.2 fun t staged => ?_))
  rw [idle t staged]
  rfl

/-- The fault of an engine is its rim's, whatever indices it has read. -/
theorem EngSite.IndexedFrom.engineFault {y z : EngSite} (h : y.IndexedFrom z) (s : State) (st : Status) :
    s.engineFault z st = s.engineFault y st := by
  rw [State.engineFault, show z.p = y.p from (congrArg EngSite.p h.frame :), show z.k = y.k from (congrArg EngSite.k h.frame :)]
  rfl

theorem any_isNone_iff {α : Type} (l : List (Option α)) : l.any Option.isNone = true ↔ none ∈ l := by
  rw [List.any_eq_true]
  exact ⟨fun ⟨a, listed, none_⟩ => Option.isNone_iff_eq_none.1 none_ ▸ listed, fun listed => ⟨none, listed, rfl⟩⟩

section
variable {s : State} {k m : Nat} {y z : EngSite} {a n : Nat} {d : Descriptor} {xs : List W32}

theorem State.fetchFlit_disallowed (found : s.engSite k m = some y) (stands : y.e.at? y.e.fetchPlace = some d)
    (runs : y.r.paused = false) (bad : d.allowed m = false) (kind : Nat) : s.fetchFlit k m kind = s.engineFault y .faultFence := by
  unfold State.fetchFlit
  rw [found]
  dsimp only
  rw [stands]
  dsimp only
  rw [if_neg (by rw [runs]; exact Bool.false_ne_true), if_pos (by rw [bad]; exact Bool.false_ne_true)]

/-- A flit that is fetched, its indices at hand. -/
theorem State.fetchFlit_eq (found : s.engSite k m = some y) (stands : y.e.at? y.e.fetchPlace = some d)
    (runs : y.r.paused = false) (good : d.allowed m = true) (plain : d.kind ≠ 7) (room : y.room s.beat = true)
    (ready : (if d.kind = 4 then y.indicesFor s.fresh d y.e.fetchIdx (d.rowsNeeded y.e.fetchFlit) else .ready [] y s.fresh) =
      .ready xs z n) :
    s.fetchFlit k m d.kind = if (z.pieces d z.e.fetchFlit xs).any Option.isNone then s.engineFault z .faultFence
      else { s with fresh := (z.stage n (pieceList d (z.pieces d z.e.fetchFlit xs)) d.cache).2 }.putEngine
        { (z.stage n (pieceList d (z.pieces d z.e.fetchFlit xs)) d.cache).1 with
          e := ({ (z.stage n (pieceList d (z.pieces d z.e.fetchFlit xs)) d.cache).1.e with fetchIdx := xs } : Engine).fetched d
            y.e.fetchPlace } := by
  unfold State.fetchFlit
  rw [found]
  dsimp only
  rw [stands]
  dsimp only
  rw [if_neg (by rw [runs]; exact Bool.false_ne_true), if_neg (not_not_intro good), if_neg (fun both => plain both.1),
    if_neg (not_or.2 ⟨not_not_intro rfl, not_not_intro room⟩), ready]

end

/-- Settles O31, the flit by its reads one after the other. -/
theorem fetchesFillStaging : Obligations.FetchesFillStaging := by
  unfold Obligations.FetchesFillStaging
  intro s e y z a n d xs found place stands runs coherent idle command which pieces units
  rw [← place] at stands
  have runs_ : exec command s = .next (s.fetchFlit e.rim e.eng d.kind) := by
    rcases which with ⟨kind, rfl, -⟩ | ⟨kind, rfl, -⟩
    · change Host.Outcome.next ((s.retryReads e.rim e.eng).fetchFlit e.rim e.eng 1) = _
      rw [State.retryReads_idle found idle, kind]
    · change Host.Outcome.next ((s.retryReads e.rim e.eng).fetchFlit e.rim e.eng 4) = _
      rw [State.retryReads_idle found idle, kind]
  have plain : d.kind ≠ 7 := by
    rcases which with ⟨kind, -⟩ | ⟨kind, -⟩ <;> omega
  have ready : (if d.kind = 4 then y.indicesFor s.fresh d y.e.fetchIdx (d.rowsNeeded y.e.fetchFlit) else .ready [] y s.fresh) =
      .ready xs z n := by
    rcases which with ⟨kind, -, rfl, rfl, rfl⟩ | ⟨kind, -, ready⟩
    · exact if_neg (by omega)
    · exact (if_pos kind).trans ready
  have from_ : y.IndexedFrom z := by
    rcases which with ⟨-, -, -, rfl, -⟩ | ⟨-, -, ready⟩
    · exact .refl z
    · exact EngSite.indexedFrom_indicesFor ready
  have flit : z.e.fetchFlit = y.e.fetchFlit := (congrArg (fun z : EngSite => z.e.fetchFlit) from_.frame :)
  refine ⟨fun bad => ?_, fun good room fails => ?_, fun good room fenced clean coherent' => ?_⟩
  · exact runs_.trans (congrArg Host.Outcome.next (State.fetchFlit_disallowed found stands runs bad _))
  · rw [runs_, State.fetchFlit_eq found stands runs good plain room ready, flit, if_pos ((any_isNone_iff _).2 fails),
      from_.engineFault]
  · have fetched := State.fetchFlit_eq found stands runs good plain room ready
    rw [flit, if_neg (fun fails => fenced ((any_isNone_iff _).1 fails))] at fetched
    obtain ⟨t, w, staged, issued⟩ := EngSite.stage_spec coherent' (z.length_pieceList_le d y.e.fetchFlit xs) clean n d.cache
    rw [staged, place] at fetched
    have engine : w.e = { z.e with counters := { z.e.counters with fetched := w.e.counters.fetched } } :=
      (congrArg EngSite.e issued.read.frame :)
    have own (w' : EngSite) (same : w' = z) : w'.p = y.p ∧ w'.k = y.k ∧ w'.n = y.n := by
      rw [same]
      exact ⟨(congrArg EngSite.p from_.frame :), (congrArg EngSite.k from_.frame :), (congrArg EngSite.n from_.frame :)⟩
    obtain ⟨p, k, m⟩ := own z rfl
    refine ⟨t, _, runs_.trans (congrArg Host.Outcome.next fetched), issued.units, issued.cached, issued.open_, issued.waiting,
      issued.chunks, ?_, issued.read.bytes, (congrArg EngSite.p issued.read.frame :).trans p,
      (congrArg EngSite.k issued.read.frame :).trans k, (congrArg EngSite.n issued.read.frame :).trans m,
      issued.read.dies.trans from_.dies⟩
    dsimp only
    rw [engine, issued.counted]

end Sys2Proof.Machine
end

section
/-! PROOFS. Streams and scatters: received flits taken to their units. -/

namespace Sys2Proof.Machine

/-! ### Taking a flit to its units -/

/-- One unit of a flit, with the site, the next free value and the places taken so far. -/
def EngSite.takeOne (d : Descriptor) (f : Flit) (g : EngSite × Nat × List Nat) (e : Nat × Nat) :
    Option (EngSite × Nat × List Nat) :=
  if g.2.2.contains e.2 ∨ ¬ g.1.canTake d f e.1 then some g
  else (g.1.takeUnit g.2.1 d f e.2 e.1).map (fun z => (z.1, z.2, g.2.2 ++ [e.2]))

theorem EngSite.take_eq (y : EngSite) (n : Nat) (d : Descriptor) (us : List Nat) (f : Flit) :
    y.take n d us f = us.zipIdx.foldl (fun acc e => acc.bind (fun g => EngSite.takeOne d f g e)) (some (y, n, y.e.useDone)) := rfl

theorem foldl_bind_none {α β : Type} (f : α → β → Option α) (l : List β) :
    l.foldl (fun acc e => acc.bind (fun g => f g e)) none = none := by
  induction l with
  | nil => rfl
  | cons e l ih => exact ih

/-- What every step keeps holds at the end. -/
theorem foldl_bind_induction {α β : Type} {f : α → β → Option α} {P : α → Prop} (step : ∀ g e g', P g → f g e = some g' → P g')
    (l : List β) {g g' : α} (start : P g) (ends : l.foldl (fun acc e => acc.bind (fun g => f g e)) (some g) = some g') : P g' := by
  induction l generalizing g with
  | nil => exact Option.some.inj ends ▸ start
  | cons e l ih =>
    rw [List.foldl_cons, Option.bind_some] at ends
    cases taken : f g e with
    | none =>
      rw [taken, foldl_bind_none] at ends
      cases ends
    | some h =>
      rw [taken] at ends
      exact ih (step g e h start taken) ends

/-! ### Units written -/

theorem Partition.noteWrite_spanUnits (x : Partition) (k u : Nat) : (x.noteWrite k u).spanUnits = x.spanUnits := by
  unfold Partition.noteWrite
  split <;> rfl

/-- The rim after the write of a unit, the write noted. -/
def EngSite.writeRim (y : EngSite) (u : Nat) (cache : Bool) (bs : List Byte) : Rim :=
  let r := y.r.writeUnit y.x.ways y.n (y.phys u) cache bs
  { r with ctx := { r.ctx with
    written := if r.ctx.written.contains (y.phys u) then r.ctx.written else r.ctx.written ++ [y.phys u] } }

/-- The site after the write of a unit. -/
def EngSite.wrote (y : EngSite) (u : Nat) (cache : Bool) (bs : List Byte) : EngSite :=
  { y with r := y.writeRim u cache bs, x := (y.x.noteWrite y.k (y.phys u)).count y.c stackWriteBytes 64 }

theorem EngSite.writeRim_engines (y : EngSite) (u : Nat) (cache : Bool) (bs : List Byte) :
    (y.writeRim u cache bs).ctx.engines = y.r.ctx.engines :=
  (congrArg RimContext.engines (y.r.writeUnit_ctx y.x.ways y.n (y.phys u) cache bs) :)

/-- A write of a unit that no flit of staging reads. -/
theorem EngSite.writeOne_eq {y : EngSite} {u : Nat} (unread : y.stagedHere u = false) (n : Nat) (cache : Bool) (bs : List Byte) :
    y.writeOne n u cache bs = (y.wrote u cache bs, n) := by
  have same : (y.wrote u cache bs).stagedHere u = y.stagedHere u := by
    unfold EngSite.stagedHere EngSite.engine EngSite.wrote
    dsimp only
    rw [EngSite.writeRim_engines]
  refine if_neg (c := (y.wrote u cache bs).stagedHere u = true) ?_
  rw [same, unread]
  exact Bool.false_ne_true

/-- The places `done` of the units `us` hold the flit's bytes at `w`; every other unit is as at `z`. -/
structure EngSite.Taken (z : EngSite) (us : List Nat) (f : Flit) (done : List Nat) (w : EngSite) : Prop where
  frame : w = { z with r := w.r, x := w.x }
  span : w.x.spanUnits = z.x.spanUnits
  engines : w.r.ctx.engines = z.r.ctx.engines
  coherent : w.r.Coherent
  inside : ∀ i ∈ done, i < us.length
  units : ∀ i u, us[i]? = some u →
    w.r.unitBytes (z.phys u) = if f.valid = true ∧ i ∈ done then f.unit i else z.r.unitBytes (z.phys u)
  others : ∀ v, v ∉ us.map z.phys → w.r.unitBytes v = z.r.unitBytes v

theorem EngSite.Taken.phys {z w : EngSite} {us done : List Nat} {f : Flit} (h : z.Taken us f done w) (u : Nat) :
    w.phys u = z.phys u := by
  rw [EngSite.phys, EngSite.phys, h.span, show w.j = z.j from (congrArg EngSite.j h.frame :)]

theorem EngSite.Taken.stagedHere {z w : EngSite} {us done : List Nat} {f : Flit} (h : z.Taken us f done w) (u : Nat) :
    w.stagedHere u = z.stagedHere u := by
  unfold EngSite.stagedHere EngSite.engine
  rw [h.engines, show w.n = z.n from (congrArg EngSite.n h.frame :), show w.e = z.e from (congrArg EngSite.e h.frame :)]

theorem length_flitUnit {f : Flit} (whole : f.payload.length = 256) {i : Nat} (hi : i < 16) : (f.unit i).length = 64 := by
  rw [Flit.unit, length_wordBytes, List.length_take, List.length_drop, whole]
  omega

/-- A place of a zero flit taken writes nothing. -/
theorem EngSite.Taken.skip {z w : EngSite} {us done : List Nat} {f : Flit} (h : z.Taken us f done w) (zero : f.valid = false)
    {i u : Nat} (there : us[i]? = some u) : z.Taken us f (done ++ [i]) w where
  frame := h.frame
  span := h.span
  engines := h.engines
  coherent := h.coherent
  inside := fun j listed => (List.mem_append.1 listed).elim (h.inside j) (fun last => by
    rw [List.mem_singleton.1 last]
    exact (List.getElem?_eq_some_iff.1 there).1)
  units := fun j v held => by
    rw [h.units j v held, if_neg (fun both => absurd (zero.symm.trans both.1) Bool.false_ne_true),
      if_neg (fun both => absurd (zero.symm.trans both.1) Bool.false_ne_true)]
  others := h.others

/-- A place of a valid flit taken writes its unit. -/
theorem EngSite.Taken.write {z w : EngSite} {us done : List Nat} {f : Flit} (h : z.Taken us f done w) (valid : f.valid = true)
    (whole : f.payload.length = 256) (few : us.length ≤ 16) (once : (us.map z.phys).Nodup) {i u : Nat} (there : us[i]? = some u)
    (cache : Bool) : z.Taken us f (done ++ [i]) (w.wrote u cache (f.unit i)) := by
  have hi := (List.getElem?_eq_some_iff.1 there).1
  obtain ⟨coherent, bytes⟩ := h.coherent.writeUnit w.x.ways w.n (w.phys u) cache (length_flitUnit whole (i := i) (by omega))
  have bytes' (v : Nat) : (w.writeRim u cache (f.unit i)).unitBytes v = if v = z.phys u then f.unit i else w.r.unitBytes v := by
    rw [← h.phys]
    exact bytes v
  have listed : z.phys u ∈ us.map z.phys := List.mem_map.2 ⟨u, List.mem_of_getElem? there, rfl⟩
  refine ⟨?_, ?_, ?_, coherent, fun j listed => ?_, fun j v held => ?_, fun v absent => ?_⟩
  · rw [EngSite.wrote, h.frame]
  · exact (Partition.count_spanUnits _ _ _ _).trans ((w.x.noteWrite_spanUnits _ _).trans h.span)
  · exact (w.writeRim_engines u cache (f.unit i)).trans h.engines
  · rcases List.mem_append.1 listed with before | last
    · exact h.inside j before
    · rw [List.mem_singleton.1 last]
      exact hi
  · rw [show (w.wrote u cache (f.unit i)).r.unitBytes (z.phys v) = _ from bytes' _]
    by_cases same : j = i
    · rw [same, there] at held
      rw [← Option.some.inj held, if_pos rfl, if_pos ⟨valid, List.mem_append_right _ (List.mem_singleton.2 same)⟩, same]
    · have apart : z.phys v ≠ z.phys u := fun equal => same (by
        have hj := (List.getElem?_eq_some_iff.1 held).1
        refine (once.getElem_inj_iff (hi := by rwa [List.length_map]) (hj := by rwa [List.length_map])).1 ?_
        rw [List.getElem_map, List.getElem_map, (List.getElem?_eq_some_iff.1 held).2, (List.getElem?_eq_some_iff.1 there).2]
        exact equal)
      rw [if_neg apart, h.units j v held]
      refine if_congr (and_congr_right fun _ => ?_) rfl rfl
      rw [List.mem_append, List.mem_singleton, or_iff_left same]
  · rw [show (w.wrote u cache (f.unit i)).r.unitBytes v = _ from bytes' v, if_neg (fun same : v = z.phys u => absent (same ▸ listed))]
    exact h.others v absent

section
variable {z : EngSite} {us : List Nat} {f : Flit} {d : Descriptor}

/-- Before any place is taken. -/
theorem EngSite.taken_nil (coherent : z.r.Coherent) (us : List Nat) (f : Flit) : z.Taken us f [] z where
  frame := rfl
  span := rfl
  engines := rfl
  coherent := coherent
  inside := fun _ listed => absurd listed List.not_mem_nil
  units := fun _ _ _ => (if_neg (fun both => absurd both.2 List.not_mem_nil)).symm
  others := fun _ _ => rfl

theorem Descriptor.flitless_of_write (write : d.kind = 2 ∨ d.kind = 5) : d.flitless = false := by
  rw [Descriptor.flitless, Bool.and_eq_false_iff]
  rcases write with kind | kind <;> rw [kind] <;> exact .inl rfl

/-- One place of a flit of a write stream or scatter, taken or left to wait. -/
theorem EngSite.takeOne_write (write : d.kind = 2 ∨ d.kind = 5) (whole : f.payload.length = 256) (few : us.length ≤ 16)
    (once : (us.map z.phys).Nodup) (unread : ∀ u ∈ us, z.stagedHere u = false) {done : List Nat} {w : EngSite}
    (h : z.Taken us f done w) {i u : Nat} (there : us[i]? = some u) (new : i ∉ done) (n : Nat) :
    ∃ w' done', EngSite.takeOne d f (w, n, done) (u, i) = some (w', n, done') ∧ z.Taken us f done' w' ∧
      (∀ j ∈ done', j ∈ done ∨ j = i) ∧ (d.cache = true ∨ f.valid = false → done' = done ++ [i]) := by
  have flits := Descriptor.flitless_of_write write
  have last (j : Nat) (listed : j ∈ done ++ [i]) : j ∈ done ∨ j = i :=
    (List.mem_append.1 listed).imp_right List.mem_singleton.1
  unfold EngSite.takeOne
  dsimp only
  split
  next waits =>
    refine ⟨w, done, rfl, h, fun j listed => .inl listed, fun forced => ?_⟩
    have refused : ¬ w.canTake d f u = true := waits.resolve_left (fun held => new (List.contains_iff_mem.1 held))
    refine absurd ?_ refused
    unfold EngSite.canTake
    dsimp only
    rcases forced with cached | zero
    · by_cases idle : ¬ d.flitless = true ∧ ¬ f.valid = true
      · exact if_pos idle
      · rw [if_neg idle, if_pos write, cached]
        rfl
    · exact if_pos ⟨by rw [flits]; exact Bool.false_ne_true, by rw [zero]; exact Bool.false_ne_true⟩
  next =>
    unfold EngSite.takeUnit
    rw [if_neg (by rw [flits]; exact Bool.false_ne_true)]
    by_cases valid : f.valid = true
    · have unread' : w.stagedHere u = false := (h.stagedHere u).trans (unread u (List.mem_of_getElem? there))
      rw [if_neg (not_not_intro valid), if_pos write, EngSite.writeOne_eq unread', Option.map_some]
      exact ⟨_, _, rfl, h.write valid whole few once there d.cache, last, fun _ => rfl⟩
    · rw [if_pos valid, Option.map_some]
      exact ⟨w, _, rfl, h.skip (Bool.eq_false_iff.2 valid) there, last, fun _ => rfl⟩

theorem EngSite.foldl_takeOne_write (write : d.kind = 2 ∨ d.kind = 5) (whole : f.payload.length = 256) (few : us.length ≤ 16)
    (once : (us.map z.phys).Nodup) (unread : ∀ u ∈ us, z.stagedHere u = false) (n : Nat) (l : List (Nat × Nat))
    (there : ∀ e ∈ l, us[e.2]? = some e.1) (places : (l.map Prod.snd).Nodup) {done : List Nat} {w : EngSite}
    (h : z.Taken us f done w) (new : ∀ e ∈ l, e.2 ∉ done) :
    ∃ w' done', l.foldl (fun acc e => acc.bind (fun g => EngSite.takeOne d f g e)) (some (w, n, done)) = some (w', n, done') ∧
      z.Taken us f done' w' ∧ (d.cache = true ∨ f.valid = false → done' = done ++ l.map Prod.snd) := by
  induction l generalizing done w with
  | nil => exact ⟨w, done, rfl, h, fun _ => (List.append_nil done).symm⟩
  | cons e l ih =>
    rw [List.map_cons, List.nodup_cons] at places
    obtain ⟨fresh, places⟩ := places
    obtain ⟨w₁, done₁, step, h₁, from_, forced₁⟩ := EngSite.takeOne_write write whole few once unread h
      (there e List.mem_cons_self) (new e List.mem_cons_self) n
    obtain ⟨w₂, done₂, rest, h₂, forced₂⟩ := ih (fun e' listed => there e' (List.mem_cons_of_mem e listed)) places h₁
      (fun e' listed held => (from_ e'.2 held).elim (new e' (List.mem_cons_of_mem e listed))
        (fun same => fresh (List.mem_map.2 ⟨e', listed, same⟩)))
    refine ⟨w₂, done₂, ?_, h₂, fun forced => ?_⟩
    · rw [List.foldl_cons, Option.bind_some, step]
      exact rest
    · rw [forced₂ forced, forced₁ forced, List.append_assoc, List.map_cons]
      rfl

/-- A flit of a write stream or scatter goes to every unit that the controller accepts. -/
theorem EngSite.take_write (write : d.kind = 2 ∨ d.kind = 5) (whole : f.payload.length = 256) (few : us.length ≤ 16)
    (once : (us.map z.phys).Nodup) (unread : ∀ u ∈ us, z.stagedHere u = false) (coherent : z.r.Coherent)
    (none_ : z.e.useDone = []) (n : Nat) :
    ∃ w done, z.take n d us f = some (w, n, done) ∧ z.Taken us f done w ∧
      (d.cache = true ∨ f.valid = false → done = List.range us.length) := by
  have there (e : Nat × Nat) (listed : e ∈ us.zipIdx) : us[e.2]? = some e.1 := List.mem_zipIdx_iff_getElem?.1 listed
  have places : us.zipIdx.map Prod.snd = List.range us.length := by
    rw [List.zipIdx_map_snd, List.range_eq_range']
  obtain ⟨w, done, taken, h, forced⟩ := EngSite.foldl_takeOne_write write whole few once unread n us.zipIdx there
    (by rw [places]; exact List.nodup_range) (z.taken_nil coherent us f) (fun e _ => List.not_mem_nil)
  refine ⟨w, done, ?_, h, fun all => (forced all).trans (by rw [places, List.nil_append])⟩
  rw [EngSite.take_eq, none_]
  exact taken

end

/-! ### Operations -/

/-- An operation of a rim's cache leaves the engine as it stood. -/
theorem EngSite.operateOne_engine {y w : EngSite} {d : Descriptor} {u : Nat} {bs : List Byte}
    (taken : y.operateOne d u bs = some w) : w.e = y.e := by
  unfold EngSite.operateOne at taken
  obtain ⟨e, -, rfl⟩ := Option.map_eq_some_iff.1 taken
  rfl

theorem EngSite.takeUnit_operation {y w : EngSite} {n m i u : Nat} {d : Descriptor} {f : Flit}
    (operation : d.kind = 3 ∨ d.kind = 6) (taken : y.takeUnit n d f i u = some (w, m)) : m = n ∧ w.e = y.e := by
  unfold EngSite.takeUnit at taken
  have applied {bs : List Byte} (done : (y.operateOne d u bs).map (fun z => (z, n)) = some (w, m)) : m = n ∧ w.e = y.e := by
    obtain ⟨w', operated, same⟩ := Option.map_eq_some_iff.1 done
    cases same
    exact ⟨rfl, EngSite.operateOne_engine operated⟩
  split at taken
  · exact applied taken
  · split at taken
    · cases taken
      exact ⟨rfl, rfl⟩
    · rw [if_neg (by omega)] at taken
      exact applied taken

/-- A flit of an operation stream leaves the engine as it stood, and the places taken before stay taken. -/
theorem EngSite.take_operation {z w : EngSite} {n m : Nat} {d : Descriptor} {us : List Nat} {f : Flit} {done : List Nat}
    (operation : d.kind = 3 ∨ d.kind = 6) (taken : z.take n d us f = some (w, m, done)) :
    m = n ∧ w.e = z.e ∧ ∀ i ∈ z.e.useDone, i ∈ done := by
  refine foldl_bind_induction (f := EngSite.takeOne d f)
    (P := fun g => g.2.1 = n ∧ g.1.e = z.e ∧ ∀ i ∈ z.e.useDone, i ∈ g.2.2) (fun g e g' keeps step => ?_) us.zipIdx
    (g := (z, n, z.e.useDone)) ⟨rfl, rfl, fun _ listed => listed⟩ taken
  obtain ⟨free, engine, held⟩ := keeps
  unfold EngSite.takeOne at step
  split at step
  · exact Option.some.inj step ▸ ⟨free, engine, held⟩
  · obtain ⟨w, unit, rfl⟩ := Option.map_eq_some_iff.1 step
    obtain ⟨same, engine'⟩ := EngSite.takeUnit_operation operation unit
    exact ⟨same.trans free, engine'.trans engine, fun i listed => List.mem_append_left _ (held i listed)⟩

/-! ### One flit of the consume sequence -/

section
variable {s : State} {k m : Nat} {y z : EngSite} {n : Nat} {d : Descriptor} {xs : List W32} {kinds : List Nat}

/-- The engine after a flit whose places `done` of `us` units are taken. -/
def Engine.afterTake (e : Engine) (d : Descriptor) (a : Nat) (xs : List W32) (us : List Nat) (done : List Nat) : Engine :=
  if done.length < us.length then { e with useIdx := xs, useDone := done }
  else ({ e with useIdx := xs, useDone := [], received := if d.flitless then e.received else e.received.tail } : Engine).used d a

/-- A flit that is consumed, its indices at hand and its pieces inside the fence: the two ends it can come to. -/
theorem State.useFlit_eq (found : s.engSite k m = some y) (stands : y.e.at? y.e.usePlace = some d)
    (runs : y.r.paused = false) (good : d.allowed m = true) (kind : kinds.contains d.kind = true)
    (waits : d.flitless = false → y.e.received ≠ [])
    (ready : (if d.kind = 5 ∨ d.kind = 6 then y.indicesFor s.fresh d y.e.useIdx (d.rowsNeeded y.e.useFlit)
      else .ready [] y s.fresh) = .ready xs z n) (fenced : none ∉ z.pieces d z.e.useFlit xs) :
    (z.take n d (pieceList d (z.pieces d z.e.useFlit xs)) (z.e.received.headD .zero) = none →
      s.useFlit k m kinds = s.engineFault z .faultReductionLine) ∧
    ∀ w m' done, z.take n d (pieceList d (z.pieces d z.e.useFlit xs)) (z.e.received.headD .zero) = some (w, m', done) →
      s.useFlit k m kinds = { s with fresh := m' }.putEngine { w with
        e := w.e.afterTake d y.e.usePlace xs (pieceList d (z.pieces d z.e.useFlit xs)) done } := by
  have held : ¬ (¬ d.flitless = true ∧ y.e.received.isEmpty = true) := fun both =>
    waits (Bool.eq_false_iff.2 both.1) (List.isEmpty_iff.1 both.2)
  refine ⟨fun taken => ?_, fun w m' done taken => ?_⟩
  all_goals
    unfold State.useFlit
    rw [found]
    dsimp only
    rw [stands]
    dsimp only
    rw [if_neg (by rw [runs]; exact Bool.false_ne_true), if_neg (not_not_intro good), if_neg (not_not_intro kind), if_neg held,
      ready]
    dsimp only
    rw [taken]
  dsimp only
  rw [if_neg (fun fails => fenced ((any_isNone_iff _).1 fails)), List.drop_one]
  rfl

end

/-- Settles O32, a write by its units one after the other, an operation by what it leaves of the engine. -/
theorem receivedFlitsAreConsumed : Obligations.ReceivedFlitsAreConsumed := by
  unfold Obligations.ReceivedFlitsAreConsumed
  refine ⟨?_, ?_⟩
  · intro s e y z a n d xs f rest found place stands runs received fresh whole good command which pieces units fenced coherent
      once unread
    rw [← place] at stands
    have write : d.kind = 2 ∨ d.kind = 5 := by
      rcases which with ⟨kind, -⟩ | ⟨kind, -⟩
      · exact .inl kind
      · exact .inr kind
    have from_ : y.IndexedFrom z := by
      rcases which with ⟨-, -, -, rfl, -⟩ | ⟨-, -, ready⟩
      · exact .refl z
      · exact EngSite.indexedFrom_indicesFor ready
    have ready : (if d.kind = 5 ∨ d.kind = 6 then y.indicesFor s.fresh d y.e.useIdx (d.rowsNeeded y.e.useFlit)
        else .ready [] y s.fresh) = .ready xs z n := by
      rcases which with ⟨kind, -, rfl, rfl, rfl⟩ | ⟨kind, -, ready⟩
      · exact if_neg (by omega)
      · exact (if_pos (.inl kind)).trans ready
    have engine : z.e = { y.e with indices := z.e.indices } := (congrArg EngSite.e from_.frame :)
    have flit : z.e.useFlit = y.e.useFlit := (congrArg Engine.useFlit engine :)
    have received' : z.e.received = f :: rest := (congrArg Engine.received engine :).trans received
    have fresh' : z.e.useDone = [] := (congrArg Engine.useDone engine :).trans fresh
    obtain ⟨w, done, taken, h, forced⟩ := EngSite.take_write write whole (z.length_pieceList_le d y.e.useFlit xs) once unread
      coherent fresh' n
    have uses (kinds : List Nat) (kind : kinds.contains d.kind = true) : s.useFlit e.rim e.eng kinds =
        { s with fresh := n }.putEngine { w with e := z.e.afterTake d a xs units done } := by
      have ends := (State.useFlit_eq found stands runs good kind (fun _ => by rw [received]; exact List.cons_ne_nil f rest) ready
        (by rw [flit]; exact fenced)).2 w n done (by rw [flit, received']; exact taken)
      rw [flit, place, show w.e = z.e from (congrArg EngSite.e h.frame :)] at ends
      exact ends
    have runs_ : exec command s = .next ({ s with fresh := n }.putEngine { w with e := z.e.afterTake d a xs units done }) := by
      rcases which with ⟨kind, rfl, -⟩ | ⟨kind, rfl, -⟩
      · exact congrArg Host.Outcome.next (uses [2] (by rw [kind]; rfl))
      · exact congrArg Host.Outcome.next (uses [5] (by rw [kind]; rfl))
    refine ⟨_, done, runs_, forced, h.inside, ?_, h.units, h.others,
      (congrArg EngSite.p h.frame :).trans (congrArg EngSite.p from_.frame :),
      (congrArg EngSite.k h.frame :).trans (congrArg EngSite.k from_.frame :),
      (congrArg EngSite.n h.frame :).trans (congrArg EngSite.n from_.frame :)⟩
    dsimp only
    unfold Engine.afterTake
    rw [Descriptor.flitless_of_write write, received', ← fresh']
    rfl
  · intro s e y z a n d xs found place stands runs waits good command which pieces units fenced
    rw [← place] at stands
    have operation : d.kind = 3 ∨ d.kind = 6 := by
      rcases which with ⟨kind, -⟩ | ⟨kind, -⟩
      · exact .inl kind
      · exact .inr kind
    have from_ : y.IndexedFrom z := by
      rcases which with ⟨-, -, -, rfl, -⟩ | ⟨-, -, ready⟩
      · exact .refl z
      · exact EngSite.indexedFrom_indicesFor ready
    have ready : (if d.kind = 5 ∨ d.kind = 6 then y.indicesFor s.fresh d y.e.useIdx (d.rowsNeeded y.e.useFlit)
        else .ready [] y s.fresh) = .ready xs z n := by
      rcases which with ⟨kind, -, rfl, rfl, rfl⟩ | ⟨kind, -, ready⟩
      · exact if_neg (by omega)
      · exact (if_pos (.inr kind)).trans ready
    have engine : z.e = { y.e with indices := z.e.indices } := (congrArg EngSite.e from_.frame :)
    have flit : z.e.useFlit = y.e.useFlit := (congrArg Engine.useFlit engine :)
    have received' : z.e.received = y.e.received := (congrArg Engine.received engine :)
    have runs_ : ∃ kinds : List Nat, kinds.contains d.kind = true ∧ exec command s = .next (s.useFlit e.rim e.eng kinds) := by
      rcases which with ⟨kind, rfl, -⟩ | ⟨kind, rfl, -⟩
      · exact ⟨[3], by rw [kind]; rfl, rfl⟩
      · exact ⟨[6], by rw [kind]; rfl, rfl⟩
    obtain ⟨kinds, kind, runs_⟩ := runs_
    have ends := State.useFlit_eq found stands runs good kind waits ready (by rw [flit]; exact fenced)
    rw [flit, received', place] at ends
    obtain ⟨faults, goes⟩ := ends
    split
    next taken => exact runs_.trans (congrArg Host.Outcome.next (faults taken))
    next w m done taken =>
      obtain ⟨same, engine', kept⟩ := EngSite.take_operation operation taken
      refine ⟨same, kept, runs_.trans (congrArg Host.Outcome.next ((goes w m done taken).trans ?_))⟩
      rw [same, engine']
      rfl

end Sys2Proof.Machine
end
